-- ==== Sys2Proof/Word.lean ====
section
/-!
DEFINITION. The word types of the EZ4832 model and their plainest arithmetic.
-/

namespace Sys2Proof

/-- One byte (R8). -/
abbrev Byte := BitVec 8
/-- A 16-bit field. -/
abbrev W16 := BitVec 16
/-- A vector or uniform register, and any 32-bit field (R50). -/
abbrev W32 := BitVec 32
/-- A 64-bit register, instruction word, command word or counter (R8, R70). -/
abbrev W64 := BitVec 64
/-- A 128-bit block: an SM4 block or a W96 container (R141, R225). -/
abbrev W128 := BitVec 128
/-- A table keyed by a number: entries in strictly rising key order. -/
abbrev FMap (v : Type) := List (Nat × v)

end Sys2Proof
end

