-- ==== Sys2Proof/Config.lean ====
section
/-!
DEFINITION. What one implementation fixes and the manual leaves open: the free values of the model (constants without a body)
and the few sizes the manual gives as numbers.
-/

namespace Sys2Proof.Config

/-- Number of bytes of exposed device memory: 2,560 GiB (R2, R212). -/
def dpaLimit : Nat := 2748779069440

/-- A fresh free 64-bit value, applied to the counter `free` of the state: what the manual leaves undefined or random. -/
opaque freeValue : Nat → W64
/-- A fresh free 128-bit value: the random keys and nonces of R224 and R422. -/
opaque freeKey : Nat → W128
/-- FRCP of an operand for which the manual states no result: zeros and infinities (R78). -/
opaque frcpOpen : W32 → W32
/-- FRSQ of an operand for which the manual states no result: zeros, infinities, negative numbers (R78). -/
opaque frsqOpen : W32 → W32
/-- FLOG2 of an operand for which the manual states no result: zeros, infinities, negative numbers (R78). -/
opaque flog2Open : W32 → W32
/-- FEXP2 of an infinity (R78). -/
opaque fexp2Open : W32 → W32
/-- Which of the results within 1 unit in the last place a transcendental instruction gives, by opcode and operand (R78). -/
opaque ulpChoice : Nat → W32 → Nat
/-- The SM3 hashes of the four vendor root public keys that mask ROM holds (R447). -/
opaque romRootHash : Nat → BitVec 256
/-- The mask ROM version (R436). -/
opaque romVersion : W32
/-- The 12-character serial number written at test (R436), as bytes. -/
opaque serialByte : Nat → Byte
/-- The 48-bit MAC address written at test (R418), as bytes. -/
opaque macByte : Nat → Byte
/-- Flits of one traffic class that a mesh stop has credits for: the manual gives each class its own credits and no number (R27). -/
opaque meshCredits : Nat
/-- The phase whose learned D 0x2007 uses, per tent and format row: the manual does not say how the per-phase D becomes a per-format figure
(R397). -/
opaque sustainPhase : Nat → Nat → Fin 5
/-- The fuzzy extractor (R453): what the PUF SRAM held and the helper data give K_PUF, or nothing where the reconstruction fails. -/
opaque fuzzyExtract : W64 → List Byte → Option (BitVec 256)
/-- The bytes of a copy of record set 1 or 3, whose layout the manual does not give, by set and the model's bytes of it (R456). -/
opaque copyBytes : Nat → List Byte → List Byte
/-- Calibrated power in µW of a rail from its raw voltage and current: the manual does not give the form of the coefficients (R400). -/
opaque calibratedPower : List Byte → Nat → Nat → Nat → Nat

end Sys2Proof.Config
end

