-- ==== Sys2Proof/Types.lean ====
section
/-!
DEFINITION. The numbers of the device's units, the fields of Alasha words, flits, packets, messages and the measurements that
commands carry. `Syntax.lean` builds the commands from them.
-/

namespace Sys2Proof

/-! ### Numbers of units (R24, R315) -/

/-- Device ring number (R24). -/
abbrev RingId := Fin 192
/-- Tent number (R24). -/
abbrev TentId := Fin 8
/-- Booth within its ring (R18). -/
abbrev BoothId := Fin 4
/-- Troupe slot of a booth (R20). -/
abbrev SlotId := Fin 16
/-- Memory channel (R24). -/
abbrev ChanId := Fin 32
/-- DRAM bank of a channel: rank × 32 + bank index (R208, R212). -/
abbrev DramBankId := Fin 64
/-- Bushel bank of a tent (R179). -/
abbrev BushelBankId := Fin 32
/-- Chip-to-chip link (R24). -/
abbrev LinkId := Fin 48
/-- Mesh link: ten between tents and two from the hub (R25). The manual gives the mesh links no numbers; 0 to 9 and 10 to 11 are the model's
(DESIGN CHOICE). -/
abbrev MeshLinkId := Fin 12
/-- Mesh stop: tents 0 to 7, and the hub die as 8 (the model's number). -/
abbrev MeshStop := Fin 9
/-- Traffic class of the mesh (R27). -/
inductive MeshClass where
  | request | response | management
deriving DecidableEq, Repr
/-- A flit on its way over a mesh link: the link, its direction, its class and the stop it is bound for (R26, R27). -/
structure MeshHop where
  link : MeshLinkId
  back : Bool
  cls : MeshClass
  dest : MeshStop
deriving DecidableEq, Repr
/-- DMA engine within its tent (R24). -/
abbrev EngineId := Fin 8
/-- Context number (R315). -/
abbrev CtxId := Fin 1024
/-- Hardware queue number (R315). -/
abbrev QueueId := Fin 4096
/-- Key slot number (R229). -/
abbrev KeySlotId := Fin 4096
/-- Memory object number (R315). -/
abbrev ObjId := Fin 1048576
/-- Device id within a domain (R272). -/
abbrev DeviceId := Fin 4096

/-- A resident troupe, named by the first slot it takes on its booth. -/
structure TroupeRef where
  ring : RingId
  booth : BoothId
  slot : SlotId
deriving DecidableEq, Repr

/-- A command that the barker has fetched, named by its queue and its count in that queue (R316). -/
structure CmdRef where
  queue : QueueId
  count : W32
deriving DecidableEq, Repr

/-! ### Alasha words (R70 to R102) -/

/-- The R form of R72, every field of the word but OPCODE. -/
structure RForm where
  guard : BitVec 5 := 0
  reuse : BitVec 3 := 0
  dst : Byte := 0xFF
  srcA : Byte := 0xFF
  srcB : Byte := 0xFF
  srcC : Byte := 0xFF
  usel : BitVec 3 := 0
  udst : Bool := false
  type : BitVec 3 := 0
  neg : BitVec 2 := 0
  cond : BitVec 3 := 0
  sub : BitVec 4 := 0
deriving DecidableEq, Repr

/-- The I form of R74. -/
structure IForm where
  guard : BitVec 5 := 0
  reuse : BitVec 3 := 0
  dst : Byte := 0xFF
  srcA : Byte := 0xFF
  imm : W32 := 0
deriving DecidableEq, Repr

/-- The word forms of a mnemonic that R85 gives an R form, an I form and a uniform I form. -/
inductive VForm where
  | r (f : RForm)
  | i (f : IForm)
  | u (f : IForm)
deriving DecidableEq, Repr

/-- CALL: the I form with a vector pair (0x81) or a uniform pair (0x82) as DST (R86). -/
structure CallForm where
  uniform : Bool := false
  f : IForm
deriving DecidableEq, Repr

/-- CVT (R151). -/
structure CvtForm where
  guard : BitVec 5 := 0
  reuse : BitVec 3 := 0
  dst : Byte
  srcA : Byte
  srcB : Byte := 0xFF
  srcC : Byte := 0xFF
  usel : BitVec 3 := 0
  udst : Bool := false
  srcFmt : BitVec 4
  dstFmt : BitVec 4
  rnd : BitVec 2 := 0
  count : BitVec 2 := 0
deriving DecidableEq, Repr

/-- LD and ST (R79). -/
structure MemForm where
  guard : BitVec 5 := 0
  reuse : BitVec 3 := 0
  data : Byte
  base : Byte
  space : BitVec 2
  hint : BitVec 2 := 0
  size : BitVec 3
  signed : Bool := false
  baseU : Bool := false
  transpose : Bool := false
  offset : BitVec 22 := 0
deriving DecidableEq, Repr

/-- ATOM (R87), less OP, which the mnemonic fixes. -/
structure AtomForm where
  guard : BitVec 5 := 0
  reuse : BitVec 3 := 0
  dst : Byte := 0xFF
  addr : Byte
  srcB : Byte
  srcC : Byte := 0xFF
  addrU : Bool := false
  global : Bool
  type : BitVec 3
  offset : Byte := 0
deriving DecidableEq, Repr

/-- The five operations of ATOM (R87). -/
inductive AtomOp where
  | add | max | min | cas | exch
deriving DecidableEq, Repr

/-- RED.ADD and RED.FOLD (R89). -/
structure RedForm where
  guard : BitVec 5 := 0
  reuse : BitVec 3 := 0
  reservedA : Byte := 0xFF
  addr : Byte
  srcB : Byte := 0xFF
  reservedB : Byte := 0xFF
  addrU : Bool := false
  fmt : BitVec 4
  accRnd : BitVec 2 := 0
  reservedC : Bool := false
  offset : Byte := 0
deriving DecidableEq, Repr

/-- TURN.SIG and TURN.WAIT (R91). -/
structure TurnForm where
  guard : BitVec 5 := 0
  reservedA : BitVec 3 := 0
  pdst : BitVec 3 := 0
  pdstEn : Bool := false
  handleU : BitVec 6
  valU : BitVec 6 := 0
  valImm : Bool := false
  mode : Bool := false
  reservedB : BitVec 14 := 0
  imm : W16 := 0
deriving DecidableEq, Repr

/-- BAR.T and BAR.R (R93). -/
structure BarForm where
  guard : BitVec 5 := 0
  reserved : BitVec 50 := 0
  g : Bool := false
deriving DecidableEq, Repr

/-- STAT.W (R247). -/
structure StatForm where
  guard : BitVec 5 := 0
  reuse : BitVec 3 := 0
  dst : Byte := 0xFF
  srcA : Byte
  srcB : Byte
  srcC : Byte := 0xFF
  usel : BitVec 3 := 2
  udst : Bool := false
  fmt : BitVec 4
  reserved : BitVec 6 := 0
  count : BitVec 2 := 0
deriving DecidableEq, Repr

/-- MX.CFG (R96). -/
structure MxCfgForm where
  guard : BitVec 5 := 0
  afmt : BitVec 4 := 3
  wfmt : BitVec 4 := 3
  passes : BitVec 2 := 0
  scale : BitVec 3 := 0
  reserved : BitVec 38 := 0
  word1 : W64 := 0
deriving DecidableEq, Repr

/-- MX.LDW (R98). -/
structure MxLdwForm where
  guard : BitVec 5 := 0
  slot : BitVec 4
  transpose : Bool := false
  baseU : BitVec 6 := 0
  baseEn : Bool := false
  reserved0 : BitVec 39 := 0
  reserved1 : BitVec 12 := 0
  pitch : BitVec 12 := 0
  scaleOff : BitVec 20 := 0
  addrOff : BitVec 20 := 0
deriving DecidableEq, Repr

/-- MX.RUN (R98). -/
structure MxRunForm where
  guard : BitVec 5 := 0
  slot : BitVec 4
  acc : BitVec 4
  rows : BitVec 7
  start : Bool := false
  baseU : BitVec 6 := 0
  baseEn : Bool := false
  reserved0 : BitVec 28 := 0
  reserved1 : BitVec 12 := 0
  pitch : BitVec 12 := 0
  scaleOff : BitVec 20 := 0
  addrOff : BitVec 20 := 0
deriving DecidableEq, Repr

/-- MX.DRN (R98). -/
structure MxDrnForm where
  guard : BitVec 5 := 0
  dfmt : BitVec 4
  rnd : BitVec 2 := 0
  acc : BitVec 4
  rows : BitVec 7
  toRegs : Bool := false
  rowsum : Bool := false
  dreg : Byte := 0xFF
  scaleExp : Byte := 0
  baseU : BitVec 6 := 0
  baseEn : Bool := false
  reserved0 : BitVec 9 := 0
  reserved1 : BitVec 12 := 0
  pitch : BitVec 12 := 0
  rowsumOff : BitVec 20 := 0
  addrOff : BitVec 20 := 0
deriving DecidableEq, Repr

/-! ### What comes back from memory and from the host -/

/-- What comes back from the module with one stored slot of an ell, or with its header (R220 to R222, R226, R227): the erroneous symbols, 0 to
9, of every beat that has any, in the slot, in the tag grain that covers it and in the header grain; and whether what the device had
written there, slot with tag or header, has been altered. -/
structure Ecc where
  data : List (List Nat) := []
  tag : List (List Nat) := []
  header : List (List Nat) := []
  /-- slot or tag altered -/
  tagMismatch : Bool := false
  /-- header altered -/
  headerMismatch : Bool := false
deriving DecidableEq, Repr

/-- What takes the data bus of a channel (R210): the head read of a bank, or a batch of writes. -/
inductive DramTurn where
  | read (bank : DramBankId)
  | writes
deriving DecidableEq, Repr

/-- Where a combined atomic request is performed (R56). -/
inductive AtomSite where
  | scratchpad (ring : RingId)
  | bushel (tent : TentId) (bank : BushelBankId)
deriving DecidableEq, Repr

/-- What copy of the grain the host asks to hold with a CXL.mem read (R355). -/
inductive HostWant where
  | noCopy | shared | exclusive
deriving DecidableEq, Repr

/-- How the host completes a CXL.cache request of the device (R308, R344). -/
inductive CacheDone where
  /-- RdCurr data: host grain address (bytes / 64), the 64 bytes, poison -/
  | data (grain : Nat) (bytes : List Byte) (poison : Bool)
  /-- WrCur or ItoMWr of the oldest write to the grain is complete -/
  | written (grain : Nat)
deriving DecidableEq, Repr

/-! ### Links (R264 to R288) -/

/-- A packet: the header of R273 and its payload. -/
structure Packet where
  op : BitVec 4
  vc : BitVec 2
  flow : BitVec 4 := 0
  hops : BitVec 6 := 63
  dstId : DeviceId
  srcId : DeviceId
  dstDom : Bool
  srcDom : Bool
  len : BitVec 13 := 0
  tag : W16 := 0
  status : W16 := 0
  sel : W16 := 0
  mode : Bool := false
  err : Bool := false
  addr : W64 := 0
  aux : W64 := 0
  payload : List Byte := []
deriving DecidableEq, Repr

/-- A flit (R267): the header fields, its packet bytes, its CRC-32C, and what the decoder met in the FEC codewords in which it has a byte:
symbol errors, and whether the codeword ends with this flit (R262). -/
structure Flit where
  ftype : BitVec 4
  seq : BitVec 12
  ack : BitVec 12
  vc : BitVec 2 := 0
  sop : Bool := false
  eop : Bool := false
  len : Byte := 0
  cvc : BitVec 2 := 0
  credits : BitVec 6 := 0
  bytes : List Byte := []
  crc : W32 := 0
  codewords : List (Nat × Bool) := []
deriving DecidableEq, Repr

/-- Why an Up link retrains (R268, R269). -/
inductive RetrainCause where
  | retryLimit | codewords | silent
deriving DecidableEq, Repr

/-- What one training step found about the lanes (R264). -/
structure LaneFind where
  swapped : Bool := false
  polarity : BitVec 2 := 0
deriving DecidableEq, Repr

/-! ### Power, clocks and boot -/

/-- One sample of every rail input of R385, in table order VDD_T0 to T7, BSH, HUB, QM, SDL, SDH, AON, IO: millivolt and milliampere. -/
structure RailSample where
  mV : List Nat
  mA : List Nat
deriving DecidableEq, Repr

/-- What the sensors give at a control period: the junctions of tents 0 to 7 and the hub, in millidegree Celsius (R398, R471). -/
structure PeriodSense where
  junctionMilliC : List Int
deriving DecidableEq, Repr

/-- One ageing measurement of a tent (R412): frequencies of the 16 oscillators, slack in ps of the 8 monitors. -/
structure AgeSense where
  fNow : List Nat
  slackPs : List Nat
deriving DecidableEq, Repr

/-- A register of BAR0 that REGISTER_WRITE names: a device control register (R313), or one of the four double words of an entry of the MSI-X
table (R312), as PCIe lays it out: low and high address, data, vector control. -/
inductive CtlReg where
  | ready | evqBase | evqSize | evqHead | evqTail | admqRing | admqCq | admqCfg
  | msix (vector : Fin 2048) (dword : Fin 4)
deriving DecidableEq, Repr

/-- A board input (R466). -/
inductive BoardInput where
  | sysReset | perst | brake | alert
deriving DecidableEq, Repr

/-- The levels of the four board inputs at one sample instant: `true` is a high pin. -/
structure InputLevels where
  sysReset : Bool
  perst : Bool
  brake : Bool
  alert : Bool
deriving DecidableEq, Repr

/-- What the SPD of a module declares (R205): an MRDIMM with registering clock driver and data buffers, operated as multiplexed ranks; the
width, density in Gb, banks, bank groups, rows and page bytes of its DRAM devices; devices of the module; subchannels; rated MT/s; capacity
of the data devices in GiB; the I3C sideband. -/
structure Spd where
  mrdimm : Bool := true
  ranks : Nat := 2
  width : Nat := 4
  density : Nat := 24
  banks : Nat := 32
  groups : Nat := 8
  rows : Nat := 98304
  page : Nat := 1024
  devices : Nat := 40
  subchannels : Nat := 2
  rate : Nat := 13200
  capacity : Nat := 96
  i3c : Bool := true
deriving DecidableEq, Repr

/-- The result of training one channel (R236): the serial number and properties that its module's SPD declares, the steps 2 to 4 done; or
the step that failed. -/
inductive TrainResult where
  | trained (serial : Nat) (spd : Spd)
  | failed (step : Nat)
deriving DecidableEq, Repr

/-! ### The dictionary and the field network (R418 to R431) -/

/-- A message of R420. -/
structure Msg where
  version : Byte := 1
  type : Byte
  cls : Byte
  status : Byte := 0
  session : W32 := 0
  seq : W64 := 0
  index : W16 := 0
  sub : Byte := 0
  dtype : Byte := 0
  offset : W32 := 0
  length : W16 := 0
  context : W16 := 0
  flags : Byte := 0
  reserved : BitVec 24 := 0
  payload : List Byte := []
  tag : List Byte := []
deriving DecidableEq, Repr

/-- Where a dictionary request comes from (R431): a datagram with its source address, or the CXL mailbox. -/
inductive Via where
  /-- a UDP datagram from a source address to a port of the device -/
  | net (source : Nat) (port : Nat := 47230)
  | mailbox
deriving DecidableEq, Repr

end Sys2Proof
end

