-- ==== Sys2Proof/Syntax.lean ====
section
/-!
DEFINITION. The commands of the block: one constructor per row of the operation table, each one whole, indivisible step of the part.
-/

namespace Sys2Proof

/-- The commands (operations and events) of the EZ4832, in the order of the operation table. -/
inductive Instr where
  /-- MOV (R84): Each participating thread copies SRC_A, or IMM32 in the I form, to DST. -/
  | mov (who : TroupeRef) (f : VForm)
  /-- SEL (R84): Each participating thread writes SRC_A or SRC_B to DST according to a predicate. -/
  | sel (who : TroupeRef) (f : RForm)
  /-- IADD (R84): Integer addition modulo the operand width, in register or immediate form. -/
  | iadd (who : TroupeRef) (f : VForm)
  /-- ISUB (R84): Integer subtraction modulo the operand width. -/
  | isub (who : TroupeRef) (f : RForm)
  /-- IMUL (R84): Integer multiply giving the low half, or the high half with SUB 1. -/
  | imul (who : TroupeRef) (f : VForm)
  /-- IMAD (R84): Integer multiply-add giving the low half. -/
  | imad (who : TroupeRef) (f : RForm)
  /-- IMIN (R84): Signed or unsigned integer minimum, selected by TYPE. -/
  | imin (who : TroupeRef) (f : RForm)
  /-- IMAX (R84): Signed or unsigned integer maximum, selected by TYPE. -/
  | imax (who : TroupeRef) (f : RForm)
  /-- AND (R84): Bitwise AND per thread. -/
  | andOp (who : TroupeRef) (f : VForm)
  /-- OR (R84): Bitwise OR per thread. -/
  | orOp (who : TroupeRef) (f : VForm)
  /-- XOR (R84): Bitwise XOR per thread. -/
  | xorOp (who : TroupeRef) (f : VForm)
  /-- SHL (R84): Left shift by B modulo the width. -/
  | shl (who : TroupeRef) (f : VForm)
  /-- SHR (R84): Logical right shift filling with 0. -/
  | shr (who : TroupeRef) (f : VForm)
  /-- SAR (R84): Arithmetic right shift filling with the sign. -/
  | sar (who : TroupeRef) (f : VForm)
  /-- POPC (R84): Counts the 1 bits of the operand. -/
  | popc (who : TroupeRef) (f : RForm)
  /-- CLZ (R84): Counts the leading 0 bits of the operand. -/
  | clz (who : TroupeRef) (f : RForm)
  /-- SETP (R84): Sets a predicate from a comparison of A and B under COND. -/
  | setp (who : TroupeRef) (f : RForm)
  /-- VOTE (R84): Forms an any, all or ballot mask over the participants' predicates. -/
  | vote (who : TroupeRef) (f : RForm)
  /-- SHFL (R84): Reads SRC_A from another thread of the same 32-thread part. -/
  | shfl (who : TroupeRef) (f : RForm)
  /-- FADD (R84): Floating-point addition rounded to nearest even. -/
  | fadd (who : TroupeRef) (f : VForm)
  /-- FMUL (R84): Floating-point multiplication rounded to nearest even. -/
  | fmul (who : TroupeRef) (f : VForm)
  /-- FFMA (R84): Fused multiply-add with one rounding. -/
  | ffma (who : TroupeRef) (f : RForm)
  /-- FMIN (R84): IEEE 754 minimumNumber, with -0 below +0. -/
  | fmin (who : TroupeRef) (f : RForm)
  /-- FMAX (R84): IEEE 754 maximumNumber, with -0 below +0. -/
  | fmax (who : TroupeRef) (f : RForm)
  /-- CVT (R153): Converts packed elements between formats with the chosen rounding, counting saturations and setting NF. -/
  | cvt (who : TroupeRef) (f : CvtForm)
  /-- FRCP (R78): F32 reciprocal within 1 ulp. -/
  | frcp (who : TroupeRef) (f : RForm)
  /-- FRSQ (R78): F32 reciprocal square root within 1 ulp. -/
  | frsq (who : TroupeRef) (f : RForm)
  /-- FEXP2 (R78): F32 power of two within 1 ulp. -/
  | fexp2 (who : TroupeRef) (f : RForm)
  /-- FLOG2 (R78): F32 base-2 logarithm within 1 ulp. -/
  | flog2 (who : TroupeRef) (f : RForm)
  /-- BRA (R43): Branches by a signed offset, splitting the subset when the guard divides its threads. -/
  | bra (who : TroupeRef) (f : IForm)
  /-- CALL (R84): Stores the next PC in a register pair and branches, splitting the subset under R43. -/
  | call (who : TroupeRef) (f : CallForm)
  /-- RET (R84): Jumps to the return PC held in a pair, forming one subset per distinct target. -/
  | ret (who : TroupeRef) (f : RForm)
  /-- EXIT (R48): Ends the thread; when the last thread exits, the troupe ends and returns its resources. -/
  | exit (who : TroupeRef) (f : RForm)
  /-- LD (R79): Loads from scratchpad, global or local space, with hints and transposing reads. -/
  | ld (who : TroupeRef) (f : MemForm)
  /-- ST (R79): Stores to scratchpad, global or local space. -/
  | st (who : TroupeRef) (f : MemForm)
  /-- FENCE_G (R346): Waits until the thread's earlier global stores and atomics are performed. -/
  | fenceG (who : TroupeRef) (f : RForm)
  /-- ATOM_ADD (R57): Combined atomic add over the participants in ascending lane order. -/
  | atomAdd (who : TroupeRef) (f : AtomForm)
  /-- ATOM_MAX (R57): Combined atomic maximum. -/
  | atomMax (who : TroupeRef) (f : AtomForm)
  /-- ATOM_MIN (R57): Combined atomic minimum. -/
  | atomMin (who : TroupeRef) (f : AtomForm)
  /-- ATOM_CAS (R57): Combined compare-and-swap applied pair by pair in lane order. -/
  | atomCas (who : TroupeRef) (f : AtomForm)
  /-- ATOM_EXCH (R57): Combined atomic exchange. -/
  | atomExch (who : TroupeRef) (f : AtomForm)
  /-- RED_ADD (R90): Adds values into the ring's reduction ell for an ell, creating it on first use. -/
  | redAdd (who : TroupeRef) (f : RedForm)
  /-- RED_FOLD (R90): Ends the ring's hold on a reduction ell and writes the converted sums to the image. -/
  | redFold (who : TroupeRef) (f : RedForm)
  /-- TURN_SIG (R92): After fencing, advances a local turnstile, or sends TURN_SIG to a remote one. -/
  | turnSig (who : TroupeRef) (f : TurnForm)
  /-- TURN_WAIT (R92): Holds the subset until the turnstile reaches the value or carries its error bit. -/
  | turnWait (who : TroupeRef) (f : TurnForm)
  /-- BAR_T (R47): Troupe convergence barrier. -/
  | barT (who : TroupeRef) (f : BarForm)
  /-- BAR_R (R94): Troupe convergence, then arrival at the ring barrier of the ring group. -/
  | barR (who : TroupeRef) (f : BarForm)
  /-- DMA_Q (R102): Enqueues one copy in the ring's DMA issue queue, or reports the queue full. -/
  | dmaQ (who : TroupeRef) (f : RForm)
  /-- ALLOC (R100): Requests granules from a pool of the device allocator. -/
  | allocOp (who : TroupeRef) (f : RForm)
  /-- FREE (R101): Drops the handle reference of a live allocation and sets a predicate. -/
  | freeOp (who : TroupeRef) (f : RForm)
  /-- STAT_W (R247): Gives values to the tent weighmaster under a tensor tag. -/
  | statW (who : TroupeRef) (f : StatForm)
  /-- NF_CHK (R84): Reads the context's or an accumulator unit's non-finite flag into a predicate. -/
  | nfChk (who : TroupeRef) (f : RForm)
  /-- MX_CFG (R96): Sets the troupe's matrix formats, passes and block scaling. -/
  | mxCfg (who : TroupeRef) (f : MxCfgForm)
  /-- MX_LDW (R115): Queues a weight tile load from scratchpad into a weight-buffer slot. -/
  | mxLdw (who : TroupeRef) (f : MxLdwForm)
  /-- MX_RUN (R122): Queues activation rows against a weight slot into accumulator units. -/
  | mxRun (who : TroupeRef) (f : MxRunForm)
  /-- MX_DRN (R126): Queues the conversion and drain of accumulator rows to scratchpad or registers. -/
  | mxDrn (who : TroupeRef) (f : MxDrnForm)
  /-- BOOTH_ISSUE_SLOT (R39): In each a-cycle the booth applies any bubble and issues from the oldest ready troupe or a starved one. -/
  | boothIssueSlot (ring : RingId) (booth : BoothId)
  /-- RUN_LIMIT (R44): A subset's run ends after 64 troupe instructions and its stamp is set. -/
  | runLimit (who : TroupeRef)
  /-- STARVATION_LIMIT (R39): A ready troupe passed over for 256 slots takes the next booth issue slot. -/
  | starvationLimit (ring : RingId) (booth : BoothId)
  /-- LATENCY_ELAPSED (R37): An instruction's result latency elapses and the operand wait ends. -/
  | latencyElapsed (who : TroupeRef) (id : Nat)
  /-- LOAD_RESPONSE (R40): Load or fetch-atomic data returns and is written, ending the memory wait. -/
  | loadResponse (ring : RingId) (op : Nat)
  /-- WRITE_ACK (R346): The home bushel's acknowledgement of a performed write reaches the ring. -/
  | writeAck (ring : RingId) (op : Nat)
  /-- RING_GROUP_PLACE (R61): The barker places a waiting ring group on a ring with room. -/
  | ringGroupPlace (ref : CmdRef) (ring : RingId)
  /-- REGISTER_CLEAR_DONE (R64): A troupe's register and accumulator clears finish and it becomes ready. -/
  | registerClearDone (ring : RingId) (booth : BoothId)
  /-- SCRATCHPAD_CLEAR_DONE (R64): A ring group's scratchpad allocation is cleared and its first troupe may issue. -/
  | scratchpadClearDone (ring : RingId)
  /-- COMBINER_ACCEPT (R60): The ring's combiner takes one atomic troupe instruction and forms requests. -/
  | combinerAccept (ring : RingId)
  /-- WEIGHMASTER_ACCEPT (R248): The tent weighmaster takes a queued STAT.W and bins its values. -/
  | weighmasterAccept (tent : TentId)
  /-- SCRATCHPAD_ARBITRATION (R128): Each a-cycle the scratchpad serves up to 512 B of reads and writes by priority and retries refusals. -/
  | scratchpadArbitration (ring : RingId)
  /-- WEIGHT_SLOT_WRITE (R115): A queued MX.LDW reads its source and writes its slot once nothing holds it. -/
  | weightSlotWrite (ring : RingId)
  /-- LATCH_BROADCAST (R116): The broadcast port copies a slot into the free latch banks of the arrays that asked. -/
  | latchBroadcast (ring : RingId)
  /-- FEEDER_ROW_READ (R123): The feeder reads an activation row of a queued MX.RUN into its row buffer. -/
  | feederRowRead (ring : RingId) (booth : BoothId)
  /-- ARRAY_ROW_ENTER (R123): Each a-cycle the array takes the next row or a bubble. -/
  | arrayRowEnter (ring : RingId) (booth : BoothId)
  /-- ACCUMULATOR_ROW_WRITE (R144): 48 a-cycles after entry a row's K-step is accumulated and written to the unit. -/
  | accumulatorRowWrite (ring : RingId) (booth : BoothId)
  /-- DRAIN_ROW_READ (R126): The drain engine reads one accumulator row and converts it. -/
  | drainRowRead (ring : RingId) (booth : BoothId)
  /-- DRAIN_WRITE (R126): Converted bytes of a drained row reach scratchpad or registers, completing the MX.DRN after the last. -/
  | drainWrite (ring : RingId) (booth : BoothId)
  /-- DROOP_DETECT (R389): A droop detector sees the rail fall below target and starts a 64 a-cycle bubble burst on its tent. -/
  | droopDetect (ring : RingId)
  /-- DROOP_BURST_END (R389): A droop burst's 64 a-cycles run out. -/
  | droopBurstEnd (tent : TentId)
  /-- BUSHEL_REQUEST (R189): A bushel bank serves one grain request from its queue, hitting, joining or taking a miss register. -/
  | bushelRequest (tent : TentId) (bank : BushelBankId)
  /-- ATOMIC_REQUEST (R57): A combined atomic request is performed at its home bushel or scratchpad. -/
  | atomicRequest (site : AtomSite)
  /-- RED_ADD_REQUEST (R196): The bank's atomic unit adds a RED.ADD request into the ring's reduction ell, folding the oldest if the set is full. -/
  | redAddRequest (tent : TentId) (bank : BushelBankId)
  /-- RED_FOLD_REQUEST (R198): A RED.FOLD request releases a reduction ell or converts the image alone. -/
  | redFoldRequest (tent : TentId) (bank : BushelBankId)
  /-- MISS_FETCH_ISSUE (R187): A waiting miss register obtains a DRAM read slot and issues its ell fetch. -/
  | missFetchIssue (tent : TentId) (reg : Nat)
  /-- DRAM_GRAIN_RETURN (R186): A fetched grain arrives, serving waiters and completing the fill after the last. -/
  | dramGrainReturn (tent : TentId) (reg : Nat) (ecc : Ecc)
  /-- REQUEST_RESEND (R187): A refused requester sends its request again 64 f-cycles later. -/
  | requestResend (tent : TentId) (id : Nat)
  /-- DRAM_ACCESS (R210): The memory controller gives a DRAM bank its data-bus turn for one ell access or write batch. -/
  | dramAccess (chan : ChanId) (turn : DramTurn)
  /-- REFRESH (R235): A DRAM bank's refresh interval expires and it is refreshed for 130 ns. -/
  | refresh (chan : ChanId) (bank : DramBankId)
  /-- ERASURE_MARK (R221): A device position's correction count reaches 16 and it becomes an erasure. -/
  | erasureMark (chan : ChanId) (rank : Fin 2) (sub : Fin 2) (sym : Fin 10)
  /-- ROW_REMAP (R223): A failing data row is copied to a spare row by firmware. -/
  | rowRemap (chan : ChanId) (bank : DramBankId) (sub : Fin 2) (row : Nat)
  /-- ROW_REMAP_COMPLETE (R223): The remap copy ends and waiting accesses of the row proceed. -/
  | rowRemapComplete (chan : ChanId) (bank : DramBankId) (sub : Fin 2) (row : Nat)
  /-- RATE_BUCKET_ROLL (R369): An hour bucket of the 24-hour windows expires and rates are recomputed. -/
  | rateBucketRoll
  /-- COPY_START (R169): A DMA engine takes the next copy from its queue. -/
  | copyStart (tent : TentId) (engine : EngineId)
  /-- COPY_GRAIN (R170): The engine reads a source grain and writes destination grains; `late`: its writes reach their home after later ones
  of the engine (R171). -/
  | copyGrain (tent : TentId) (engine : EngineId) (late : Bool)
  /-- COPY_COMPLETE (R173): A copy's last write is performed and its turnstile is incremented. -/
  | copyComplete (tent : TentId) (engine : EngineId)
  /-- ALLOC_COMPLETE (R339): The ringmasters finish serving an ALLOC and write its result. -/
  | allocComplete (ring : RingId) (op : Nat)
  /-- DOORBELL (R317): A tail write to a queue's doorbell fetches commands or raises QUEUE_OVERRUN. -/
  | doorbell (queue : QueueId) (tail : W32)
  /-- ADMQ_CFG (R313): A write enabling or disabling admin queue 0. -/
  | admqCfg (value : W64)
  /-- REGISTER_WRITE (R313): A write to a device control register with no behaviour of its own. -/
  | registerWrite (reg : CtlReg) (value : W64)
  /-- COMMAND_ACCEPT (R318): The barker starts the next command of a queue in count order and gives it an accept position. -/
  | commandAccept (queue : QueueId)
  /-- COMMAND_COMPLETE (R348): A command completes: record, turnstile signal, mirror, MSI-X and event record in order. -/
  | commandComplete (ref : CmdRef)
  /-- DISPATCH (R322): Launches the ring groups of one kernel after the load-time check or the skip test. -/
  | dispatch (ref : CmdRef)
  /-- COPY (R324): Starts a copy between two addresses on a chosen tent's engine. -/
  | copyCommand (ref : CmdRef)
  /-- WAIT (R325): Holds its queue until a turnstile reaches a value or carries its error bit, halting it if asked. -/
  | waitCommand (ref : CmdRef)
  /-- SIGNAL (R325): Advances a turnstile or sets its error bit. -/
  | signalCommand (ref : CmdRef)
  /-- INVALIDATE (R204): Drops ring L1 global lines and frees stale host-ell frames in a range. -/
  | invalidate (ref : CmdRef)
  /-- STEP_BOUNDARY (R253): Closes the step: merges weighmasters, decides formats, writes records and opens the next step. -/
  | stepBoundary (ref : CmdRef)
  /-- QUERY (R343): Writes the context's 256-byte query record. -/
  | query (ref : CmdRef)
  /-- ALLOC_COMMAND (R339): Queue command that allocates granules from a pool and writes the address. -/
  | allocCommand (ref : CmdRef)
  /-- FREE_COMMAND (R321): Queue command that drops an allocation's handle reference. -/
  | freeCommand (ref : CmdRef)
  /-- ALL_REDUCE (R294): Collective reduction of n elements over the group, result to every member. -/
  | allReduce (ref : CmdRef)
  /-- REDUCE_SCATTER (R294): Collective reduction giving each member its own block. -/
  | reduceScatter (ref : CmdRef)
  /-- ALL_GATHER (R292): Collective gather of every member's block to every member. -/
  | allGather (ref : CmdRef)
  /-- ALL_TO_ALL (R292): Collective exchange of one block per member pair. -/
  | allToAll (ref : CmdRef)
  /-- BROADCAST (R292): Collective copy of the root's elements to every member. -/
  | broadcast (ref : CmdRef)
  /-- FUSED_NORM (R255): Collective sum of squares of gradient ranges with non-finite OR, setting the skip state. -/
  | fusedNorm (ref : CmdRef)
  /-- CAROUSEL (R299): Collective re-shard that moves data in place round by round through staging. -/
  | carousel (ref : CmdRef)
  /-- DIGEST_COMPARE (R300): Compares digest lists with the pair partner and writes a difference bitmap. -/
  | digestCompare (ref : CmdRef)
  /-- DECLARE (R364): Records a swing pair's two buffers. -/
  | declare (ref : CmdRef)
  /-- FLIP (R365): Sets drain bits at a snapshot point and drains one buffer to a target. -/
  | flip (ref : CmdRef)
  /-- RELEASE (R364): Frees a swing pair once its drain has ended. -/
  | release (ref : CmdRef)
  /-- JOURNAL_EXPORT (R378): Copies a complete journalled step to a buffer. -/
  | journalExport (ref : CmdRef)
  /-- JOURNAL_IMPORT (R378): Stores a journal image from a buffer as a given step. -/
  | journalImport (ref : CmdRef)
  /-- REPLAY_ARM (R380): Arms replay of a complete journalled step at the next step boundary. -/
  | replayArm (ref : CmdRef)
  /-- SWING_DRAIN_END (R365): A swing drain ends, writing the trailer or clearing the remaining drain bits. -/
  | swingDrainEnd (ctx : CtxId) (pair : Nat)
  /-- DIGEST (R372): Computes SM3 digests of consecutive chunks of a range. -/
  | digest (ref : CmdRef)
  /-- CTX_CREATE (R331): Creates a context with its key slot, page tables, tags and enables, opening step 0. -/
  | ctxCreate (ref : CmdRef)
  /-- CTX_SET (R321): Changes a context's trap and dead-read fault enables. -/
  | ctxSet (ref : CmdRef)
  /-- CTX_TEARDOWN (R341): Tears down a context, running every loss and teardown step not yet run. -/
  | ctxTeardown (ref : CmdRef)
  /-- TEARDOWN_COMPLETE (R341): After the surviving copies end, the context becomes Free and its event record is written. -/
  | teardownComplete (ctx : CtxId)
  /-- QUEUE_CREATE (R321): Creates a context or admin queue with its rings and head shadow. -/
  | queueCreate (ref : CmdRef)
  /-- QUEUE_DESTROY (R321): Destroys a queue once its fetched commands have completed. -/
  | queueDestroy (ref : CmdRef)
  /-- QUEUE_RESUME (R321): Ends a queue halt. -/
  | queueResume (ref : CmdRef)
  /-- TURN_CREATE (R335): Creates a turnstile with its owner handle and optional mirror. -/
  | turnCreate (ref : CmdRef)
  /-- TURN_GRANT (R336): Writes a handle-table entry naming a turnstile with rights. -/
  | turnGrant (ref : CmdRef)
  /-- TURN_EXPORT_ADD (R321): Exports a turnstile to a device or to every device of the domain. -/
  | turnExportAdd (ref : CmdRef)
  /-- TURN_EXPORT_REMOVE (R321): Removes an export of a turnstile. -/
  | turnExportRemove (ref : CmdRef)
  /-- HANDLE_RELEASE (R337): Empties a handle-table entry, ending waits that use it. -/
  | handleRelease (ref : CmdRef)
  /-- OBJ_CREATE (R338): Registers a memory object of whole granules under a key slot. -/
  | objCreate (ref : CmdRef)
  /-- OBJ_REF_ADD (R338): Adds a handle or mapping reference to an object. -/
  | objRefAdd (ref : CmdRef)
  /-- OBJ_REF_DROP (R338): Drops a handle or mapping reference from an object. -/
  | objRefDrop (ref : CmdRef)
  /-- OBJECT_RECLAIM (R340): An object with count zero is reclaimed once earlier commands and copies retire. -/
  | objectReclaim (obj : ObjId)
  /-- POOL_GRANT (R321): Grants granules, and on first grant an arena, to a context's pool. -/
  | poolGrant (ref : CmdRef)
  /-- POOL_RECLAIM (R321): Returns every granule of a pool not held by an object. -/
  | poolReclaim (ref : CmdRef)
  /-- TLB_INVALIDATE (R333): Removes cached translations of a range from every tent MMU. -/
  | tlbInvalidate (ref : CmdRef)
  /-- WINDOW_CREATE (R281): Exports part of a context's address space as a remote window. -/
  | windowCreate (ref : CmdRef)
  /-- WINDOW_DESTROY (R321): Destroys a remote window. -/
  | windowDestroy (ref : CmdRef)
  /-- HOST_WINDOW_SET (R309): Sets, changes or disables a host window, snooping out host copies first. -/
  | hostWindowSet (ref : CmdRef)
  /-- HOST_READ (R234): A CXL.mem read of device memory is served by the home bushel under the host window's key; `tag` comes back with the
  data. -/
  | hostRead (dpa : Nat) (want : HostWant) (tag : Nat)
  /-- HOST_WRITE (R351): A CXL.mem write is performed at the home bushel before Cmp is returned. -/
  | hostWrite (dpa : Nat) (bytes : List Byte) (mask : List Bool) (keep : Bool)
  /-- BISNP_RESPONSE (R355): The host's answer to a back-invalidate snoop arrives and the held access proceeds. -/
  | bisnpResponse (grain : Nat) (dirty : Option (List Byte))
  /-- BISNP_TIMEOUT (R356): A BISnp unanswered for 100 ms raises a device-fatal fault and viral. -/
  | bisnpTimeout (grain : Nat)
  /-- MESH_FLIT (R28): A mesh flit is received, checked and retried on a CRC error. -/
  | meshFlit (link : MeshHop) (ok : Bool)
  /-- MESH_LINK_FAILURE (R28): A mesh link fails 16 retries of one flit, a device-fatal fault. -/
  | meshLinkFailure (link : MeshLinkId)
  /-- FLIT_SEND (R271): A link output sends its next flit, starting whole packets by virtual-channel priority. -/
  | flitSend (link : LinkId)
  /-- DATA_FLIT (R268): A DATA flit is received, checked, acknowledged and its credits taken. -/
  | dataFlit (link : LinkId) (flit : Flit)
  /-- IDLE_FLIT (R267): An IDLE flit carrying acknowledgements and credits is received. -/
  | idleFlit (link : LinkId) (flit : Flit)
  /-- RETRY_REQ (R268): A RETRY_REQ flit makes the sender resend every DATA flit after ACK. -/
  | retryReq (link : LinkId) (flit : Flit)
  /-- LINK_RETRAIN (R269): A retry limit, uncorrectable-codeword count or 1 µs without a good flit makes an Up link retrain. -/
  | linkRetrain (link : LinkId) (cause : RetrainCause)
  /-- TRAINING_STEP (R264): A training step of a link completes and the next starts, reaching Up after IDENT. -/
  | trainingStep (link : LinkId) (find : LaneFind)
  /-- TRAINING_TIMEOUT (R264): A training step exceeds its time, ending the attempt, and after 3 attempts the link is Failed. -/
  | trainingTimeout (link : LinkId)
  /-- PACKET_FORWARD (R277): A whole packet not for this device is routed to a candidate link or made undeliverable. -/
  | packetForward (link : LinkId) (vc : BitVec 2)
  /-- READ_PACKET (R283): A remote READ is served at the home bushel and answered with READ_RESP. -/
  | readPacket
  /-- WRITE_PACKET (R283): A remote WRITE is merged at the home bushel and answered with ACK. -/
  | writePacket
  /-- ATOMIC_PACKET (R283): A remote ATOMIC is applied by the home bushel's atomic unit and answered. -/
  | atomicPacket
  /-- TURN_SIG_PACKET (R283): A remote TURN_SIG is applied to an exported turnstile and answered with ACK. -/
  | turnSigPacket
  /-- READ_RESP (R285): A read response completes an outstanding remote read. -/
  | readResp
  /-- ACK (R283): An acknowledgement completes an outstanding remote write or TURN_SIG. -/
  | ack
  /-- ATOMIC_RESP (R283): The fetch values of a remote atomic return to the requester. -/
  | atomicResp
  /-- COLL_SEG (R294): A collective segment packet (data, result, grant, round end or digest) is received and handled. -/
  | collSeg
  /-- IDENT (R265): A neighbour's IDENT is checked, bringing the link Up, cross-domain or Failed. -/
  | ident (link : LinkId) (id : DeviceId) (dom : Bool) (peerLink : Nat)
  /-- ECHO (R288): A management ECHO is answered with ECHO_REPLY. -/
  | echo
  /-- ECHO_REPLY (R288): An ECHO_REPLY arrives and its round trip is reported. -/
  | echoReply
  /-- REQUEST_TIMEOUT (R285): A remote request unanswered for the request timeout fails with UNREACHABLE. -/
  | requestTimeout (tag : W16)
  /-- PROGRESS_TIMEOUT (R302): A collective receiving nothing from a needed member for the timeout ends PARTIAL. -/
  | progressTimeout (ref : CmdRef) (rank : Nat)
  /-- CONTROL_PERIOD (R393): Every 10 µs the steelyard recomputes cap, budgets, thermal floors and bubble levels and closes energy intervals. -/
  | controlPeriod (sense : PeriodSense)
  /-- METER_SAMPLE (R400): The steelyard samples rail currents and voltages and integrates energy. -/
  | meterSample (sample : RailSample)
  /-- CAP_UNATTAINABLE (R393): A tent at level 56 over budget for 100 periods sets the flag. -/
  | capUnattainable (tent : TentId)
  /-- CAP_LEASE_EXPIRY (R392): No write of CAP_W for CAP_LEASE_S seconds puts CAP_FALLBACK_W in force. -/
  | capLeaseExpiry
  /-- THERMAL_TRIP (R472): A sensor at 125 °C in two consecutive periods drives THERMTRIP_N and shuts the device down. -/
  | thermalTrip (sensor : Nat) (milliC : Int)
  /-- AVS_STEP_DONE (R387): A regulator reports the rail at target and the next 10 mV step is sent. -/
  | avsStepDone (tent : TentId)
  /-- IDLE_STOP (R410): A ring island idle for IDLE_STOP_US has its a-clock stopped. -/
  | idleStop (tent : TentId)
  /-- IDLE_GATE (R410): A ring island idle for IDLE_GATE_MS is power-gated. -/
  | idleGate (tent : TentId)
  /-- WAKE_REQUEST (R411): A dispatch or firmware asks a stopped or gated island to wake. -/
  | wakeRequest (tent : TentId)
  /-- ISLAND_ACTIVE (R411): A waking island completes power-up and becomes Active. -/
  | islandActive (tent : TentId)
  /-- AGEING_MEASUREMENT (R414): Every 24 hours a ringmaster measures drift and slack and re-plans the tent's margin. -/
  | ageingMeasurement (tent : TentId) (sense : AgeSense)
  /-- REFCLK_LOSS (R406): REFCLK shows no edge for 1 µs and the PLLs hold over. -/
  | refclkLoss
  /-- REFCLK_RETURN (R406): REFCLK stable for 10 ms makes the PLLs relock to it. -/
  | refclkReturn
  /-- REFERENCE_FALLBACK (R406): A recovered reference off frequency or lost for 5 µs makes the root fall back to REFCLK. -/
  | referenceFallback
  /-- INPUT_SAMPLE (R468): Each always-on period every board input is sampled and its run counted. -/
  | inputSample (levels : InputLevels)
  /-- FILTERED_LEVEL_CHANGE (R468): An input's run reaches 8 samples and its filtered level changes. -/
  | filteredLevelChange (input : BoardInput)
  /-- RAILS_GOOD (R444): All rails become good in order and start-up begins from mask ROM. -/
  | railsGood
  /-- START_FROM_ROM (R450): ROM verifies the manifest and firmware and starts the stages or enters recovery. -/
  | startFromRom
  /-- RAIL_FAULT (R442): A rail out of order or falling below threshold resets every unit but the always-on domain. -/
  | railFault (rails : W16)
  /-- POWER_LOSS (R473): VDD_AON falls below its threshold, clearing the trip latch and all state. -/
  | powerLoss
  /-- CHANNEL_TRAINED (R236): A memory channel finishes training or fails, and device memory becomes ready when all are trained. -/
  | channelTrained (chan : ChanId) (result : TrainResult)
  /-- NV_SAVE_START (R432): The save delay after the first unsaved write expires and a save of the dictionary starts. -/
  | nvSaveStart
  /-- NV_SAVE_COMPLETE (R434): A save finishes writing its bank and the set chooses its copy. -/
  | nvSaveComplete (set : Fin 9)
  /-- HELLO (R422): A client opens a session and the device answers CHALLENGE or BUSY. -/
  | hello (via : Via) (msg : Msg)
  /-- PROOF (R422): The client's proof is checked and ACCEPT sent with the session key formed. -/
  | proof (via : Via) (msg : Msg)
  /-- HELLO_LOCKOUT_END (R424): The 60 s lockout of a source after 8 failed proofs ends. -/
  | helloLockoutEnd (source : Nat)
  /-- READ (R429): A dictionary READ message returns an entry's value or DOMAIN segment. -/
  | dictRead (via : Via) (msg : Msg)
  /-- WRITE (R427): A dictionary WRITE to an entry with no behaviour of its own, checked and stored. -/
  | dictWrite (via : Via) (msg : Msg)
  /-- CLOSE (R421): A client closes its session. -/
  | dictClose (via : Via) (msg : Msg)
  /-- DISCOVER (R421): A multicast DISCOVER is answered with serial number, device id and domain. -/
  | discover (via : Via) (msg : Msg)
  /-- SESSION_TIMEOUT (R423): A session with no request for 60 s closes and its staged DOMAIN write is discarded. -/
  | sessionTimeout (session : W32)
  /-- DICT_MESSAGE (R430): A mailbox command carries one dictionary request message and returns the response. -/
  | dictMessage (via : Via) (msg : Msg)
  /-- NEIGHBOR_SOLICITATION (R419): The port answers an ICMPv6 Neighbor Solicitation. -/
  | neighborSolicitation (target : Nat)
  /-- ECHO_REQUEST (R419): The port answers an ICMPv6 Echo Request. -/
  | echoRequest (dest : Nat) (data : List Byte)
  /-- CAP_W (R392): A write of the rack share, clamped to 800 to 2,000 W, restarting the lease. -/
  | capW (via : Via) (msg : Msg)
  /-- FRAC_APPLY (R394): Applies the staged tent fractions if they sum to 256. -/
  | fracApply (via : Via) (msg : Msg)
  /-- LEARN_RESET (R395): Clears the learned dynamic powers. -/
  | learnReset (via : Via) (msg : Msg)
  /-- REF_SEL (R406): Selects the root reference source, refused if the source is not up. -/
  | refSel (via : Via) (msg : Msg)
  /-- SAVE_NOW (R432): Starts a dictionary save within 10 ms. -/
  | saveNow (via : Via) (msg : Msg)
  /-- ROUTE (R276): Replaces a route entry whole, refusing enabled link numbers above 47. -/
  | route (via : Via) (msg : Msg)
  /-- EXCLUDE_SET (R278): Excludes a device id, failing its requests, collectives and exported turnstiles at once. -/
  | excludeSet (via : Via) (msg : Msg)
  /-- EXCLUDE_CLEAR (R438): Clears a device's exclusion bit. -/
  | excludeClear (via : Via) (msg : Msg)
  /-- ECHO_TARGET (R288): Sends an ECHO to a device id to test reachability. -/
  | echoTarget (via : Via) (msg : Msg)
  /-- LINK_ENABLE (R438): Holds a link Down or lets it train. -/
  | linkEnable (via : Via) (msg : Msg)
  /-- RE_ENABLE (R264): Makes a Failed link Down so it trains again. -/
  | reEnable (via : Via) (msg : Msg)
  /-- BANKS_AT_CAP_PEAK (R437): A read returns the peak count of banks at cap and restarts it. -/
  | banksAtCapPeak (via : Via) (msg : Msg)
  /-- OPERATOR_KEY (R453): Sets the operator secret, resealing set 4 and closing other operator sessions. -/
  | operatorKey (via : Via) (msg : Msg)
  /-- TENANT_KEY (R439): Sets the tenant secret of a context. -/
  | tenantKey (via : Via) (msg : Msg)
  /-- MR7_EXTEND (R456): Extends measurement register MR7 and appends a log record. -/
  | mr7Extend (via : Via) (msg : Msg)
  /-- QUOTE_NONCE (R457): Forms a signed quote over the measurements and the nonce. -/
  | quoteNonce (via : Via) (msg : Msg)
  /-- FW_IMAGE (R452): A staged firmware image is verified on its last segment and stored in the other bank. -/
  | fwImage (via : Via) (msg : Msg)
  /-- MANIFEST (R452): A staged key manifest is verified on its last segment and stored in the other bank. -/
  | manifest (via : Via) (msg : Msg)
  /-- RESTART (R458): Acts as a pulse of SYS_RESET_N, refused while a trip is latched. -/
  | restart (via : Via) (msg : Msg)
  /-- CXL_CACHE_COMPLETION (R344): The host completes a device CXL.cache request (RdCurr data return, or WrCur/ItoMWr completion), filling a host-ell frame or making a device write to host memory performed. -/
  | cxlCacheCompletion (done : CacheDone)
  /-- HOST_SNOOP (R308): A CXL.cache snoop from the host arrives and the device answers that it holds no copy. -/
  | hostSnoop (grain : Nat)
  /-- REGULATOR_NO_ANSWER (R479): A VDD_Tn regulator fails to answer at its AVSBus address, stopping the tent's target changes and fencing it if a raised target cannot be applied. -/
  | regulatorNoAnswer (tent : TentId)
  /-- MODULE_SENSOR_READ (R235): The module temperature sensor read over the sideband crosses 85 °C, 95 °C or 90 °C, changing the refresh interval or the activation limit. -/
  | moduleSensorRead (chan : ChanId) (milliC : Int)
  /-- DUPLICATE_ADDRESS_DETECTION (R419): IPv6 duplicate address detection on the management port finds a duplicate, so the port stops sending until power-up and NET_STATE reads 2. -/
  | duplicateAddressDetection
deriving DecidableEq, Repr

end Sys2Proof
end

