-- ==== Sys2Proof/Decode.lean ====
section
/-!
DEFINITION. The decoder of Alasha instruction words (R71 to R102, R151, R247), used when a booth fetches, and `decodeTableWord`.
The operation table gives no row any bits, so `decodeTableWord` reads no command from a word.
-/

namespace Sys2Proof

/-- The R form of R72 in a word. -/
def decodeR (w : W64) : RForm :=
  { guard := w.extractLsb' 51 5, reuse := w.extractLsb' 48 3, dst := w.extractLsb' 40 8, srcA := w.extractLsb' 32 8
    srcB := w.extractLsb' 24 8, srcC := w.extractLsb' 16 8, usel := w.extractLsb' 13 3, udst := w.getLsbD 12
    type := w.extractLsb' 9 3, neg := w.extractLsb' 7 2, cond := w.extractLsb' 4 3, sub := w.extractLsb' 0 4 }

/-- The I form of R74 in a word. -/
def decodeI (w : W64) : IForm :=
  { guard := w.extractLsb' 51 5, reuse := w.extractLsb' 48 3, dst := w.extractLsb' 40 8, srcA := w.extractLsb' 32 8
    imm := w.extractLsb' 0 32 }

/-- CVT (R151). -/
def decodeCvt (w : W64) : CvtForm :=
  { guard := w.extractLsb' 51 5, reuse := w.extractLsb' 48 3, dst := w.extractLsb' 40 8, srcA := w.extractLsb' 32 8
    srcB := w.extractLsb' 24 8, srcC := w.extractLsb' 16 8, usel := w.extractLsb' 13 3, udst := w.getLsbD 12
    srcFmt := w.extractLsb' 8 4, dstFmt := w.extractLsb' 4 4, rnd := w.extractLsb' 2 2, count := w.extractLsb' 0 2 }

/-- LD and ST (R79). -/
def decodeMem (w : W64) : MemForm :=
  { guard := w.extractLsb' 51 5, reuse := w.extractLsb' 48 3, data := w.extractLsb' 40 8, base := w.extractLsb' 32 8
    space := w.extractLsb' 30 2, hint := w.extractLsb' 28 2, size := w.extractLsb' 25 3, signed := w.getLsbD 24
    baseU := w.getLsbD 23, transpose := w.getLsbD 22, offset := w.extractLsb' 0 22 }

/-- ATOM (R87), less OP. -/
def decodeAtom (w : W64) : AtomForm :=
  { guard := w.extractLsb' 51 5, reuse := w.extractLsb' 48 3, dst := w.extractLsb' 40 8, addr := w.extractLsb' 32 8
    srcB := w.extractLsb' 24 8, srcC := w.extractLsb' 16 8, addrU := w.getLsbD 15, global := w.getLsbD 14
    type := w.extractLsb' 8 3, offset := w.extractLsb' 0 8 }

/-- RED.ADD and RED.FOLD (R89). -/
def decodeRed (w : W64) : RedForm :=
  { guard := w.extractLsb' 51 5, reuse := w.extractLsb' 48 3, reservedA := w.extractLsb' 40 8, addr := w.extractLsb' 32 8
    srcB := w.extractLsb' 24 8, reservedB := w.extractLsb' 16 8, addrU := w.getLsbD 15, fmt := w.extractLsb' 11 4
    accRnd := w.extractLsb' 9 2, reservedC := w.getLsbD 8, offset := w.extractLsb' 0 8 }

/-- TURN.SIG and TURN.WAIT (R91). -/
def decodeTurn (w : W64) : TurnForm :=
  { guard := w.extractLsb' 51 5, reservedA := w.extractLsb' 48 3, pdst := w.extractLsb' 45 3, pdstEn := w.getLsbD 44
    handleU := w.extractLsb' 38 6, valU := w.extractLsb' 32 6, valImm := w.getLsbD 31, mode := w.getLsbD 30
    reservedB := w.extractLsb' 16 14, imm := w.extractLsb' 0 16 }

/-- BAR.T and BAR.R (R93). -/
def decodeBar (w : W64) : BarForm :=
  { guard := w.extractLsb' 51 5, reserved := w.extractLsb' 1 50, g := w.getLsbD 0 }

/-- STAT.W (R247). -/
def decodeStat (w : W64) : StatForm :=
  { guard := w.extractLsb' 51 5, reuse := w.extractLsb' 48 3, dst := w.extractLsb' 40 8, srcA := w.extractLsb' 32 8
    srcB := w.extractLsb' 24 8, srcC := w.extractLsb' 16 8, usel := w.extractLsb' 13 3, udst := w.getLsbD 12
    fmt := w.extractLsb' 8 4, reserved := w.extractLsb' 2 6, count := w.extractLsb' 0 2 }

/-- MX.CFG (R96). -/
def decodeMxCfg (w w1 : W64) : MxCfgForm :=
  { guard := w.extractLsb' 51 5, afmt := w.extractLsb' 47 4, wfmt := w.extractLsb' 43 4, passes := w.extractLsb' 41 2
    scale := w.extractLsb' 38 3, reserved := w.extractLsb' 0 38, word1 := w1 }

/-- MX.LDW (R98). -/
def decodeMxLdw (w w1 : W64) : MxLdwForm :=
  { guard := w.extractLsb' 51 5, slot := w.extractLsb' 47 4, transpose := w.getLsbD 46, baseU := w.extractLsb' 40 6
    baseEn := w.getLsbD 39, reserved0 := w.extractLsb' 0 39, reserved1 := w1.extractLsb' 52 12, pitch := w1.extractLsb' 40 12
    scaleOff := w1.extractLsb' 20 20, addrOff := w1.extractLsb' 0 20 }

/-- MX.RUN (R98). -/
def decodeMxRun (w w1 : W64) : MxRunForm :=
  { guard := w.extractLsb' 51 5, slot := w.extractLsb' 47 4, acc := w.extractLsb' 43 4, rows := w.extractLsb' 36 7
    start := w.getLsbD 35, baseU := w.extractLsb' 29 6, baseEn := w.getLsbD 28, reserved0 := w.extractLsb' 0 28
    reserved1 := w1.extractLsb' 52 12, pitch := w1.extractLsb' 40 12, scaleOff := w1.extractLsb' 20 20, addrOff := w1.extractLsb' 0 20 }

/-- MX.DRN (R98). -/
def decodeMxDrn (w w1 : W64) : MxDrnForm :=
  { guard := w.extractLsb' 51 5, dfmt := w.extractLsb' 47 4, rnd := w.extractLsb' 45 2, acc := w.extractLsb' 41 4
    rows := w.extractLsb' 34 7, toRegs := w.getLsbD 33, rowsum := w.getLsbD 32, dreg := w.extractLsb' 24 8
    scaleExp := w.extractLsb' 16 8, baseU := w.extractLsb' 10 6, baseEn := w.getLsbD 9, reserved0 := w.extractLsb' 0 9
    reserved1 := w1.extractLsb' 52 12, pitch := w1.extractLsb' 40 12, rowsumOff := w1.extractLsb' 20 20, addrOff := w1.extractLsb' 0 20 }

/-- The instruction that word 0 (and word 1 of the matrix class) spells for a troupe, by the opcodes of R85; `none` is an undefined
opcode, or an OP of ATOM that R87 refuses. -/
def decodeAlasha (w w1 : W64) (t : TroupeRef) : Option Instr :=
  let r := decodeR w
  let i := decodeI w
  match (w.extractLsb' 56 8).toNat with
  | 0x00 => some (.mov t (.r r))
  | 0x01 => some (.sel t r)
  | 0x02 => some (.iadd t (.r r))
  | 0x03 => some (.isub t r)
  | 0x04 => some (.imul t (.r r))
  | 0x05 => some (.imad t r)
  | 0x06 => some (.imin t r)
  | 0x07 => some (.imax t r)
  | 0x08 => some (.andOp t (.r r))
  | 0x09 => some (.orOp t (.r r))
  | 0x0A => some (.xorOp t (.r r))
  | 0x0B => some (.shl t (.r r))
  | 0x0C => some (.shr t (.r r))
  | 0x0D => some (.sar t (.r r))
  | 0x0E => some (.popc t r)
  | 0x0F => some (.clz t r)
  | 0x10 => some (.setp t r)
  | 0x11 => some (.vote t r)
  | 0x12 => some (.shfl t r)
  | 0x20 => some (.mov t (.i i))
  | 0x21 => some (.iadd t (.i i))
  | 0x22 => some (.imul t (.i i))
  | 0x23 => some (.andOp t (.i i))
  | 0x24 => some (.orOp t (.i i))
  | 0x25 => some (.xorOp t (.i i))
  | 0x26 => some (.shl t (.i i))
  | 0x27 => some (.shr t (.i i))
  | 0x28 => some (.sar t (.i i))
  | 0x30 => some (.mov t (.u i))
  | 0x31 => some (.iadd t (.u i))
  | 0x32 => some (.imul t (.u i))
  | 0x33 => some (.andOp t (.u i))
  | 0x34 => some (.orOp t (.u i))
  | 0x35 => some (.xorOp t (.u i))
  | 0x36 => some (.shl t (.u i))
  | 0x37 => some (.shr t (.u i))
  | 0x38 => some (.sar t (.u i))
  | 0x40 => some (.fadd t (.r r))
  | 0x41 => some (.fmul t (.r r))
  | 0x42 => some (.ffma t r)
  | 0x43 => some (.fmin t r)
  | 0x44 => some (.fmax t r)
  | 0x50 => some (.fadd t (.i i))
  | 0x51 => some (.fmul t (.i i))
  | 0x58 => some (.fadd t (.u i))
  | 0x59 => some (.fmul t (.u i))
  | 0x70 => some (.cvt t (decodeCvt w))
  | 0x71 => some (.frcp t r)
  | 0x72 => some (.frsq t r)
  | 0x73 => some (.fexp2 t r)
  | 0x74 => some (.flog2 t r)
  | 0x80 => some (.bra t i)
  | 0x81 => some (.call t ⟨false, i⟩)
  | 0x82 => some (.call t ⟨true, i⟩)
  | 0x83 => some (.ret t r)
  | 0x84 => some (.exit t r)
  | 0x90 => some (.ld t (decodeMem w))
  | 0x91 => some (.st t (decodeMem w))
  | 0x92 => some (.fenceG t r)
  | 0xA0 =>
    match (w.extractLsb' 11 3).toNat with
    | 0 => some (.atomAdd t (decodeAtom w))
    | 1 => some (.atomMax t (decodeAtom w))
    | 2 => some (.atomMin t (decodeAtom w))
    | 3 => some (.atomCas t (decodeAtom w))
    | 4 => some (.atomExch t (decodeAtom w))
    | _ => none
  | 0xA8 => some (.redAdd t (decodeRed w))
  | 0xA9 => some (.redFold t (decodeRed w))
  | 0xB0 => some (.turnSig t (decodeTurn w))
  | 0xB1 => some (.turnWait t (decodeTurn w))
  | 0xB2 => some (.barT t (decodeBar w))
  | 0xB3 => some (.barR t (decodeBar w))
  | 0xB8 => some (.dmaQ t r)
  | 0xB9 => some (.allocOp t r)
  | 0xBA => some (.freeOp t r)
  | 0xC0 => some (.statW t (decodeStat w))
  | 0xC1 => some (.nfChk t r)
  | 0xF0 => some (.mxCfg t (decodeMxCfg w w1))
  | 0xF1 => some (.mxLdw t (decodeMxLdw w w1))
  | 0xF2 => some (.mxRun t (decodeMxRun w w1))
  | 0xF3 => some (.mxDrn t (decodeMxDrn w w1))
  | _ => none

/-- The command that a word of the operation table spells: the table gives its rows no bits, so there is none. -/
def decodeTableWord (_nbits _w : Nat) : Option Instr :=
  none

end Sys2Proof
end

