-- ==== Sys2Proof/Machine/Assoc.lean ====
section
/-!
DEFINITION. Tables (`FMap`) kept in strictly rising key order, and byte memories in the one canonical form: addresses strictly
rising, no byte listed that equals what an unlisted address reads as (zero).
-/

namespace Sys2Proof.Machine

/-- A byte memory: cells in rising address order, zero bytes not listed. -/
abbrev Mem := List Host.Cell

namespace Assoc

/-- The entry of a key. -/
def find? {v : Type} (m : FMap v) (k : Nat) : Option v :=
  match m with
  | [] => none
  | (j, x) :: t => if j = k then some x else if k < j then none else find? t k

/-- The entry of a key, or a default. -/
def get {v : Type} (d : v) (m : FMap v) (k : Nat) : v :=
  (find? m k).getD d

/-- Put an entry. -/
def put {v : Type} (m : FMap v) (k : Nat) (x : v) : FMap v :=
  match m with
  | [] => [(k, x)]
  | (j, y) :: t => if j = k then (k, x) :: t else if k < j then (k, x) :: (j, y) :: t else (j, y) :: put t k x

/-- Remove an entry. -/
def del {v : Type} (m : FMap v) (k : Nat) : FMap v :=
  match m with
  | [] => []
  | (j, y) :: t => if j = k then t else if k < j then (j, y) :: t else (j, y) :: del t k

/-- Keys strictly rise. -/
def sortedFrom {v : Type} (lo : Nat) (m : FMap v) : Bool :=
  match m with
  | [] => true
  | (j, _) :: t => decide (lo ≤ j) && sortedFrom (j + 1) t

/-- Apply a function to every entry. -/
def mapVals {v : Type} (f : Nat → v → v) (m : FMap v) : FMap v :=
  m.map (fun p => (p.1, f p.1 p.2))

/-- The lowest key from `lo` on that has no entry, looking at `fuel` keys. -/
def firstFree {v : Type} (m : FMap v) (lo fuel : Nat) : Option Nat :=
  match fuel with
  | 0 => none
  | n + 1 => if (find? m lo).isNone then some lo else firstFree m (lo + 1) n

end Assoc

namespace Mem

/-- Read one byte: an unlisted address reads as zero. -/
def read (m : Mem) (a : Nat) : Byte :=
  Assoc.get 0 m a

/-- Write one byte, keeping the canonical form. -/
def write (m : Mem) (a : Nat) (b : Byte) : Mem :=
  if b = 0 then Assoc.del m a else Assoc.put m a b

/-- Read `n` bytes from an address upward. -/
def readBytes (m : Mem) (a n : Nat) : List Byte :=
  (List.range n).map (fun i => read m (a + i))

/-- Write bytes from an address upward. -/
def writeBytes (m : Mem) (a : Nat) (bs : List Byte) : Mem :=
  match bs with
  | [] => m
  | b :: t => writeBytes (write m a b) (a + 1) t

/-- Write zeros over a range. -/
def zero (m : Mem) (a n : Nat) : Mem :=
  m.filter (fun c => !(decide (a ≤ c.1) && decide (c.1 < a + n)))

/-- The canonical form: addresses strictly rise and no listed byte is zero. -/
def wf (m : Mem) : Bool :=
  Assoc.sortedFrom 0 m && m.all (fun c => decide (c.2 ≠ 0))

end Mem

end Sys2Proof.Machine
end

