-- ==== Sys2Proof/Machine/Bits.lean ====
section
/-!
DEFINITION. Bit fields, sign extension and little-endian byte order (R7, R8).
-/

namespace Sys2Proof.Machine

/-- Bits [hi:lo] of a number (R7). -/
def bits (w hi lo : Nat) : Nat :=
  (w >>> lo) % 2 ^ (hi + 1 - lo)

/-- Bit n of a number. -/
def bitN (w n : Nat) : Bool :=
  w.testBit n

/-- The signed value of a field of `n` bits. -/
def signed (n w : Nat) : Int :=
  if 2 ^ (n - 1) ≤ w % 2 ^ n then (w % 2 ^ n : Int) - 2 ^ n else (w % 2 ^ n : Int)

/-- A number's low `n` bits as two's complement. -/
def wrapInt (n : Nat) (x : Int) : Nat :=
  (x % (2 ^ n : Int)).toNat

/-- The little-endian bytes of a number (R8). -/
def leBytes (n w : Nat) : List Byte :=
  match n with
  | 0 => []
  | k + 1 => BitVec.ofNat 8 w :: leBytes k (w >>> 8)

/-- The number that little-endian bytes hold (R8). -/
def leNat (bs : List Byte) : Nat :=
  match bs with
  | [] => 0
  | b :: t => b.toNat + 256 * leNat t

/-- The number that big-endian bytes hold (used by the standards of R447). -/
def beNat (bs : List Byte) : Nat :=
  bs.foldl (fun acc b => acc * 256 + b.toNat) 0

/-- The big-endian bytes of a number. -/
def beBytes (n w : Nat) : List Byte :=
  (leBytes n w).reverse

/-- Ceiling division. -/
def ceilDiv (a b : Nat) : Nat :=
  (a + b - 1) / b

/-- A count that stops at its largest value of `n` bits (R156, R190, R248). -/
def satAdd (n a b : Nat) : Nat :=
  min (a + b) (2 ^ n - 1)

/-- The number of 1 bits. -/
def popCount (n w : Nat) : Nat :=
  ((List.range n).filter (fun i => w.testBit i)).length

/-- Split a list into pieces of `n`, with fuel. -/
def chunks {α : Type} (n fuel : Nat) (l : List α) : List (List α) :=
  match fuel with
  | 0 => []
  | k + 1 => if l.isEmpty then [] else l.take n :: chunks n k (l.drop n)

/-- Replace the elements of a list from a position on. -/
def patch {α : Type} (l : List α) (at_ : Nat) (new : List α) : List α :=
  l.take at_ ++ (new ++ (l.drop at_).drop new.length)

/-- Insert a number into a rising list without repeats. -/
def insertNat (x : Nat) (l : List Nat) : List Nat :=
  match l with
  | [] => [x]
  | y :: t => if x = y then y :: t else if x < y then x :: y :: t else y :: insertNat x t

/-- The union of two rising lists. -/
def unionNat (a b : List Nat) : List Nat :=
  a.foldr insertNat b

/-- The smallest element of a list, or a default. -/
def minD (d : Nat) (l : List Nat) : Nat :=
  l.foldl (fun m x => if x < m then x else m) (l.headD d)

/-- The largest element of a list, or zero. -/
def maxZ (l : List Nat) : Nat :=
  l.foldl max 0

end Sys2Proof.Machine
end

