-- ==== Sys2Proof/Machine/Numbers.lean ====
section
/-!
DEFINITION. The sixteen number formats, exact values, rounding and conversion (R136 to R142, R151 to R155, R157), and the W96
accumulation step (R144).
-/

namespace Sys2Proof.Machine

/-- An exact number: NaN, an infinity, or (−1)^neg × m × 2^e. -/
inductive FVal where
  | nan
  | inf (neg : Bool)
  | fin (neg : Bool) (m : Nat) (e : Int)
deriving DecidableEq, Repr

namespace FVal

/-- Zero. -/
def zero : FVal := .fin false 0 0

/-- Neither NaN nor an infinity. -/
def isFinite : FVal → Bool
  | .fin _ _ _ => true
  | _ => false

/-- NaN. -/
def isNan : FVal → Bool
  | .nan => true
  | _ => false

/-- Zero of either sign. -/
def isZero : FVal → Bool
  | .fin _ m _ => m == 0
  | _ => false

/-- The sign (NaN counts as positive). -/
def isNeg : FVal → Bool
  | .nan => false
  | .inf n => n
  | .fin n _ _ => n

/-- The negated number. -/
def negate : FVal → FVal
  | .nan => .nan
  | .inf n => .inf (!n)
  | .fin n m e => .fin (!n) m e

/-- The magnitude. -/
def abs : FVal → FVal
  | .nan => .nan
  | .inf _ => .inf false
  | .fin _ m e => .fin false m e

/-- Multiply exactly by a power of two (R153). -/
def scale (k : Int) : FVal → FVal
  | .fin n m e => .fin n m (e + k)
  | x => x

/-- The signed integer multiple of 2^e of a finite number. -/
def signedM (neg : Bool) (m : Nat) : Int :=
  if neg then -(m : Int) else (m : Int)

/-- floor(log2 |x|) of a finite non-zero number. -/
def ilog (m : Nat) (e : Int) : Int :=
  (Nat.log2 m : Int) + e

/-- Build a finite number from a signed multiple of 2^e; `negZero` is the sign of a zero. -/
def ofSigned (negZero : Bool) (k : Int) (e : Int) : FVal :=
  if k = 0 then .fin negZero 0 0 else .fin (decide (k < 0)) k.natAbs e

/-- The sum of two numbers, exact; an exact zero of two numbers of unlike sign is +0 (IEEE 754, nearest even). -/
def add : FVal → FVal → FVal
  | .nan, _ => .nan
  | _, .nan => .nan
  | .inf a, .inf b => if a = b then .inf a else .nan
  | .inf a, _ => .inf a
  | _, .inf b => .inf b
  | .fin na ma ea, .fin nb mb eb =>
    if ma = 0 ∧ mb = 0 then .fin (na && nb) 0 0
    else
      let e := min ea eb
      ofSigned false (signedM na (ma <<< (ea - e).toNat) + signedM nb (mb <<< (eb - e).toNat)) e

/-- The product of two numbers, exact. -/
def mul : FVal → FVal → FVal
  | .nan, _ => .nan
  | _, .nan => .nan
  | .inf a, y => if y.isZero then .nan else .inf (a != y.isNeg)
  | x, .inf b => if x.isZero then .nan else .inf (b != x.isNeg)
  | .fin na ma ea, .fin nb mb eb => .fin (na != nb) (ma * mb) (ea + eb)

/-- Compare two finite magnitudes: m₁ × 2^e₁ < m₂ × 2^e₂. -/
def magLt (m1 : Nat) (e1 : Int) (m2 : Nat) (e2 : Int) : Bool :=
  let e := min e1 e2
  decide (m1 <<< (e1 - e).toNat < m2 <<< (e2 - e).toNat)

/-- x < y for numbers that are not NaN; −0 and +0 are equal here. -/
def lt : FVal → FVal → Bool
  | .nan, _ => false
  | _, .nan => false
  | .inf a, .inf b => a && !b
  | .inf a, _ => a
  | _, .inf b => !b
  | .fin na ma ea, .fin nb mb eb =>
    let e := min ea eb
    decide (signedM na (ma <<< (ea - e).toNat) < signedM nb (mb <<< (eb - e).toNat))

/-- Equality of numbers that are not NaN; −0 equals +0. -/
def eq (x y : FVal) : Bool :=
  !x.isNan && !y.isNan && !(lt x y) && !(lt y x)

/-- x before y in the order of minimumNumber: −0 lies below +0 (R57, R84). -/
def ltTotal (x y : FVal) : Bool :=
  lt x y || (x.isZero && y.isZero && x.isNeg && !y.isNeg)

end FVal

/-! ### The formats (R76, R136 to R138) -/

/-- Layout of a floating-point format: exponent bits, fraction bits, bias, whether it has infinities, and its code of R76. -/
structure FmtInfo where
  expBits : Nat
  fracBits : Nat
  bias : Int
  ieee : Bool
deriving DecidableEq, Repr

/-- Rows of R136 that are signed floating-point formats. -/
def fmtInfo (code : Nat) : Option FmtInfo :=
  match code with
  | 0 => some ⟨11, 52, 1023, true⟩
  | 1 => some ⟨8, 23, 127, true⟩
  | 2 => some ⟨8, 15, 127, true⟩
  | 3 => some ⟨8, 7, 127, true⟩
  | 4 => some ⟨5, 10, 15, true⟩
  | 5 => some ⟨4, 3, 7, false⟩
  | 6 => some ⟨5, 2, 15, true⟩
  | 7 => some ⟨3, 2, 3, false⟩
  | 8 => some ⟨2, 3, 1, false⟩
  | 9 => some ⟨2, 1, 1, false⟩
  | _ => none

/-- Element width in bits (R136); W96 by its container. -/
def fmtWidth (code : Nat) : Nat :=
  match code with
  | 0 => 64 | 1 => 32 | 2 => 24 | 3 => 16 | 4 => 16 | 5 => 8 | 6 => 8 | 7 => 6 | 8 => 6 | 9 => 4
  | 10 => 8 | 11 => 4 | 12 => 32 | 13 => 8 | 14 => 8 | _ => 128

/-- Width of an integer format, if it is one. -/
def intWidth (code : Nat) : Option Nat :=
  match code with
  | 10 => some 8 | 11 => some 4 | 12 => some 32
  | _ => none

/-- The value of a floating-point encoding under R137. -/
def decodeFloat (f : FmtInfo) (isE4M3 : Bool) (w : Nat) : FVal :=
  let frac := bits w (f.fracBits - 1) 0
  let ex := bits w (f.fracBits + f.expBits - 1) f.fracBits
  let neg := bitN w (f.fracBits + f.expBits)
  let top := 2 ^ f.expBits - 1
  if f.ieee && ex == top then (if frac = 0 then .inf neg else .nan)
  else if isE4M3 && ex == 15 && frac == 7 then .nan
  else if ex = 0 then .fin neg frac (1 - f.bias - f.fracBits)
  else .fin neg (2 ^ f.fracBits + frac) (ex - f.bias - f.fracBits)

/-- The value of a W96 container (R141). -/
def decodeW96 (w : Nat) : FVal :=
  let e := bits w 103 96
  let m := bits w 95 0
  if e = 255 then (if m = 1 then .inf false else if m = 2 then .inf true else .nan)
  else FVal.ofSigned false (signed 96 m) ((e : Int) - 221)

/-- The value of an encoding of a format (R137, R139 to R141). An S24 encoding is its 24 bits. -/
def decodeFmt (code w : Nat) : FVal :=
  match fmtInfo code with
  | some f => decodeFloat f (code == 5) w
  | none =>
    match code with
    | 10 => FVal.ofSigned false (signed 8 w) 0
    | 11 => FVal.ofSigned false (signed 4 w) 0
    | 12 => FVal.ofSigned false (signed 32 w) 0
    | 13 => if w % 256 = 255 then .nan else .fin false 1 ((w % 256 : Int) - 127)
    | 14 => if w % 256 = 255 then .nan else decodeFloat ⟨5, 3, 15, false⟩ false (w % 256)
    | _ => decodeW96 w

/-- The canonical NaN of a format (R140). -/
def canonicalNan (code : Nat) : Nat :=
  match code with
  | 0 => 0x7FF8000000000000 | 1 => 0x7FC00000 | 2 => 0x7FC000 | 3 => 0x7FC0 | 4 => 0x7E00 | 5 => 0x7F | 6 => 0x7E
  | 13 => 0xFF | 14 => 0xFF | 15 => 255 * 2 ^ 96 + 3
  | _ => 0

/-! ### Rounding (R153) -/

/-- The rounding modes of R153; a stochastic rounding carries its 32-bit value v. -/
inductive Rnd where
  | nearest
  | zero
  | stochastic (v : W32)
deriving DecidableEq, Repr

/-- Round m × 2^e to a multiple k of 2^q (R153); the result is k. -/
def roundTo (r : Rnd) (m : Nat) (e q : Int) : Nat :=
  if q ≤ e then m <<< (e - q).toNat
  else
    let s := (q - e).toNat
    let k := m >>> s
    let rem := m % 2 ^ s
    match r with
    | .nearest =>
      if 2 ^ s < 2 * rem then k + 1
      else if 2 * rem = 2 ^ s then (if k % 2 = 0 then k else k + 1)
      else k
    | .zero => k
    | .stochastic v => if 2 ^ 32 ≤ (rem <<< 32) >>> s + v.toNat then k + 1 else k

/-- The exponent of the last place kept for m × 2^e in a format: `fracBits` below the leading bit, not below the subnormal step. -/
def lastPlace (f : FmtInfo) (m : Nat) (e : Int) : Int :=
  max (FVal.ilog m e - f.fracBits) (1 - f.bias - f.fracBits)

/-- Encode sign and k × 2^q, which has no more than fracBits + 1 significant bits, without upper limit on the exponent field. -/
def packFloat (f : FmtInfo) (neg : Bool) (k : Nat) (q : Int) : Nat :=
  let s := if neg then 2 ^ (f.fracBits + f.expBits) else 0
  if k = 0 then s
  else
    let l := FVal.ilog k q
    if l < 1 - f.bias then s + k
    else
      let t := q - (l - f.fracBits)
      let m := if 0 ≤ t then k <<< t.toNat else k >>> (-t).toNat
      s + ((l + f.bias).toNat <<< f.fracBits) + (m - 2 ^ f.fracBits)

/-- The largest finite value of a format, as its encoding without sign (R138). -/
def maxFinite (code : Nat) : Nat :=
  match code with
  | 0 => 0x7FEFFFFFFFFFFFFF | 1 => 0x7F7FFFFF | 2 => 0x7F7FFF | 3 => 0x7F7F | 4 => 0x7BFF | 5 => 0x7E | 6 => 0x7B
  | 7 => 0x1F | 8 => 0x1F | 9 => 0x7
  | _ => 0xFE

/-- |k × 2^q| exceeds the largest finite value of the format (R154, "beyond"). -/
def beyond (code : Nat) (k : Nat) (q : Int) : Bool :=
  match decodeFmt code (maxFinite code) with
  | .fin _ m e => FVal.magLt m e k q
  | _ => false

/-- The result of one conversion: the encoding and whether a saturation is counted (R154, R156). -/
structure Conv where
  enc : Nat
  counted : Bool := false
deriving DecidableEq, Repr

/-- Infinity of a format with infinities. -/
def infEnc (f : FmtInfo) (neg : Bool) : Nat :=
  (if neg then 2 ^ (f.fracBits + f.expBits) else 0) + ((2 ^ f.expBits - 1) <<< f.fracBits)

/-- W96 from an exact value, under the last row of R154. -/
def toW96 (x : FVal) : Nat :=
  match x with
  | .nan => canonicalNan 15
  | .inf n => 255 * 2 ^ 96 + (if n then 2 else 1)
  | .fin n m e =>
    if m = 0 then 0
    else if 128 ≤ FVal.ilog m e then 255 * 2 ^ 96 + (if n then 2 else 1)
    else
      let ref := min (max (FVal.ilog m e) (-141)) 113
      let q := ref - 80
      let k : Int := FVal.signedM n m
      let v : Int := if q ≤ e then k * 2 ^ (e - q).toNat else k / 2 ^ (q - e).toNat
      if v = 0 then 0 else (ref + 141).toNat * 2 ^ 96 + wrapInt 96 v

/-- Conversion of an exact value to a format under a rounding mode (R153, R154). -/
def convertFmt (code : Nat) (r : Rnd) (x : FVal) : Conv :=
  match code with
  | 13 =>
    match x with
    | .nan => ⟨0xFF, false⟩
    | .inf _ => ⟨0xFE, true⟩
    | .fin _ m e =>
      if m = 0 then ⟨0, true⟩
      else if FVal.ilog m e < -127 then ⟨0, true⟩
      else if 128 ≤ FVal.ilog m e then ⟨0xFE, true⟩
      else ⟨(FVal.ilog m e + 127).toNat, false⟩
  | 14 =>
    match x with
    | .nan => ⟨0xFF, false⟩
    | .inf _ => ⟨0xFE, true⟩
    | .fin _ m e =>
      let f : FmtInfo := ⟨5, 3, 15, false⟩
      if m = 0 then ⟨0, false⟩
      else
        let q := lastPlace f m e
        let k := roundTo r m e q
        if beyond 14 k q then ⟨0xFE, true⟩ else ⟨packFloat f false k q, false⟩
  | 15 => ⟨toW96 x, false⟩
  | _ =>
    match intWidth code with
    | some w =>
      match x with
      | .nan => ⟨0, true⟩
      | .inf n => ⟨if n then 2 ^ (w - 1) else 2 ^ (w - 1) - 1, true⟩
      | .fin n m e =>
        let y : Int := FVal.signedM n (roundTo r m e 0)
        if y < -(2 ^ (w - 1) : Int) then ⟨2 ^ (w - 1), true⟩
        else if (2 ^ (w - 1) : Int) ≤ y then ⟨2 ^ (w - 1) - 1, true⟩
        else ⟨wrapInt w y, false⟩
    | none =>
      match fmtInfo code with
      | none => ⟨0, false⟩
      | some f =>
        let sgn (n : Bool) : Nat := if n then 2 ^ (f.fracBits + f.expBits) else 0
        match x with
        | .nan =>
          if f.ieee then ⟨canonicalNan code, false⟩
          else if code = 5 then ⟨0x7F, false⟩
          else ⟨0, true⟩
        | .inf n => if f.ieee then ⟨infEnc f n, false⟩ else ⟨sgn n + maxFinite code, true⟩
        | .fin n m e =>
          if m = 0 then ⟨sgn n, false⟩
          else
            let q := lastPlace f m e
            let k := roundTo r m e q
            if beyond code k q then
              if f.ieee then
                match r with
                | .zero => ⟨sgn n + maxFinite code, false⟩
                | _ => ⟨infEnc f n, false⟩
              else ⟨sgn n + maxFinite code, true⟩
            else ⟨packFloat f n k q, false⟩

/-- Round an exact value to nearest even in a format, as vector arithmetic does (R77). -/
def roundFmt (code : Nat) (x : FVal) : Nat :=
  (convertFmt code .nearest x).enc

/-! ### Stochastic rounding (R157) -/

/-- The function mix of R157. -/
def mix (z : W64) : W64 :=
  let z := z ^^^ (z >>> 33)
  let z := z * 0xA7D315E96B2C48F1
  let z := z ^^^ (z >>> 29)
  let z := z * 0xE36C09B5D41F7A2B
  z ^^^ (z >>> 32)

/-- The 32-bit value v of a stochastic conversion (R157). -/
def stochV (seed c0 c1 : W64) : W32 :=
  (mix (mix (seed ^^^ c0) ^^^ c1)).setWidth 32

/-! ### The accumulator (R142, R144) -/

/-- A W96 accumulator element: special state, or M on the grid of reference exponent `ref`. -/
inductive AccEl where
  | nan
  | inf (neg : Bool)
  | num (m : Int) (ref : Int)
deriving DecidableEq, Repr

/-- The zero element. -/
def AccEl.zero : AccEl := .num 0 (-141)

/-- The exact value of an element (R142). -/
def AccEl.val : AccEl → FVal
  | .nan => .nan
  | .inf n => .inf n
  | .num m ref => FVal.ofSigned false m (ref - 80)

/-- Is the element NaN or an infinity. -/
def AccEl.special : AccEl → Bool
  | .num _ _ => false
  | _ => true

/-- The storage form of an element (R141, R142): zero is E = 0, M = 0. -/
def AccEl.encode : AccEl → Nat
  | .nan => canonicalNan 15
  | .inf n => 255 * 2 ^ 96 + (if n then 2 else 1)
  | .num m ref => if m = 0 then 0 else (ref + 141).toNat * 2 ^ 96 + wrapInt 96 m

/-- The element that a storage form holds (R141). -/
def AccEl.decode (w : Nat) : AccEl :=
  let e := bits w 103 96
  let m := bits w 95 0
  if e = 255 then (if m = 1 then .inf false else if m = 2 then .inf true else .nan)
  else .num (signed 96 m) ((e : Int) - 141)

/-- A product of magnitude 2^128 or more becomes an infinity (R144). -/
def overflowProduct : FVal → FVal
  | .fin n m e => if m ≠ 0 ∧ 128 ≤ FVal.ilog m e then .inf n else .fin n m e
  | x => x

/-- floor of m × 2^e over 2^q, signed. -/
def floorAt (n : Bool) (m : Nat) (e q : Int) : Int :=
  if q ≤ e then FVal.signedM n m * 2 ^ (e - q).toNat else FVal.signedM n m / 2 ^ (q - e).toNat

/-- The sum of the products truncated at the grid (R144). -/
def sumAt (ps : List FVal) (q : Int) : Int :=
  ps.foldl (fun s p => match p with | .fin n m e => s + floorAt n m e q | _ => s) 0

/-- The largest floor(log2 |p|) of non-zero finite products. -/
def topExp (ps : List FVal) : Int :=
  match ps with
  | [] => -100000
  | .fin _ m e :: t => max (FVal.ilog m e) (topExp t)
  | _ :: t => topExp t

/-- accumulate_step of R144. -/
def accStep (el : AccEl) (products : List FVal) : AccEl :=
  let prods := products.map overflowProduct
  let posInf := prods.any (fun p => decide (p = .inf false))
  let negInf := prods.any (fun p => decide (p = .inf true))
  match el with
  | .nan => .nan
  | _ =>
    if prods.any FVal.isNan || (posInf && negInf) then .nan
    else if posInf || negInf then
      (if el = .inf (!negInf) then .nan else .inf negInf)
    else
      match el with
      | .num m ref0 =>
        let nz := prods.filter (fun p => !p.isZero)
        if nz.isEmpty then el
        else
          let e := topExp nz
          let ref := min (max (if m = 0 then e else max e ref0) (-141)) 113
          let m := if m ≠ 0 ∧ ref0 < ref then m / 2 ^ (ref - ref0).toNat else m
          let t := m + sumAt nz (ref - 80)
          if (2 ^ 95 : Int) ≤ t ∨ t < -(2 ^ 95 : Int) then
            if ref = 113 then .inf (decide (t < 0)) else .num (t / 2) (ref + 1)
          else .num t ref
      | _ => el

end Sys2Proof.Machine
end

