-- ==== Sys2Proof/Machine/Transcend.lean ====
section
/-!
DEFINITION. FRCP, FRSQ, FEXP2 and FLOG2 (R78, R84): the F32 results within 1 unit in the last place of the exact value, and the
free choice among them.
-/

namespace Sys2Proof.Machine

/-- The integer square root, one bit at a time from bit `k` - 1 down. -/
def isqrt (k n r : Nat) : Nat :=
  match k with
  | 0 => r
  | i + 1 => if (r + 2 ^ i) * (r + 2 ^ i) ≤ n then isqrt i n (r + 2 ^ i) else isqrt i n r

/-- Fractional bits of the fixed-point numbers below. -/
def fixP : Nat := 400

/-- A non-negative number bracketed on a fixed-point grid: n / 2^400 ≤ value < (n + 1) / 2^400, equal to n / 2^400 when `exact`. -/
structure Fix where
  n : Nat
  exact : Bool
deriving DecidableEq, Repr

/-- The F32 encodings of the given sign that differ from the value by at most 1 unit in the last place (R78). -/
def ulpCandidates (neg : Bool) (v : Fix) : List Nat :=
  let s := if neg then 2 ^ 31 else 0
  if 2 ^ (fixP + 128) ≤ v.n then [s + 0x7F800000]
  else
    let lo := (convertFmt 1 .zero (.fin false v.n (-(fixP : Int)))).enc
    let same := v.exact && FVal.eq (decodeFmt 1 lo) (.fin false v.n (-(fixP : Int)))
    if same && lo != 0 then [s + lo, s + (lo - 1), s + (lo + 1)] else [s + lo, s + (lo + 1)]

/-- Pick one of the candidates with the free choice of this opcode and operand. -/
def pickUlp (opcode : Nat) (x : W32) (l : List Nat) : Nat :=
  l.getD (Config.ulpChoice opcode x % l.length) 0

/-- 1 / (m × 2^e) on the grid. -/
def fixRcp (m : Nat) (e : Int) : Fix :=
  let t := 2 ^ ((fixP : Int) - e).toNat
  ⟨t / m, t % m == 0⟩

/-- 1 / √(m × 2^e) on the grid. -/
def fixRsq (m : Nat) (e : Int) : Fix :=
  let t := 2 ^ (2 * (fixP : Int) - e).toNat
  let r := isqrt 600 (t / m) 0
  ⟨r, r * r * m == t⟩

/-- 2^(f / 2^149) on a grid of 2^-400, by the square roots of 2: `r` is 2^(2^-i). -/
def exp2Frac (fuel i f r acc : Nat) : Nat :=
  match fuel with
  | 0 => acc
  | k + 1 =>
    let r := isqrt 402 (r * 2 ^ fixP) 0
    exp2Frac k (i + 1) f r (if bitN f (149 - i) then acc * r / 2 ^ fixP else acc)

/-- 2^x on the grid, for x = ±m × 2^e with -149 ≤ e. -/
def fixExp2 (neg : Bool) (m : Nat) (e : Int) : Fix :=
  let k : Int := FVal.signedM neg (m <<< (e + 149).toNat)
  let i : Int := k / 2 ^ 149
  let f := (k % 2 ^ 149).toNat
  if 128 ≤ i then ⟨2 ^ (fixP + 128), true⟩
  else if i < -390 then ⟨0, false⟩
  else
    let w := if f = 0 then 2 ^ fixP else exp2Frac 149 1 f (2 * 2 ^ fixP) (2 ^ fixP)
    ⟨if 0 ≤ i then w <<< i.toNat else w >>> (-i).toNat, f == 0⟩

/-- `k` bits of log2 of a number 1 ≤ w / 2^400 < 2, most significant first, by squaring. -/
def log2Frac (k w acc : Nat) : Nat :=
  match k with
  | 0 => acc
  | i + 1 =>
    let q := w * w / 2 ^ fixP
    if 2 * 2 ^ fixP ≤ q then log2Frac i (q / 2) (2 * acc + 1) else log2Frac i q (2 * acc)

/-- log2 of m × 2^e: the sign and the magnitude on the grid. -/
def fixLog2 (m : Nat) (e : Int) : Bool × Fix :=
  let l := Nat.log2 m
  let i : Int := (l : Int) + e
  let exact := m == 2 ^ l
  let f := log2Frac 200 (m <<< (fixP - l)) 0
  let v : Int := i * 2 ^ 200 + f
  if v < 0 then (true, ⟨(v.natAbs - (if exact then 0 else 1)) <<< (fixP - 200), exact⟩)
  else (false, ⟨v.natAbs <<< (fixP - 200), exact⟩)

/-- A result that the manual leaves open; where it is a NaN it is the canonical one (R140). -/
def openResult (w : W32) : W32 := if decodeFmt 1 w.toNat = .nan then 0x7FC00000#32 else w

/-- The result of a transcendental instruction on one F32 operand (R78): opcode 0x71 to 0x74. -/
def transcend (opcode : Nat) (x : W32) : W32 :=
  match opcode, decodeFmt 1 x.toNat with
  | _, .nan => 0x7FC00000#32
  | 0x71, .fin n m e => if m = 0 then openResult (Config.frcpOpen x) else BitVec.ofNat 32 (pickUlp opcode x (ulpCandidates n (fixRcp m e)))
  | 0x71, .inf _ => openResult (Config.frcpOpen x)
  | 0x72, .fin n m e =>
    if m = 0 || n then openResult (Config.frsqOpen x) else BitVec.ofNat 32 (pickUlp opcode x (ulpCandidates false (fixRsq m e)))
  | 0x72, .inf _ => openResult (Config.frsqOpen x)
  | 0x73, .fin n m e => BitVec.ofNat 32 (pickUlp opcode x (ulpCandidates false (fixExp2 n m e)))
  | 0x73, .inf _ => openResult (Config.fexp2Open x)
  | _, .fin n m e =>
    if m = 0 || n then openResult (Config.flog2Open x)
    else
      let r := fixLog2 m e
      BitVec.ofNat 32 (pickUlp opcode x (ulpCandidates r.1 r.2))
  | _, .inf _ => openResult (Config.flog2Open x)

end Sys2Proof.Machine
end

