-- ==== Sys2Proof/Machine/RingState.lean ====
section
/-!
DEFINITION. The state of troupes, booths and rings (R20, R34 to R69, R107 to R109, R161, R167, R175, R191).
-/

namespace Sys2Proof.Machine

/-! ### Subsets and troupes -/

/-- The wait states of R40 that a subset stays in after its instruction issued, or while a matrix instruction waits to converge. The
operand and memory waits, and the waits for a full queue, are found from the rest of the state. -/
inductive Wait where
  /-- none of them -/
  | none
  /-- BAR.T: convergence (R47) -/
  | convergence
  /-- BAR.R: convergence, then the ring barrier (R94); `g` is the G bit -/
  | ringBarrier (g : Bool)
  /-- TURN.WAIT: handle, value, and the predicate written in the participants when it ends (R91, R92) -/
  | turnstile (handle : Nat) (value : W64) (pdst : Option Nat) (ps : List Nat)
  /-- waiting at a matrix instruction (R133) -/
  | matrix
deriving DecidableEq, Repr

/-- A subset: threads holding one PC (R41). -/
structure Subset where
  /-- thread numbers, ascending -/
  threads : List Nat
  /-- the PC of every thread of the subset (R41) -/
  pc : Nat
  /-- the booth issue slot at which it last stopped issuing or was created (R42) -/
  stamp : Nat
  /-- its wait state (R40) -/
  wait : Wait := .none
deriving DecidableEq, Repr

/-- A result not yet available to later instructions of the same threads (R37, R40). Register names: vN is N, uN is 256 + N, pN is
320 + N. -/
structure Pending where
  id : Nat
  /-- registers of the result -/
  regs : List Nat
  /-- threads concerned -/
  threads : List Nat
  /-- a memory wait, ended by a response and not by a latency -/
  memory : Bool
deriving DecidableEq, Repr

/-- The matrix configuration of a troupe (R96). -/
structure MxCfg where
  afmt : Nat := 3
  wfmt : Nat := 3
  passes : Nat := 0
  scale : Nat := 0
deriving DecidableEq, Repr

/-- The non-finite record of an accumulator unit, NF being 1 (R161). -/
structure NfRec where
  /-- 0 NaN; 1 +∞; 2 −∞ -/
  kind : Nat
  row : Nat
  col : Nat
deriving DecidableEq, Repr

/-- What a fault record says of the troupe whose instruction raised it (R105): it goes along with what an instruction leaves behind, and so
outlives the troupe. -/
structure Origin where
  kernelId : Nat := 0
  /-- ring group index and troupe index -/
  group : Nat := 0
  index : Nat := 0
  /-- the dispatch and its accept position -/
  cmd : CmdRef := ⟨0, 0⟩
  accept : Nat := 0
deriving DecidableEq, Repr

/-- A resident troupe (R34, R50, R63). -/
structure Troupe where
  /-- the first slot it takes on its booth (R20) -/
  slot : Nat
  /-- its context -/
  ctx : Nat
  /-- the dispatch it belongs to -/
  cmd : CmdRef
  /-- its ring group, by the ring's number for it -/
  group : Nat
  kernelId : Nat
  /-- phase of the dispatch (R258) -/
  phase : Nat
  /-- ring group index u0 -/
  groupIndex : Nat
  /-- troupe index u1 -/
  index : Nat
  /-- threads: 32, 64 or 128 -/
  width : Nat
  /-- REGS_PER_THREAD (R51) -/
  regs : Nat
  /-- ACC_UNITS (R65) -/
  accUnits : Nat
  /-- seed_d of its dispatch (R157) -/
  seed : W64
  /-- registers and accumulators cleared (R64) -/
  cleared : Bool := false
  /-- v registers, at key thread × 256 + N; an absent entry is 0 -/
  v : FMap W32 := []
  /-- u registers; an absent entry is 0 -/
  u : FMap W32 := []
  /-- predicates p7 to p0 of each thread; an absent entry is all false -/
  p : FMap Byte := []
  subsets : List Subset := []
  /-- the running subset, by its lowest thread (R45) -/
  running : Option Nat := none
  /-- troupe instructions issued since it was chosen (R44) -/
  runCount : Nat := 0
  /-- slot of the last troupe instruction of the running subset (R42) -/
  lastSlot : Nat := 0
  /-- booth issue slots given to other troupes while it was ready (R39) -/
  passedOver : Nat := 0
  /-- exited threads with the PC of their EXIT, in thread order (R134) -/
  exited : List (Nat × Nat) := []
  /-- has arrived at the ring barrier (R94) -/
  arrived : Bool := false
  pending : List Pending := []
  nextId : Nat := 0
  /-- matrix configuration (R96) -/
  cfg : MxCfg := {}
  /-- accumulator rows, 32 elements each, by accumulator row (R109); an absent row is 0 -/
  acc : FMap (List AccEl) := []
  /-- non-finite records by unit; an absent entry is NF 0 (R161) -/
  nf : FMap NfRec := []
  /-- completed CVT with RND 2 per thread (R158) -/
  cvtCount : FMap Nat := []
  /-- issued MX.DRN with RND 2 (R158) -/
  drnCount : Nat := 0
deriving DecidableEq, Repr

/-! ### The matrix path -/

/-- A weight tile in a slot (R110, R114): format, K, its bytes in the T = 0 layout, its scale bytes by column. -/
structure Tile where
  fmt : Nat
  /-- T of the MX.LDW that wrote it -/
  transposed : Bool
  bytes : List Byte
  scales : List Byte
  /-- SCALE of the load -/
  scale : Nat
deriving DecidableEq, Repr

/-- What a weight-buffer slot holds (R114). -/
inductive WSlot where
  | tile (t : Tile)
  /-- the upper half of the pair of the slot below -/
  | upper
deriving DecidableEq, Repr

/-- The number that tells the troupes of a ring apart: ring group and index. -/
def Troupe.uid (t : Troupe) : Nat := t.group * 64 + t.index

/-- An MX.LDW in the weight-load queue (R115). -/
structure Ldw where
  seq : Nat
  who : TroupeRef
  uid : Nat
  ctx : Nat
  slot : Nat
  cfg : MxCfg
  transposed : Bool
  /-- ring scratchpad addresses -/
  addr : Nat
  scaleAddr : Nat
  pitch : Nat
  /-- source bytes read so far, in the order of the tile's bytes (R115) -/
  got : List Byte := []
deriving DecidableEq, Repr

/-- An MX.RUN in a booth's matrix queue (R122). -/
structure MxRunOp where
  seq : Nat
  who : TroupeRef
  uid : Nat
  ctx : Nat
  phase : Nat
  cfg : MxCfg
  slot : Nat
  acc : Nat
  rows : Nat
  start : Bool
  addr : Nat
  scaleAddr : Nat
  pitch : Nat
  /-- rows read into the row buffer, and whether the high plane of the next FP32 row is there (R123) -/
  rowsRead : Nat := 0
  half : Bool := false
  /-- rows that have entered the array -/
  rowsIn : Nat := 0
  /-- the latch bank that holds its tile -/
  bank : Option Nat := none
deriving DecidableEq, Repr

/-- An MX.DRN in a booth's matrix queue (R122). -/
structure MxDrnOp where
  seq : Nat
  who : TroupeRef
  uid : Nat
  ctx : Nat
  cfg : MxCfg
  dfmt : Nat
  rnd : Nat
  acc : Nat
  rows : Nat
  toRegs : Bool
  rowsum : Bool
  dreg : Nat
  scaleExp : Int
  addr : Nat
  rowsumAddr : Nat
  pitch : Nat
  pc : Nat
  /-- count of earlier stochastic drains (R158) -/
  count : Nat
  /-- seed, KERNEL_ID, u0 and u1 of its troupe (R158) -/
  seed : W64
  kernelId : Nat
  groupIndex : Nat
  index : Nat
  /-- whose instruction it is (R105) -/
  org : Origin := {}
  rowsRead : Nat := 0
  rowsWritten : Nat := 0
  /-- the earliest non-finite position so far: drain row, column, kind, IN_ACC (R164) -/
  first : Option (Nat × Nat × Nat × Bool) := none
  /-- kind of the first row sum that is NaN or an infinity -/
  sumNf : Option Nat := none
  /-- DEST 1: the pending result that its register writes end -/
  pend : Nat := 0
deriving DecidableEq, Repr

/-- An entry of the matrix instruction queue (R122). -/
inductive MxOp where
  | run (o : MxRunOp)
  | drn (o : MxDrnOp)
deriving DecidableEq, Repr

/-- A row in the feeder's row buffer (R123). -/
structure FeedRow where
  seq : Nat
  row : Nat
  bytes : List Byte
  scales : List Byte
deriving DecidableEq, Repr

/-- A row in the array between entry and accumulation (R118): the products of each column's K-step. -/
structure PipeRow where
  seq : Nat
  uid : Nat
  ctx : Nat
  /-- accumulator row it adds into (R109) -/
  accRow : Nat
  start : Bool
  prods : List (List FVal)
deriving DecidableEq, Repr

/-- A drained row on its way to scratchpad or registers (R126). -/
structure DrainRow where
  seq : Nat
  row : Nat
  bytes : List Byte
  rowsum : Option W32
deriving DecidableEq, Repr

/-- An entry of the register cache (R54). -/
structure RegCacheEnt where
  slot : Nat
  reg : Nat
  part : Nat
  left : Nat
deriving DecidableEq, Repr

/-- A booth (R20). -/
structure Booth where
  /-- booth issue slots executed so far (R36) -/
  slots : Nat := 0
  /-- a-cycles left of the troupe instruction in issue (R35) -/
  busy : Nat := 0
  /-- bubbles claimed and not yet taken by the lane row (R36) -/
  claims : Nat := 0
  /-- bubble level of the run of 64 booth issue slots in progress (R390) -/
  level : Nat := 0
  /-- bubbles claimed at the booth that its array has still to take (R125) -/
  owed : Nat := 0
  /-- the array takes a bubble in this a-cycle, so the drain engine reads no row in it (R125) -/
  drainHold : Bool := false
  /-- position in the 64-slot pattern of the power limiter (R390) -/
  phase64 : Nat := 0
  /-- resident troupes, oldest first (R38) -/
  troupes : List Troupe := []
  /-- register cache (R54) -/
  regCache : List RegCacheEnt := []
  /-- matrix instruction queue, at most 8 (R107) -/
  mq : List MxOp := []
  /-- the feeder's row buffer, at most 16 rows (R107) -/
  feed : List FeedRow := []
  /-- the two latch banks: the tile and the MX.RUN it was latched for (R107) -/
  latches : FMap (Tile × Nat) := []
  /-- rows in the array, oldest first (R118) -/
  pipe : List PipeRow := []
  /-- rows read by the drain engine and not yet written (R126) -/
  drain : List DrainRow := []
  /-- troupes that have ended with matrix instructions still queued, whose accumulators those use -/
  ended : List Troupe := []
  /-- troupes stopped by NONFINITE_TRAP whose accumulators are kept for the debugger (R163) -/
  kept : List Troupe := []
deriving DecidableEq, Repr

/-! ### The ring's memory side -/

/-- One line of ring L1 (R175). -/
structure L1Line where
  /-- grain key: device grains are DPA / 64, host grains 2^56 + HPA / 64 -/
  grain : Nat
  /-- .L data: the dispatch it belongs to (R178) -/
  loc : Option CmdRef := none
  /-- context, key slot and generation of the access that brought it -/
  ctx : Nat
  key : Nat
  gen : Nat
  data : List Byte
  /-- bytes valid: all, or the mask of a .L store miss (R176) -/
  valid : W64
  /-- bytes written by .L stores and not yet written back -/
  dirty : W64 := 0
  /-- recency: larger is more recent -/
  used : Nat
deriving DecidableEq, Repr

/-- A stream entry (R191). -/
structure StreamEnt where
  /-- ell key of the last LD.G miss -/
  ell : Nat
  /-- +1 ascending, −1 descending, 0 not known yet -/
  dir : Int
  /-- consecutive ells missed -/
  run : Nat
  used : Nat
deriving DecidableEq, Repr

/-- One destination of a load: thread, grain and offset in it. -/
structure LoadDst where
  thread : Nat
  grain : Nat
  off : Nat
deriving DecidableEq, Repr

/-- What came back for one grain of a load (R103, R194, R222). -/
inductive GrainRes where
  | data (bytes : List Byte)
  /-- not held and dead: zeros (R194) -/
  | dead
  /-- an INTEGRITY outcome with its reason (R222) -/
  | integrity (reason : Nat)
deriving DecidableEq, Repr

/-- A load, fetch-form atomic or ALLOC of a troupe whose result has not been written (R40). -/
structure LoadOp where
  who : TroupeRef
  ctx : Nat
  /-- the pending result it ends -/
  pend : Nat
  pc : Nat
  /-- first destination register; bytes; sign extension -/
  reg : Nat
  size : Nat
  signed : Bool
  dsts : List LoadDst
  /-- grains received -/
  got : FMap GrainRes := []
  /-- grains for which an L1 line is to be allocated (R176, R192) -/
  l1 : List Nat
  /-- valid bytes of .L lines that the fetched grains are merged under: the mask and the data of the line (R176) -/
  under : FMap (W64 × List Byte) := []
  /-- .L: the dispatch whose lines it allocates -/
  loc : Option CmdRef := none
  /-- key slot and generation of each grain (R229) -/
  keys : FMap (Nat × Nat) := []
  /-- fetch-form atomics: values by thread; `need` of them are awaited -/
  atom : Bool := false
  vals : FMap W64 := []
  need : Nat := 0
  /-- fault found by a home bushel: code and reason -/
  bad : Option (Nat × Nat) := none
  /-- whose instruction it is (R105) -/
  org : Origin := {}
deriving DecidableEq, Repr

/-- A write not yet acknowledged (R346). -/
structure WriteOp where
  who : TroupeRef
  uid : Nat
  ctx : Nat
  cmd : CmdRef
  pc : Nat := 0
  threads : List Nat
  /-- acknowledgements still to come -/
  left : Nat
  /-- acknowledgements that have been sent and not taken by the ring -/
  acked : Nat := 0
  /-- a write-back of .L lines, not an instruction's write -/
  writeBack : Bool := false
  /-- whose instruction it is (R105) -/
  org : Origin := {}
  /-- the load operation that takes fetched values, for an atomic in the fetch form -/
  load : Option Nat := none
  /-- the detail word of the NONFINITE_TRAP that it raises once all of it is performed (R163) -/
  trap : Option W64 := none
deriving DecidableEq, Repr

/-- An ALLOC that the ringmasters serve (R100). -/
structure AllocOp where
  who : TroupeRef
  ctx : Nat
  pend : Nat
  size : W64
  pool : Nat
  /-- uniform pair, and the predicate with the threads that take it -/
  dst : Nat
  pdst : Nat
  threads : List Nat
deriving DecidableEq, Repr

/-- The operation of a combined request. -/
inductive CombKind where
  | atom (op : AtomOp) (type : Nat)
  | redAdd (fmt : Nat) (w96 : Bool)
  | redFold (fmt : Nat) (rnd : Nat)
deriving DecidableEq, Repr

/-- One participant of an atomic: thread, address (scratchpad byte, or physical), operand, second operand. -/
structure Part where
  thread : Nat
  addr : Nat
  x : W64
  n : W64 := 0
  /-- key slot and generation of a global address (R229) -/
  key : Nat := 0
  gen : Nat := 0
deriving DecidableEq, Repr

/-- An atomic troupe instruction in the combiner's queue (R60), or a request it has formed (R56). -/
structure CombOp where
  who : TroupeRef
  uid : Nat
  ctx : Nat
  cmd : CmdRef
  kind : CombKind
  global : Bool
  fetch : Bool
  pc : Nat
  /-- the load operation that takes fetched values, and the write operation that is acknowledged -/
  load : Nat
  write : Nat
  parts : List Part
  /-- SOURCE of R376: w1 of a run entry without RUN -/
  source : Nat := 0
  /-- whose instruction it is (R105) -/
  org : Origin := {}
  /-- scratchpad atomics: the detail word of the NONFINITE_TRAP that the instruction raises with its last request (R163) -/
  trap : Option W64 := none
deriving DecidableEq, Repr

/-- What asks the scratchpad port for bytes, apart from the loads and stores of vector code (R128): the feeder and the drain engine of a booth,
the weight-load queue, the scratchpad atomics, a DMA engine of a tent. -/
inductive PortUser where
  | feeder (booth : Nat)
  | drain (booth : Nat)
  | weights
  | atomic
  | dma (tent engine : Nat)
deriving DecidableEq, Repr

/-- Bytes that a user asks of the scratchpad port, and whether the port refused them in an earlier a-cycle. -/
structure PortClaim where
  user : PortUser
  store : Bool
  bytes : Nat
  late : Bool := true
deriving DecidableEq, Repr

/-- A scratchpad request of vector code (R128). -/
inductive ScratchReq where
  /-- LD.S: pending result, destination register, size, sign, (thread, byte address); transposing element size or 0 -/
  | load (who : TroupeRef) (uid pend reg size : Nat) (signed : Bool) (dsts : List (Nat × Nat)) (cost : Nat)
  /-- transposing LD.S: (thread, byte addresses of its column, element size) -/
  | tload (who : TroupeRef) (uid pend reg esize : Nat) (dsts : List (Nat × List Nat)) (cost : Nat)
  /-- ST.S: (address, byte) in thread order -/
  | store (who : TroupeRef) (uid : Nat) (bytes : List (Nat × Byte)) (cost : Nat)
deriving DecidableEq, Repr

/-- A copy that a troupe has queued (R102). -/
structure DmaReq where
  ctx : Nat
  cmd : CmdRef
  /-- base and size of the ring group's scratchpad allocation -/
  base : Nat
  size : Nat
  src : W64
  dst : W64
  len : Nat
  handle : W32
  inc : W64
  /-- accept order for reclaim (R340) -/
  order : Nat
  /-- ring, PC and troupe of the DMA.Q (R105) -/
  ring : Nat := 0
  pc : Nat := 0
  org : Origin := {}
deriving DecidableEq, Repr

/-- A ring group on its ring (R61). -/
structure RingGroup where
  id : Nat
  cmd : CmdRef
  ctx : Nat
  index : Nat
  /-- scratchpad allocation in the ring (R167) -/
  base : Nat
  size : Nat
  cleared : Bool := false
  /-- troupes of the group that have not ended -/
  live : Nat
  /-- kernels are told apart by ENTRY_VA and KERNEL_ID (R62) -/
  kernel : Nat × Nat
deriving DecidableEq, Repr

/-- A ring (R20). -/
structure Ring where
  /-- the context whose troupes, slots and reduction ells it holds (R62) -/
  ctx : Option Nat := none
  /-- L1 size in units of 64 KiB of the resident kernels (R62) -/
  l1Units : Nat := 2
  groups : List RingGroup := []
  nextGroup : Nat := 0
  /-- scratchpad bytes (R167) -/
  scratch : Mem := []
  /-- booths 0 to 3 -/
  booths : FMap Booth := []
  /-- combiner queue, at most 32 troupe instructions (R60) -/
  combiner : List CombOp := []
  /-- scratchpad atomics formed and not performed -/
  satoms : List CombOp := []
  /-- DMA issue queue, at most 16 (R102) -/
  dmaq : List DmaReq := []
  /-- L1 lines at key set × 8 + way (R175) -/
  l1 : FMap L1Line := []
  /-- stream entries, at most 16 (R191) -/
  streams : List StreamEnt := []
  /-- weight-buffer slots 0 to 15 (R107) -/
  wslots : FMap WSlot := []
  /-- weight-load queue, at most 4 (R107) -/
  ldq : List Ldw := []
  /-- latch requests not yet served, in order of request: the MX.RUN by arrival number (R116) -/
  latchq : List Nat := []
  /-- arrival number of the next MX.LDW or MX.RUN (R115) -/
  nextSeq : Nat := 0
  loads : FMap LoadOp := []
  writes : FMap WriteOp := []
  allocs : FMap AllocOp := []
  nextOp : Nat := 0
  /-- scratchpad requests waiting, those refused in the previous a-cycle first (R128) -/
  sreqs : List ScratchReq := []
  /-- how many of them were refused in the previous a-cycle -/
  refused : Nat := 0
  /-- bytes read and written so far in this a-cycle (R128) -/
  rdUsed : Nat := 0
  wrUsed : Nat := 0
  /-- feeders and drain engines that the previous a-cycle refused and this one has not served, and those that this one refuses -/
  late : List PortClaim := []
  refusing : List PortClaim := []
  /-- what the weight port, the scratchpad atomics and DMA engines ask for and have not got, in order; and what the port has granted them -/
  claims : List PortClaim := []
  granted : List PortClaim := []
  /-- recency clock of L1 and stream entries -/
  tick : Nat := 0
  /-- slot or accumulator state of a Lost context is kept for the debugger (R62, R163) -/
  debug : Bool := false
deriving DecidableEq, Repr

end Sys2Proof.Machine
end

