-- ==== Sys2Proof/Machine/TentState.lean ====
section
/-!
DEFINITION. The state of a tent's memory side and of a memory channel (R179 to R203, R205 to R238). An ell key is the device ell
number of R212, or 2^50 + H for the host ell H of R185.
-/

namespace Sys2Proof.Machine

/-- A tent MMU's cached translation: context, page base, page size, and the leaf entry (R333). -/
structure TlbEnt where
  ctx : Nat
  base : Nat
  size : Nat
  leaf : W64
deriving DecidableEq, Repr

/-- One ell in a bushel frame, with the header copied into the frame's tag (R181, R183, R201). -/
structure EllCopy where
  ell : Nat
  /-- OWNER_IDX and KEY_GEN of the tag -/
  owner : Nat
  gen : Nat
  /-- plaintext of the grains present -/
  data : Mem := []
  /-- grains held -/
  present : W16 := 0
  dirty : W16 := 0
  dead : W16 := 0
  /-- grains known to be zero, no data of which is held -/
  zero : W16 := 0
  /-- FOLD of the header -/
  fold : Bool := false
  /-- grains with an INTEGRITY outcome, with the reason (R222) -/
  bad : FMap Nat := []
  /-- bytes of its form in the frame: 64 × STORED at the fill, 1,024 once written uncompressed (R181, R182) -/
  size : Nat := 1024
deriving DecidableEq, Repr

/-- The header of an ell (R214, words 0 to 2); the default is that of R233. -/
structure EllHeader where
  owner : Nat := 0
  gen : Nat := 0
  stored : Nat := 0
  form : Nat := 0
  wmap : Nat := 0
  fold : Bool := false
  zero : W16 := 0xFFFF
  dead : W16 := 0
deriving DecidableEq, Repr

/-- What becomes of a reduction ell (R201): it is pinned, or being added to its image by a fold or a release. -/
inductive RedSt where
  | pinned
  | folding
  | releasing
deriving DecidableEq, Repr

/-- A reduction ell (R195). -/
structure RedEll where
  ell : Nat
  ring : Nat
  ctx : Nat
  key : Nat
  gen : Nat
  /-- accumulator kind: W96, else FP32 -/
  w96 : Bool
  /-- FP32 accumulators by word, an absent one being +0 -/
  f32 : FMap W32 := []
  /-- W96 accumulators by element, an absent one being 0 -/
  acc : FMap AccEl := []
  st : RedSt := .pinned
deriving DecidableEq, Repr

/-- What a frame holds (R181); Free frames are absent. -/
inductive FrameKind where
  /-- one ell or an aligned pair -/
  | ells (l : List EllCopy)
  /-- reserved for a fetch of the ell (R201, Filling) -/
  | filling (ell : Nat)
  /-- the headers of local ells 16m to 16m + 15, an absent one being the default; those changed here, and those whose tag has been
  compared since they were read -/
  | header (m : Nat) (hdrs : FMap EllHeader) (changed checked : W16)
  | red (r : RedEll)
deriving DecidableEq, Repr

/-- A bushel frame; `used` is its recency. -/
structure Frame where
  kind : FrameKind
  used : Nat
deriving DecidableEq, Repr

/-! ### Requests -/

/-- Who waits for a write to be performed (R335, R344, R346, R351). -/
inductive WrWho where
  | none
  | ring (ring op : Nat)
  /-- the copy with its order on an engine, and the bytes of the copy that are written: the first and their number (R173, R174) -/
  | copy (tent engine order at_ n : Nat)
  | command (ref : CmdRef)
  /-- raise an MSI-X vector once performed, if one is named, on behalf of a command or of none -/
  | vector (v : Option Nat) (ref : Option CmdRef)
  /-- modified data that the host gave back in answer to a snoop (R355) -/
  | host
  /-- a WRITE or ATOMIC of another device, by its number among those being served (R283) -/
  | remote (id : Nat)
  /-- a CXL.mem write of the host, with the key slot and generation of its window; does the host keep a copy (R351, R355)? -/
  | mem (dpa : Nat) (keep : Bool) (key gen : Nat)
deriving DecidableEq, Repr

/-- Who reads grains at a home bushel or over the CXL port, other than a ring's loads (R187). What has come for a reader is kept for it
until it has all it needs. -/
inductive Asker where
  /-- a queue's fetch of the slot of a count (R317) -/
  | slot (queue : Nat) (count : W32)
  /-- a command of the barker -/
  | cmd (ref : CmdRef)
  /-- the instruction fetch of a troupe -/
  | code (ring uid : Nat)
  /-- a copy, by its order, on a tent's engine -/
  | copy (tent order : Nat)
  /-- a drain of a swing pair (R365) -/
  | drain (tent order ell : Nat)
  /-- an ALLOC of a ring, which reads page tables -/
  | alloc (ring op : Nat)
  /-- a collective, by its command and what of it is read -/
  | coll (ref : CmdRef) (part : Nat)
  /-- a remote request being served, by its source and tag (R283) -/
  | link (dom : Bool) (dev tag : Nat)
  /-- a page-table walk of a tent (R333) -/
  | walk (tent ctx page : Nat)
  /-- a CXL.mem read of the host, with the key slot and generation of its window (R234) -/
  | mem (dpa : Nat) (want : HostWant) (tag key gen : Nat)
  /-- a reader that is gone: what still comes for it is dropped -/
  | nobody
deriving DecidableEq, Repr

/-- How a load allocates in the bushel (R82, R191, R192): as usual, not at all for its hint, or not at all for a mark of the stream
detector. -/
inductive LoadAlloc where
  | frame
  | hint
  | stream
deriving DecidableEq, Repr

/-- What a request to a bushel bank asks (R189). -/
inductive ReqKind where
  /-- a grain for a load operation of a ring; .DEAD; how it allocates -/
  | load (op : Nat) (dead : Bool) (alloc : LoadAlloc)
  /-- a store of bytes (offset in the grain, byte), acknowledged to a write operation of the ring -/
  | store (op : Nat) (bytes : List (Nat × Byte)) (bypass : Bool)
  /-- a combined atomic -/
  | atom (c : CombOp)
  | redAdd (c : CombOp)
  | redFold (c : CombOp)
  /-- a fold of the ring's reduction ell waits for the image (R197, R203) -/
  | fold
  /-- a grain for a reader that is no ring (R187) -/
  | read (who : Asker)
  /-- a write by an agent that is no ring (R171, R351) -/
  | write (who : WrWho) (bytes : List (Nat × Byte))
  /-- an ATOMIC of another device, by its number among those being served, in the context of its window (R283, R376) -/
  | modify (id ctx source : Nat) (op : AtomOp) (type off : Nat) (entries : List (Nat × Nat))
  /-- the ell is to be written back and lacks grains that are to be stored again (R166, R202) -/
  | fill
deriving DecidableEq, Repr

/-- A request at a bushel bank: the requesting ring, context, key slot and generation, ell key and grain. Key `deviceKey` is that of the
structures that the device itself keeps. -/
structure BReq where
  ring : Nat
  ctx : Nat
  key : Nat
  gen : Nat
  ell : Nat
  grain : Nat
  kind : ReqKind
  /-- the place that its first arrival gave it among the misses, once it has waited or been refused (R188) -/
  place : Option Nat := none
deriving DecidableEq, Repr

/-- The queues of one bushel bank (R179, R187, R189). -/
structure BankQ where
  /-- request queue, at most 64 -/
  queue : List BReq := []
  /-- requests that have come over the mesh and find the queue full, in order -/
  coming : List BReq := []
  /-- overflow queue, at most 64 -/
  overflow : List BReq := []
deriving DecidableEq, Repr

/-- The frame of a set that is to be evicted, and the requests queued when it was chosen that hit it and are served first (R186, R203). -/
structure Chosen where
  frame : Nat
  hits : List BReq
deriving DecidableEq, Repr

/-- Progress of a miss register (R186, R187). -/
inductive MissSt where
  /-- waits for a read slot or an evictable frame -/
  | waiting
  /-- holds a read slot, its access queued at the DRAM bank -/
  | issued
  /-- the access has had its turn; these stored slots are still to come, or, as 16, the header. With none left, what is to be served next
  waits for the host or for a frame -/
  | returning (left : List Nat)
  /-- asked from host memory through the CXL port; these grains are still to come -/
  | host (left : List Nat)
deriving DecidableEq, Repr

/-- A miss register (R186). -/
structure MissReg where
  ell : Nat
  /-- the ell as it is being assembled -/
  copy : EllCopy
  st : MissSt := .waiting
  /-- the frame reserved, by key set × 16 + way -/
  frame : Option Nat := none
  /-- no frame is to be reserved (R192) -/
  bypass : Bool
  /-- order in which its first request arrived (R187, R188) -/
  order : Nat
  /-- waiter list (R186) -/
  waiters : List BReq
deriving DecidableEq, Repr

/-- A refused request, numbered in order of first arrival; only the order within its DRAM bank matters (R187). -/
structure Refused where
  bank : Nat
  num : Nat
  req : BReq
deriving DecidableEq, Repr

/-- A page-table walk in progress at a tent's MMU (R20, R333): the context, the 64 KiB page that it translates, and the grain of the tables
that it waits for. -/
structure Walk where
  ctx : Nat
  page : Nat
  grain : Nat
deriving DecidableEq, Repr

/-- The per-tent counters of R190. -/
structure TentCounters where
  overflowFull : W64 := 0
  refusedSends : W64 := 0
  merged : W64 := 0
  bypass : W64 := 0
  deadDrops : W64 := 0
  deadReads : W64 := 0
  folds : W64 := 0
  pairSplits : W64 := 0
  poisonedFolds : W64 := 0
deriving DecidableEq, Repr

/-- One address of a copy: scratchpad byte of a ring, physical device byte, host byte, or a remote window (R172, R282). -/
inductive CopyEnd where
  | va (a : Nat)
  | scratch (ring base size off : Nat)
  | remote (dev window : Nat) (off : Nat)
deriving DecidableEq, Repr

/-- A copy: queued at a tent or on an engine (R169 to R174). -/
structure CopyOp where
  ctx : Nat
  /-- the COPY command, or the dispatch of a DMA.Q -/
  cmd : CmdRef
  /-- a DMA.Q copy -/
  dmaq : Bool
  phase : Nat
  src : CopyEnd
  dst : CopyEnd
  len : Nat
  handle : W32
  inc : W64
  /-- bytes of the source read so far -/
  done : Nat := 0
  /-- parts failed (R174) -/
  failed : List Nat := []
  firstFail : Option Nat := none
  cause : Nat := 0
  /-- stopped by a page fault: later parts are failed -/
  stopped : Bool := false
  /-- context lost before the copy started (R341) -/
  lost : Bool := false
  /-- bytes read and not yet put at the destination: pieces of a destination grain or packet, with their offset in the copy (R171, R282) -/
  buf : List (Nat × List Byte) := []
  /-- writes still to be performed and remote requests not yet answered -/
  outstanding : Nat := 0
  /-- order for reclaim (R340) -/
  order : Nat
  /-- ring, PC and troupe of a DMA.Q (R105) -/
  ring : Nat := 255
  pc : Nat := 0
  org : Origin := {}
  /-- set by a swing FLIP: the pair it drains, ell by ell (R365) -/
  swing : Option Nat := none
deriving DecidableEq, Repr

/-- A STAT.W waiting at a weighmaster (R246): tag and the values. -/
structure StatReq where
  who : TroupeRef
  ctx : Nat
  /-- accept position of its dispatch -/
  accept : Nat
  tag : Nat
  fmt : Nat
  vals : List Nat
deriving DecidableEq, Repr

/-- A tent's memory side (R20). -/
structure Tent where
  /-- cached translations (R333) -/
  tlb : List TlbEnt := []
  /-- walks in progress, at most 16 (R20) -/
  walks : List Walk := []
  /-- frames at key set × 16 + way (R179) -/
  frames : FMap Frame := []
  /-- frames to be evicted, by set -/
  chosen : FMap Chosen := []
  /-- request queues of banks 0 to 31 -/
  banks : FMap BankQ := []
  /-- miss registers, at most 4,096 -/
  miss : FMap MissReg := []
  /-- refused requests waiting to be sent again (R187) -/
  refused : List Refused := []
  nextOrder : Nat := 0
  counters : TentCounters := {}
  /-- recency clock of the frames -/
  tick : Nat := 0
  /-- DMA engines 0 to 7 and their copies (R169) -/
  engines : FMap CopyOp := []
  /-- copies waiting for an engine -/
  copyq : List CopyOp := []
  /-- STAT.W queue of the weighmaster, at most 64 (R246) -/
  statq : List StatReq := []
  /-- f-cycle counter as last read, and the control period in which it began (R405) -/
  cycles : W64 := 0
  cyclesFrom : Nat := 0
deriving DecidableEq, Repr

/-! ### Memory channels -/

/-- What the module holds of one ell (R213 to R216, R224 to R227): its header with the header tag, where the device has written one, and the
ciphertext and tags of its stored slots. An absent ell has the default header. -/
structure DramEll where
  hdr : EllHeader := {}
  hdrTag : Option Nat := none
  /-- ciphertext of slot s at 64 s -/
  cipher : Mem := []
  /-- the two tag grains, of subchannel A at 0 and of B at 64 -/
  tags : Mem := []
  /-- grains with an INTEGRITY outcome, with the reason (R222) -/
  bad : FMap Nat := []
deriving DecidableEq, Repr

/-- Training state of a channel or a link step (R237). -/
inductive TrainSt where
  | untrained
  | training (step : Nat)
  | trained
  | failed (step : Nat)
deriving DecidableEq, Repr

/-- Counters of a channel (R190, R238). -/
structure ChanCounters where
  bankAtCap : W64 := 0
  banksAtCapPeak : Nat := 0
  missCapEvents : W64 := 0
  grainsRead : W64 := 0
  grainsWritten : W64 := 0
  openRow : W64 := 0
  closedRow : W64 := 0
  otherRow : W64 := 0
  /-- corrected symbols by position rank × 20 + subchannel × 10 + symbol -/
  corrected : FMap Nat := []
  erasuresMarked : W64 := 0
  erasuresRefused : W64 := 0
  badData : W64 := 0
  badTag : W64 := 0
  badHeader : W64 := 0
  tagMismatch : W64 := 0
  headerMismatch : W64 := 0
  foreignReads : W64 := 0
  takeovers : W64 := 0
  refreshBlocked : W64 := 0
  throttled : W64 := 0
  sparesUsed : FMap Nat := []
  /-- write-backs by STORED -/
  storedForm : FMap Nat := []
deriving DecidableEq, Repr

/-- A row of one DRAM bank and subchannel. -/
structure RowId where
  bank : Nat
  sub : Nat
  row : Nat
deriving DecidableEq, Repr

/-- A memory channel (R205 to R238). -/
structure Chan where
  train : TrainSt := .untrained
  /-- serial number and properties of the module, as its SPD declares them (R205, R233) -/
  serial : Nat := 0
  spd : Option Spd := none
  /-- erased symbol by rank × 2 + subchannel (R221) -/
  erasures : FMap Nat := []
  /-- corrections in the 24 hour buckets, by position (R221): newest bucket first -/
  buckets : FMap (List Nat) := []
  /-- corrections of rows in the 24 hour buckets, newest first (R223) -/
  rowCorr : List (RowId × List Nat) := []
  /-- rows with an uncorrectable beat (R223) -/
  rowBad : List RowId := []
  /-- rows remapped to spare rows 0 to 63, the later remap of a row last (R223) -/
  remaps : List (RowId × Nat) := []
  /-- rows whose remap copy is in progress -/
  remapping : List RowId := []
  /-- DRAM banks without a spare row left -/
  noSpare : List Nat := []
  /-- module sensor, in millidegree Celsius (R235) -/
  milliC : Int := 25000
  /-- limited to 2 activations per 100 ns (R235) -/
  throttle : Bool := false
  /-- open row by DRAM bank -/
  rowOpen : FMap Nat := []
  /-- reads queued at a DRAM bank: the miss registers, in slot order (R187) -/
  reads : FMap (List Nat) := []
  /-- write-backs waiting for a batch: ells (R210) -/
  writes : List Nat := []
  /-- the last turn of the data bus was a batch of writes (R210) -/
  wrote : Bool := false
  /-- banks that have taken a turn in the current rotation (R210) -/
  taken : List Nat := []
  /-- banks at cap now -/
  counters : ChanCounters := {}
  /-- this channel's erasures and remaps in the NV store -/
  nvSerial : Option Nat := none
deriving DecidableEq, Repr

end Sys2Proof.Machine
end

