-- ==== Sys2Proof/Machine/HostState.lean ====
section
/-!
DEFINITION. The state of contexts, queues, commands, turnstiles, objects, key slots, windows, the event ring, the host-caching filter,
the step journal and replay (R229 to R232, R246 to R253, R308 to R343, R355, R362 to R381).
-/

namespace Sys2Proof.Machine

/-! ### Faults and contexts -/

/-- A fault record (R334, TYPE 0x01). -/
structure FaultRec where
  code : Nat
  reason : Nat := 0
  ctx : Nat
  ring : Nat := 255
  kernelId : Nat := 0
  pc : Nat := 0
  pcB : Nat := 0
  group : Nat := 0
  troupe : Nat := 0
  detail : W64 := 0
  queue : Nat := 0
  accept : Nat := 0
deriving DecidableEq, Repr

/-- A handle-table entry (R336). -/
structure Handle where
  remote : Bool
  wait : Bool
  signal : Bool
  turn : Nat
  dev : Nat := 0
deriving DecidableEq, Repr

/-- Granules of 64 KiB as runs (first granule = DPA / 65,536, count), in rising order. -/
abbrev Runs := List (Nat × Nat)

/-- An allocator pool (R339): its arena, its free granules. -/
structure Pool where
  base : Nat
  len : Nat
  free : Runs
deriving DecidableEq, Repr

/-- Per-phase counters of R343. -/
structure PhaseCount where
  slots : Nat := 0
  rows : Nat := 0
  linkBytes : Nat := 0
  copyBytes : Nat := 0
deriving DecidableEq, Repr

/-- A weighmaster entry of one tag on one tent (R248). -/
structure TagEnt where
  samples : Nat := 0
  nonfinite : Nat := 0
  zero : Nat := 0
  /-- largest finite magnitude, as an FP32 encoding -/
  absmax : W32 := 0
  /-- bins 0 to 31; absent bins are 0 -/
  hist : FMap Nat := []
deriving DecidableEq, Repr

/-- A swing pair (R362): buffers A and B, and the drain in progress. -/
structure SwingPair where
  a : Nat
  b : Nat
  len : Nat
  /-- FLIP in progress: its command, the buffer, parts still running, started at period -/
  drain : Option CmdRef := none
  buf : Bool := false
  started : Nat := 0
  /-- the trailer: 0 not written; 1 its bytes but word 3 sent; 2 word 3 sent -/
  stage : Nat := 0
deriving DecidableEq, Repr

/-- Life of a context (R332); a Free context has no entry. -/
inductive CtxSt where
  | live | lost | tearing
deriving DecidableEq, Repr

/-- A context (R331). -/
structure Ctx where
  st : CtxSt := .live
  keySlot : Nat
  ptRoot : Nat
  nfTrap : Bool := false
  deadFault : Bool := false
  driverMap : Bool := false
  tagCount : Nat := 0
  tagCfgVa : Nat := 0
  tagRecVa : Nat := 0
  tagDecVa : Nat := 0
  /-- step number and seed (R159, R253) -/
  step : W64 := 0
  seed : W64 := 0
  /-- dispatches accepted in the step (R159) -/
  dispatches : Nat := 0
  /-- accept positions used (R319) -/
  accepts : Nat := 0
  /-- sticky non-finite and DEAD_READ flags (R162, R194) -/
  nf : Bool := false
  deadRead : Bool := false
  /-- step non-finite flag and skip state (R254) -/
  stepNf : Bool := false
  skip : Bool := false
  /-- saturation count (R156), skipped steps (R253), out-of-range samples (R248), failed remote signals (R286) -/
  satCount : W64 := 0
  skipped : W64 := 0
  outOfRange : W64 := 0
  remoteFails : W64 := 0
  fault : Option FaultRec := none
  handles : FMap Handle := []
  pools : FMap Pool := []
  /-- phases 0 to 4 (R258) -/
  phases : FMap PhaseCount := []
  /-- weighmaster entries at key tag × 8 + tent, and e_ref by tag (R248) -/
  tags : FMap TagEnt := []
  eref : FMap Int := []
  /-- values of dispatches accepted after a step boundary in progress: tent and values (R260) -/
  later : List (Nat × StatReq) := []
  swings : FMap SwingPair := []
  /-- the step is journalled (R374) -/
  journal : Bool := false
  /-- replay armed for the next step boundary (R380) -/
  armed : Option Nat := none
deriving DecidableEq, Repr

/-! ### Queues and commands -/

/-- A place in host memory or at a DPA. -/
structure Place where
  host : Bool
  addr : Nat
deriving DecidableEq, Repr

/-- A command that the barker has fetched and not started: its count, the words of its slot and what a DISPATCH names besides, read once
(R66), and the address at which that reading found no translation. -/
structure FetchedCmd where
  count : W32
  words : List W64
  bad : Option Nat := none
deriving DecidableEq, Repr

/-- A hardware queue (R316); a queue that is not enabled has no entry. -/
structure Queue where
  admin : Bool
  ctx : Nat
  log2 : Nat
  ring : Place
  cq : Place
  shadow : Option Place
  /-- commands fetched -/
  head : W32 := 0
  /-- a doorbell tail whose slots could not be read yet, because a host read or a snoop is outstanding -/
  tail : Option W32 := none
  /-- fetched and not started, in count order -/
  fetched : List FetchedCmd := []
  /-- halted by WAIT with HALT or by QUEUE_OVERRUN of an admin queue -/
  halted : Bool := false
  /-- stopped by QUEUE_OVERRUN or by its context's loss -/
  stopped : Bool := false
  /-- QUEUE_DESTROY waits for its commands -/
  destroying : Bool := false
deriving DecidableEq, Repr

/-- The fields of a kernel descriptor (R65). -/
structure Desc where
  va : Nat
  entry : Nat
  argVa : Nat
  kernelId : Nat
  width : Nat
  regs : Nat
  troupes : Nat
  l1 : Nat
  scratch : Nat
  accUnits : Nat
  argWords : Nat
  groupsMax : Nat
deriving DecidableEq, Repr

/-- A DISPATCH in progress (R322, R323). -/
structure DispatchSt where
  desc : Desc
  args : List W32
  groups : Nat
  /-- ring groups not yet placed, by index -/
  next : Nat := 0
  /-- fixed placement: group indexes not placed, when out of order -/
  placedOut : List Nat := []
  /-- ring groups placed and not ended -/
  live : Nat := 0
  rings : List Nat
  fixed : Bool
  seed : W64
  /-- rings with dirty .L lines still to be written back (R178) -/
  unplaced : Bool := false
  /-- rings of each placed group, in order (R377) -/
  places : List (Nat × Nat) := []
deriving DecidableEq, Repr

/-- Progress of a started command. -/
inductive CmdSt where
  /-- accepted; its own row has not run -/
  | accepted
  /-- its row has run and it has not finished -/
  | running
  /-- finished: the steps of R348 remain -/
  | finished
  /-- the completion record (or the mirror) is being written to host memory -/
  | recording (phase : Nat)
deriving DecidableEq, Repr

/-- A command taken by the barker (R318 to R328). -/
structure Cmd where
  ctx : Option Nat
  words : List W64
  accept : Nat := 0
  /-- its place among all commands and copies (R340) -/
  order : Nat
  st : CmdSt := .accepted
  status : Nat := 0
  resource : Nat := 0
  skipped : Bool := false
  errSeen : Bool := false
  partMap : W64 := 0
  firstFail : W64 := 0xFFFFFFFFFFFFFFFF
  pred : Bool := false
  cause : Nat := 0
  /-- turnstile handle and increment, and whether its error bit is set with the signal -/
  handle : W32 := 0xFFFFFFFF
  inc : W64 := 0
  err : Bool := false
  dispatch : Option DispatchSt := none
  /-- copies and writes of the command still outstanding -/
  outstanding : Nat := 0
  /-- event records due after completion (R348 step 6) -/
  halt : Bool := false
deriving DecidableEq, Repr

/-- A turnstile (R335). -/
structure Turn where
  owner : Nat
  count : W64
  err : Bool := false
  /-- mirror and vector -/
  mirror : Option Place
  vector : Nat
  /-- exports: `none` every device of the domain (R321) -/
  exports : List (Option Nat) := []
deriving DecidableEq, Repr

/-! ### Memory objects and windows -/

/-- A memory object (R338). -/
structure Obj where
  /-- its granules -/
  runs : Runs
  key : Nat
  /-- the context charged -/
  ctx : Nat
  /-- made by ALLOC: pool, virtual address -/
  alloc : Option (Nat × Nat) := none
  /-- made by ALLOC: DPAs of its level-0 page-table entries -/
  ptes : List Nat := []
  /-- handle references, the one of ALLOC among them while `ownHandle` -/
  handles : Nat := 1
  ownHandle : Bool := false
  /-- contexts that hold a mapping reference -/
  mappings : List Nat := []
  /-- ALLOC's own mapping reference still stands; it is not counted for reclaim -/
  ownMapping : Bool := false
  windows : Nat := 0
  /-- contexts that have mapped it (R340) -/
  mapped : List Nat := []
  /-- order of the last drop, once the count is 0 -/
  dropped : Option Nat := none
deriving DecidableEq, Repr

/-- A remote window (R281). -/
structure Window where
  ctx : Nat
  base : Nat
  len : Nat
  read : Bool
  write : Bool
  atomic : Bool
  /-- `none`: every device of the domain -/
  source : Option Nat
  /-- objects it holds a reference on -/
  objs : List Nat := []
deriving DecidableEq, Repr

/-- A host window (R309). -/
structure HostWindow where
  base : Nat
  len : Nat
  key : Nat
  readOnly : Bool
deriving DecidableEq, Repr

/-- Life of a key slot (R231). -/
inductive KeySt where
  | free | live | condemned | retired
deriving DecidableEq, Repr

/-- A key slot (R224, R229, R232). -/
structure KeySlot where
  st : KeySt := .free
  gen : Nat
  ceiling : Nat
  k1 : W128 := 0
  k2 : W128 := 0
  k3 : W128 := 0
  /-- its context has been torn down while objects remain; waits for host snoops before it is freed (R357) -/
  freeing : Bool := false
deriving DecidableEq, Repr

/-! ### The host port -/

/-- An entry of the host-caching filter (R355). -/
structure FilterEnt where
  grain : Nat
  key : Nat
  gen : Nat
  exclusive : Bool
deriving DecidableEq, Repr

/-- A back-invalidate snoop outstanding (R355): grain, BISnpInv or BISnpData. -/
structure Snoop where
  grain : Nat
  inv : Bool
deriving DecidableEq, Repr

/-- A device-side write to host memory that the host has not completed (R344), or modified data of a device grain that the host has given
back and that could not be written at once (R355), with the key slot and generation it is written under. `grain` is a grain key. -/
structure HostWr where
  grain : Nat
  bytes : List (Nat × Byte)
  who : WrWho
  own : Option (Nat × Nat) := none
deriving DecidableEq, Repr

/-- A RdCurr that the host has not answered (R308): its grain key, and the reader that it is for, or none for a fill of the bushel. -/
structure HostRd where
  grain : Nat
  who : Option Asker
deriving DecidableEq, Repr

/-- What one grain read gives (R194, R222, R230). -/
inductive GrainRead where
  | ok (bytes : List Byte)
  /-- dead and not held: zeros -/
  | dead
  /-- INTEGRITY with its reason -/
  | bad (reason : Nat)
deriving DecidableEq, Repr

/-- A grain that has come for a reader which waits for more (R354). -/
structure Answer where
  who : Asker
  grain : Nat
  read : GrainRead
deriving DecidableEq, Repr

/-! ### The step journal and replay -/

/-- A run entry (R376). -/
structure RunEnt where
  w0 : W64
  w1 : W64
deriving DecidableEq, Repr

/-- The open run of one unit and ell (R376). -/
structure OpenRun where
  kind : Nat
  w0 : W64
  source : W64
  len : Nat
deriving DecidableEq, Repr

/-- A command entry (R377). -/
structure JrnCmd where
  accept : Nat
  queue : Nat
  opcode : Nat
  kernelId : Nat
  slots : Nat
  /-- device ring of each ring group, by its index, under free placement; the value for a group that is never placed is free -/
  rings : List Nat
deriving DecidableEq, Repr

/-- A collective order record (R377). -/
structure JrnColl where
  seq : Nat
  key : Nat
  seg : Nat
  size : Nat
  tent : Nat
  /-- rank of the k-th contribution to finish -/
  ranks : List Nat
deriving DecidableEq, Repr

/-- A journalled step (R377). -/
structure JrnStep where
  ctx : Nat
  step : W64
  seed : W64
  /-- FMT, SCALE and E_REF of each tag at its start -/
  tags : List (Nat × Nat × Nat)
  cmds : List JrnCmd := []
  runs : List RunEnt := []
  open_ : List OpenRun := []
  colls : List JrnColl := []
  /-- weighmaster records written at the step's end, as bytes -/
  records : List Byte := []
  complete : Bool := false
  oversize : Bool := false
  /-- its context is gone, so that nothing more is recorded in it (R384) -/
  closed : Bool := false
deriving DecidableEq, Repr

/-- A replay in progress (R381): what of the step is still to come. -/
structure Replay where
  ctx : Nat
  step : W64
  cmds : List JrnCmd
  /-- recorded entries of the commands accepted, by their accept position now -/
  taken : FMap JrnCmd := []
  runs : List RunEnt
  /-- addresses of run entries already satisfied, with their kind -/
  served : List W64 := []
  colls : List JrnColl
  records : List Byte
  /-- first divergence: kind and accept position -/
  diverged : Option (Nat × Nat) := none
deriving DecidableEq, Repr

/-- Event ring registers and queue (R313, R334). -/
structure EventRing where
  base : W64 := 0
  size : W64 := 0
  head : W64 := 0
  written : W32 := 0
  overflow : Bool := false
  lost : Nat := 0
  /-- records held while the ring is full, at most 64, as eight words -/
  held : List (List W64) := []
  /-- sequence number of the next record -/
  seq : W64 := 0
deriving DecidableEq, Repr

/-- An entry of the MSI-X table (R312). PCIe masks every entry at reset (PRESUMED). -/
structure MsixEnt where
  addr : W64 := 0
  data : W32 := 0
  masked : Bool := true
deriving DecidableEq, Repr

/-- Registers of queue 0 (R313). -/
structure AdmRegs where
  ring : W64 := 0
  cq : W64 := 0
  cfg : W64 := 0
deriving DecidableEq, Repr

/-- A host access that waits for a snoop, a fetch in progress or a frame (R203, R311, R361). -/
inductive HostReq where
  | read (dpa : Nat) (want : HostWant) (tag : Nat)
  | write (dpa : Nat) (bytes : List (Nat × Byte)) (keep : Bool)
deriving DecidableEq, Repr

/-- A drain bit (R362): the context and swing pair, the offset of the ell in the buffer, and the key slot of its page. -/
structure DrainBit where
  ctx : Nat
  pair : Nat
  off : Nat
  key : Nat
deriving DecidableEq, Repr

/-- Everything of the host side and the barker. -/
structure Hub where
  /-- contexts 0 to 1,023; a Free one has no entry -/
  ctxs : FMap Ctx := []
  queues : FMap Queue := []
  /-- the queue at which the barker's next round of turns begins (R318) -/
  turn : Nat := 0
  /-- commands not yet complete, at key queue × 2^32 + count -/
  cmds : FMap Cmd := []
  /-- order counter of commands and copies (R340) -/
  order : Nat := 0
  turns : FMap Turn := []
  objs : FMap Obj := []
  windows : FMap Window := []
  hostWindows : FMap HostWindow := []
  keySlots : FMap KeySlot := []
  /-- generation and ceiling of a key slot that has no entry (R232) -/
  slotGen : Nat := 1
  slotCeil : Nat := 1025
  /-- host-caching filter, oldest first, at most 1,048,576 (R311) -/
  filter : List FilterEnt := []
  snoops : List Snoop := []
  /-- what the port last received from or wrote to host memory, by host byte address -/
  hostMem : Mem := []
  /-- RdCurr requests not yet answered, oldest first -/
  hostReads : List HostRd := []
  /-- grains that have come for readers which wait for more -/
  answers : List Answer := []
  /-- writes to host memory not yet performed, and modified data of the host to be written, oldest first -/
  hostWrites : List HostWr := []
  /-- host accesses that wait, in order of arrival -/
  hostReqs : List HostReq := []
  evq : EventRing := {}
  adm : AdmRegs := {}
  /-- MSI-X table of 2,048 vectors, and its pending bits that are set (R312) -/
  msix : FMap MsixEnt := []
  msixPending : List Nat := []
  /-- CTX_TEARDOWN commands that wait for step 7, with their context -/
  teardowns : List (CmdRef × Nat) := []
  /-- doorbells ignored (R317, R446) and host accesses refused (R309) -/
  doorbellsIgnored : Nat := 0
  hostRefused : Nat := 0
  /-- journal of steps, oldest first (R378) -/
  journal : List JrnStep := []
  /-- replays in progress, at key context × 2, and × 2 + 1 for the step that a pending STEP_BOUNDARY opens (R381) -/
  replays : FMap Replay := []
  replayStatus : W32 := 0
  /-- ells with their drain bit set (R362) -/
  drainMap : FMap DrainBit := []
  /-- ells moved to the front of the drain order by a waiting access (R366) -/
  drainFront : List Nat := []
deriving DecidableEq, Repr

end Sys2Proof.Machine
end

