-- ==== Sys2Proof/Machine/LinkState.lean ====
section
/-!
DEFINITION. The state of links, routes, remote requests and collectives (R261 to R306).
-/

namespace Sys2Proof.Machine

/-- State of a link (R264). -/
inductive LinkSt where
  | down
  | training (step : Nat)
  | up
  | failed
deriving DecidableEq, Repr

/-- Counters of a link (R306). -/
structure LinkCounters where
  sent : FMap Nat := []
  received : FMap Nat := []
  fecCorrected : W64 := 0
  uncorrectable : W64 := 0
  crcErrors : W64 := 0
  retries : W64 := 0
  retrains : W64 := 0
  trainFailures : W64 := 0
  /-- flits of unknown FTYPE discarded -/
  unknown : W64 := 0
  /-- by virtual channel: l-cycles without credit, bytes sent, bytes received -/
  noCredit : FMap Nat := []
  bytesSent : FMap Nat := []
  bytesReceived : FMap Nat := []
deriving DecidableEq, Repr

/-- One link (R261 to R271). -/
structure Link where
  st : LinkSt := .down
  enabled : Bool := true
  /-- failed attempts in a row (R264) -/
  attempts : Nat := 0
  /-- neighbour of the last IDENT: device id, domain, link number -/
  peer : Option (Nat × Bool × Nat) := none
  /-- the neighbour before the present training (R269) -/
  lastPeer : Option (Nat × Bool × Nat) := none
  crossDomain : Bool := false
  swapped : Bool := false
  polarity : BitVec 2 := 0
  /-- next SEQ to use, and sent DATA flits not acknowledged, at most 512 (R268) -/
  txSeq : BitVec 12 := 0
  retry : List Flit := []
  /-- flits of the retry buffer to be sent again -/
  resend : List Flit := []
  /-- retries in a row of the oldest flit -/
  retryCount : Nat := 0
  /-- SEQ of the last DATA flit received in order, and whether later DATA flits are being discarded -/
  rxLast : BitVec 12 := 0xFFF
  rxBad : Bool := false
  /-- a RETRY_REQ is due -/
  retryDue : Bool := false
  /-- credits held per virtual channel (R270) -/
  credits : FMap Nat := []
  /-- receive buffer freed and not yet returned, per virtual channel -/
  freed : FMap Nat := []
  /-- bytes of the packet being received, per virtual channel, and its flits -/
  partial_ : FMap (List Byte × Nat) := []
  /-- whole packets waiting at the input, per virtual channel -/
  inq : FMap (List Packet) := []
  /-- packets queued for this output, per virtual channel -/
  outq : FMap (List Packet) := []
  /-- packets of this device that wait until the output queue has room for them, per virtual channel (R270) -/
  waitq : FMap (List Packet) := []
  /-- flits of the packet being sent, in order -/
  sending : List Flit := []
  /-- deficit of virtual channels 0 and 2 (R271), and which of them is next -/
  deficit : FMap Int := []
  drrNext : Nat := 2
  counters : LinkCounters := {}
deriving DecidableEq, Repr

/-- A WRITE or ATOMIC of another device whose writes are not all performed: the request, the STATUS and the values of its response
(R283). -/
structure Serve where
  pkt : Packet
  status : Nat
  payload : List Byte
deriving DecidableEq, Repr

/-- Who issued a remote request (R286). -/
inductive ReqWho where
  | copyRead (tent engine : Nat) (at_ len : Nat)
  | copyWrite (tent engine : Nat) (at_ len : Nat)
  | atom (ring : Nat) (op : CombOp)
  /-- a write of a command itself: a swing trailer -/
  | command (ref : CmdRef)
  /-- the context, and the phase that its link bytes count in (R343) -/
  | turnSig (ctx : Nat) (phase : Option Nat)
deriving DecidableEq, Repr

/-- An outstanding remote request (R285). -/
structure RemoteReq where
  dev : Nat
  who : ReqWho
  /-- it has failed already, with this STATUS, and its issuer has still to take that -/
  fail : Option Nat := none
deriving DecidableEq, Repr

/-- A move of a carousel's table (R299): destination rank and offset, source, length. -/
structure Move where
  rank : Nat
  off : Nat
  src : Nat
  len : Nat
deriving DecidableEq, Repr

/-- The state of a carousel at this member (R299). -/
structure Carousel where
  table : List Move
  /-- present round, and bytes of the table's moves sent so far -/
  round : Nat := 0
  sent : Nat := 0
  /-- the round-end segment of the present round has been sent -/
  ended : Bool := false
  /-- rounds granted, by rank -/
  grants : FMap Nat := []
  /-- round-end packets received for the present round and later ones, at key round × 4,096 + rank -/
  ends : FMap Nat := []
  /-- ranks that have ended a round with the word that no data follow -/
  last : List Nat := []
  /-- staged data, in order of arrival: region offset, bytes, STATUS -/
  stage : List (Nat × List Byte × Nat) := []
  stageBytes : Nat := 0
  /-- ranges of the region whose data failed: offset and length -/
  fails : List (Nat × Nat) := []
deriving DecidableEq, Repr

/-- A collective in progress at this member (R289 to R302). Streams are named rank × 4 + KIND, segments stream × 2^32 + SEG, packets
segment × 16 + packet number. -/
structure Coll where
  ref : CmdRef
  ctx : Nat
  /-- the command's words (R291) -/
  words : List W64
  /-- group: GROUP_KEY, device id and domain of each rank, own rank (R290) -/
  key : Nat
  members : List (Nat × Bool)
  my : Nat
  /-- COLL_SEQ (R295) -/
  seq : Nat
  /-- segments sent on each stream -/
  sent : FMap Nat := []
  /-- segments each rank has granted to this member, and this member to each rank -/
  grantsIn : FMap Nat := []
  grantsOut : FMap Nat := []
  /-- packets received, own contributions among them, and the order in which they came -/
  recv : FMap (List Byte) := []
  stamp : FMap Nat := []
  tick : Nat := 1
  /-- segments that came with a STATUS -/
  bad : FMap Nat := []
  /-- segments received and used -/
  used : List Nat := []
  /-- segments of the own shard reduced: bytes, and STATUS -/
  results : FMap (List Byte × Nat) := []
  /-- ranges of the destination that hold their final value, and ranges made indeterminate at an early end -/
  final : Runs := []
  wiped : Runs := []
  carousel : Option Carousel := none
  /-- STATUS of the first failure, 0 while none; whether that ended the collective at once -/
  cause : Nat := 0
  ended : Bool := false
deriving DecidableEq, Repr

/-- Device counters of R306. -/
structure NetCounters where
  malformed : W64 := 0
  excluded : W64 := 0
  undeliverable : W64 := 0
  hopsOut : W64 := 0
  late : W64 := 0
  crossDomain : W64 := 0
  /-- remote requests failed, by STATUS -/
  failedBy : FMap Nat := []
  collsDone : W64 := 0
  /-- collectives ended PARTIAL, by cause -/
  collsPartial : FMap Nat := []
  /-- by tent -/
  segsReduced : FMap Nat := []
  orderedWait : FMap Nat := []
deriving DecidableEq, Repr

/-- Links, routes, remote traffic and collectives. -/
structure Net where
  links : FMap Link := []
  /-- flits that each mesh stop holds of each class, at key stop × 3 + class (R27) -/
  mesh : FMap Nat := []
  /-- failures in a row of the flit at the head of each mesh link and direction, at key link × 2 + direction, and retries of each link (R28) -/
  meshRetries : FMap Nat := []
  meshRetryCount : FMap Nat := []
  /-- device id and domain (R272) -/
  ownId : Nat := 0
  ownDom : Bool := false
  /-- route table by device id; an absent entry is 0 (R276) -/
  routes : FMap W32 := []
  /-- excluded device ids (R278) -/
  excluded : List Nat := []
  nextTag : W16 := 0
  outstanding : FMap RemoteReq := []
  /-- packets delivered to this device, oldest first -/
  delivered : List Packet := []
  /-- remote writes and atomics not yet answered, by number, and the next number -/
  serving : FMap Serve := []
  nextServe : Nat := 0
  /-- collectives in progress, in start order, and COLL_SEQ of the next one of each group key -/
  colls : List Coll := []
  collSeq : FMap Nat := []
  /-- COLL_SEG grants and round ends kept for collectives not yet started (R307) -/
  early : List Packet := []
  counters : NetCounters := {}
  /-- echo target and result (R288) -/
  echoTarget : Nat := 0
  echoTag : Option W16 := none
  echoResult : W32 := 0
deriving DecidableEq, Repr

end Sys2Proof.Machine
end

