-- ==== Sys2Proof/Machine/PowerState.lean ====
section
/-!
DEFINITION. The state of the always-on domain: steelyard, clocks, islands, ageing, NV store, boot, identity, dictionary sessions, board
inputs and the thermal trip (R385 to R480), and what the block sends out.
-/

namespace Sys2Proof.Machine

/-! ### Power -/

/-- Energy totals of a context (R403), in microwatt samples of 160 ns, and periods. -/
structure CtxEnergy where
  excl : Nat := 0
  shared : Nat := 0
  exclPeriods : Nat := 0
  sharedPeriods : Nat := 0
deriving DecidableEq, Repr

/-- The steelyard (R385 to R403). -/
structure Steelyard where
  /-- bubble level in force, by tent (R390); an absent entry is 0 -/
  level : FMap Nat := []
  /-- cap_level and thermal floor by tent (R391) -/
  capLevel : FMap Nat := []
  thermal : FMap Nat := []
  /-- consecutive periods at cap_level 56 over budget, by tent, and consecutive periods with every tent at or under budget -/
  overCount : FMap Nat := []
  underCount : Nat := 0
  unattainable : Bool := false
  /-- CAP_W as stored, and the period of its last write (R392) -/
  capW : W32 := 0x44FA0000
  capWritten : Nat := 0
  lapsed : Bool := false
  effective : Rat := 2000
  /-- fractions in force (R394) -/
  fracs : List Nat := [32, 32, 32, 32, 32, 32, 32, 32]
  /-- learned D in watt at key tent × 5 + phase (R395) -/
  learned : FMap Rat := []
  /-- booth issue slots of this period given to troupes, at key tent × 5 + phase, and all of them by tent (R395) -/
  mix : FMap Nat := []
  slots : FMap Nat := []
  /-- sums of the samples of this period by rail, in microwatt, and their number (R400) -/
  sums : List Nat := []
  samples : Nat := 0
  /-- rail powers of the period that ended, in watt, in the order of R385 -/
  power : List Rat := []
  /-- energy since power-up, in microwatt samples -/
  energy : Nat := 0
  /-- energy and periods of the second in progress, and power of the last whole second -/
  secEnergy : Nat := 0
  secPeriods : Nat := 0
  power1s : Rat := 0
  /-- contexts that have held the device in this period (R401) -/
  holders : List Nat := []
  /-- the open interval: holders, its energy and periods, METER_OK throughout -/
  ivHolders : List Nat := []
  ivEnergy : Nat := 0
  ivPeriods : Nat := 0
  ivMeterOk : Bool := true
  /-- energy at the end of the last period -/
  lastEnergy : Nat := 0
  /-- METER_OK at the start of this period -/
  meterStart : Bool := false
  ivSeq : W64 := 0
  /-- energy log counts (R402) -/
  elogTail : W32 := 0
  elogLost : W32 := 0
  totals : FMap CtxEnergy := []
  /-- droop bursts in progress and counted, by tent (R389) -/
  droop : List Nat := []
  droops : FMap Nat := []
  /-- junctions of tents 0 to 7 and the hub, in millidegree Celsius (R398) -/
  junction : List Int := []
deriving DecidableEq, Repr

/-- State of a ring island (R410). -/
inductive IslandSt where
  | active | stopped | gated
deriving DecidableEq, Repr

/-- A tent's island, target voltage and margin (R387, R388, R410 to R415). -/
structure Island where
  st : IslandSt := .gated
  waking : Bool := false
  /-- fenced (R415, R459) -/
  fenced : Bool := false
  /-- control period at which the island became idle -/
  idleSince : Option Nat := none
  wakes : W64 := 0
  /-- voltage the regulator last reported, the one it was last told, the goal, in mV, and a step sent and not yet reported (R387) -/
  confirmed : Nat := 750
  mv : Nat := 750
  goal : Nat := 750
  stepping : Bool := false
  /-- the regulator does not answer (R479) -/
  dead : Bool := false
  /-- a re-plan has raised the goal and the regulator has not reported it yet (R414, R479) -/
  raised : Bool := false
  /-- voltage table: V_TEST in mV, P_STATIC in milliwatt, oscillator frequencies at test (R388, R412) -/
  vTest : Nat := 0
  pStatic : Nat := 0
  fTest : List Nat := []
  /-- margin record word, SLACK_PS at its default 1,023 (R413) -/
  margin : W64 := 0xFFC00
  /-- fenced because a raised target could not be applied (R479): only a new voltage table lifts it (R415) -/
  stuck : Bool := false
  /-- control period of the last ageing measurement since the start from ROM (R412) -/
  measured : Option Nat := none
deriving DecidableEq, Repr

/-- Clocks (R404, R406). -/
structure Clocks where
  /-- REFCLK has been stable once since power-up -/
  refStable : Bool := false
  refLost : Bool := false
  /-- active source: 0 REFCLK; 1 link; 2 CXL -/
  active : Nat := 0
  holdover : Bool := false
  fallbacks : W32 := 0
  /-- the root PLL is locked -/
  rootLocked : Bool := false
  /-- every clock but the always-on clock stopped by a thermal trip (R472) -/
  stopped : Bool := false
deriving DecidableEq, Repr

/-! ### The NV store -/

/-- Per-channel part of set 6. -/
structure NvChan where
  serial : Option Nat := none
  erasures : FMap Nat := []
  remaps : List (RowId × Nat) := []
deriving DecidableEq, Repr

/-- What set 4 holds (R453): PUF helper data, the sealed block with its nonce, the identity public key, the device certificate and its
chain. -/
structure SealedId where
  helper : List Byte
  nonce : List Byte
  block : List Byte
  pub : List Byte
  cert : List Byte := []
  chain : List Byte := []
deriving DecidableEq, Repr

/-- The identity in the security engine (R453, R454): K_PUF, device secret, identity private key and OPERATOR_KEY as unsealed, and what set 4
holds in the open. -/
structure Identity where
  kPuf : BitVec 256
  ds : List Byte
  priv : List Byte
  operatorKey : Option (List Byte) := none
  helper : List Byte := []
  pub : List Byte
  cert : List Byte := []
  chain : List Byte := []
deriving DecidableEq, Repr

/-- One tent of the voltage table: V_TEST in mV, P_STATIC in milliwatt, and the frequencies of its 16 oscillators at test (R388, R412). -/
structure TestedTent where
  vTest : Nat
  pStatic : Nat
  fTest : List Nat
deriving DecidableEq, Repr

/-- Content of a record set (R433). -/
inductive NvContent where
  /-- sets 0 and 5: the bytes of R449 and R448 -/
  | bytes (b : List Byte)
  /-- set 1, by tent -/
  | voltage (t : List TestedTent)
  /-- set 2: the margin words -/
  | margin (w : List W64)
  /-- set 3: persistent dictionary values and FATAL_COUNT -/
  | dict (v : FMap Nat) (fatal : Nat)
  /-- set 4 -/
  | identity (i : SealedId)
  /-- set 6, by channel -/
  | memory (c : FMap NvChan)
  /-- set 7: the ceiling of every slot, `base` where none is listed -/
  | ceilings (base : Nat) (c : FMap Nat)
  /-- set 8: the calibration coefficients, and whether the record passes its check (R400) -/
  | calibration (record : List Byte) (good : Bool)
deriving DecidableEq, Repr

/-- A bank of the NV store: the fields of its header, and its content (R434). An erased bank has no MAGIC. -/
structure NvBank where
  magic : W32 := 0
  set : Byte := 0
  seq : W32 := 0
  length : W32 := 0
  crc : W32 := 0
  content : NvContent := .bytes []
deriving DecidableEq, Repr

/-- A record set: banks 0 and 1 (R433). -/
structure NvSet where
  bank0 : NvBank := {}
  bank1 : NvBank := {}
deriving DecidableEq, Repr

/-! ### Boot and security -/

/-- How the host link runs (R308): ×16 or ×8 at 64 GT/s with 256-byte flits, or as CXL.io alone. No row of the table trains the host link:
it stays as it is, ×16 from power-up (DESIGN CHOICE). -/
inductive HostLink where
  | x16 | x8 | ioOnly
deriving DecidableEq, Repr

/-- Start-up, trust and identity (R441 to R460). -/
structure Boot where
  /-- 0 ROM; 1 stage H; 2 firmware running; 3 recovery -/
  state : Nat := 0
  error : W16 := 0
  /-- all rails good in order (R442) -/
  rails : Bool := false
  railFault : W16 := 0
  /-- READY_UNITS bits other than those derived: configuration space, mailbox, queues, memory -/
  cfgSpace : Bool := false
  mailbox : Bool := false
  queues : Bool := false
  memory : Bool := false
  /-- links have been trained or failed (READY[2]) -/
  links : Bool := false
  /-- the dictionary has been loaded since VDD_AON came up (R433) -/
  loaded : Bool := false
  hostLink : HostLink := .x16
  /-- what the PUF SRAM held at power-up (R453) -/
  puf : W64 := 0
  /-- SEQ of the voltage table that the tents were started with (R415) -/
  voltSeq : Option W32 := none
  fwBank : Nat := 0
  fwPending : Bool := false
  fwVersion : W32 := 0
  /-- the manifest in force (R448) -/
  manifest : Option (List Byte) := none
  updateResult : Nat := 0
  identity : Option Identity := none
  /-- MR0 to MR7, 32 B each -/
  mr : List (List Byte) := []
  /-- measurement log, 64 B records -/
  log : List (List Byte) := []
  refusedExt : Nat := 0
  quoteSeq : W64 := 0
  /-- device metadata key, derived at start-up (R227, R454) -/
  metaKey : W128 := 0
  quote : Option (List Byte) := none
deriving DecidableEq, Repr

/-! ### The dictionary -/

/-- A session (R422, R423). -/
structure Session where
  cls : Byte
  ctx : Nat
  via : Via
  clientNonce : List Byte
  deviceNonce : List Byte
  /-- the proof has been accepted -/
  opened : Bool := false
  key : List Byte := []
  lastSeq : W64 := 0
  lastResp : Option Msg := none
  /-- staged DOMAIN write: index, subindex, bytes -/
  staged : Option (Nat × Nat × List Byte) := none
  /-- control period of the last request -/
  lastUse : Nat := 0
deriving DecidableEq, Repr

/-- Dictionary, sessions and the management port (R418 to R440). -/
structure Dict where
  /-- values of RW entries at key index × 256 + subindex; an absent entry has its default -/
  vals : FMap Nat := []
  unsaved : Bool := false
  saves : W32 := 0
  sessions : FMap Session := []
  nextSession : W32 := 1
  authFailures : W32 := 0
  /-- a DOMAIN write staged with SESSION 0, over the mailbox or in recovery: index, subindex, bytes (R429) -/
  staged0 : Option (Nat × Nat × List Byte) := none
  /-- failed proofs by source: control periods, and sources now ignored (R424) -/
  failures : FMap (List Nat) := []
  ignored : List Nat := []
  tenantKeys : FMap (List Byte) := []
  netDrops : W32 := 0
  /-- duplicate address found (R419) -/
  duplicate : Bool := false
  /-- the field network's link is there (R436). No row of the table tells of it: it stays as it is (DESIGN CHOICE) -/
  netLink : Bool := true
  /-- UDP port in use -/
  udpPort : Nat := 47230
deriving DecidableEq, Repr

/-! ### Board inputs, trip, resilience -/

/-- The filter of one board input (R468): `true` is a high pin. -/
structure InputFilter where
  filtered : Bool
  run : Nat := 0
  last : Bool
  lastRunOpen : Bool := false
  rejects : W32 := 0
  /-- the run has reached 8 and the filtered level has not changed yet -/
  due : Bool := false
deriving DecidableEq, Repr

/-- Board inputs by pin. -/
structure Inputs where
  sysReset : InputFilter := { filtered := false, last := false }
  perst : InputFilter := { filtered := false, last := false }
  brake : InputFilter := { filtered := true, last := true }
  alert : InputFilter := { filtered := true, last := true }
  brakeEvents : W32 := 0
deriving DecidableEq, Repr

/-- The thermal trip (R472). -/
structure Trip where
  latched : Bool := false
  sensor : Nat := 0xFF
  milliC : Int := 0
  /-- sensors at or above 125 °C in the last control period -/
  hot : List Nat := []
deriving DecidableEq, Repr

/-- Rates and fatal records (R369). Buckets are of one hour, newest first, at most 24. -/
structure Resilience where
  corr : List Nat := [0]
  retrain : List Nat := [0]
  loss : List Nat := [0]
  fatalCount : W32 := 0
  fatalCause : W32 := 0
  fatalDetail : W64 := 0
  viral : Bool := false
  /-- times of the last 16 successful drains, newest first, in control periods -/
  drains : List Nat := []
deriving DecidableEq, Repr

/-! ### What the block sends -/

/-- What the block sends out, in order. -/
inductive Output where
  /-- an MSI-X vector (R314), as a write of its entry's data to its address -/
  | msix (vector : Nat) (addr : W64 := 0) (data : W32 := 0)
  /-- CXL.cache RdCurr of a host grain; a write of bytes of a host grain, by WrCur or ItoMWr (R308: the manual does not say which of the two
  a write takes) -/
  | cxlRead (grain : Nat)
  | cxlWrite (grain : Nat) (bytes : List (Nat × Byte))
  /-- CXL.mem read data, or poison; write completion Cmp (R308, R351) -/
  | memData (tag dpa : Nat) (bytes : List Byte) (poison : Bool)
  | memCmp (dpa : Nat)
  /-- BISnpInv or BISnpData (R355) -/
  | bisnp (grain : Nat) (inv : Bool)
  /-- a snoop answered as holding no copy (R308) -/
  | snoopNoCopy (grain : Nat)
  | viral
  | flit (link : Nat) (f : Flit)
  /-- a new target on AVSBus, in mV (R387) -/
  | avs (tent mv : Nat)
  | reply (via : Via) (m : Msg)
  /-- a mailbox command completes with a CXL return code, 0 for Success (R430) -/
  | mailboxReturn (code : Nat)
  | neighborAdvertisement (target : Nat)
  /-- the port's own Neighbor Solicitation for its address, by which it finds a duplicate (R419) -/
  | addressProbe (target : Nat)
  | echoReply (dest : Nat) (data : List Byte)
  /-- THERMTRIP_N driven low (R472) -/
  | thermtrip
deriving DecidableEq, Repr

end Sys2Proof.Machine
end

