-- ==== Sys2Proof/Machine/State.lean ====
section
/-!
DEFINITION. The state of the block, its faults and refusals, and the state right after reset: everything at power-up, before the rails
are good.
-/

namespace Sys2Proof.Machine

/-- What stops the block for good. -/
inductive Fault where
  /-- raised by HOST_READ and HOST_WRITE for a DPA at or above 2,560 GiB, which the HDM decoder of R309 does not map: safe -/
  | noSuchAddress
deriving DecidableEq, Repr

/-- What the model does not do. -/
inductive Refusal where
  /-- raised by `exec` for a command that has no meaning yet: safe -/
  | notModelled (mnemonic : String)
deriving DecidableEq, Repr

/-- The state of the block. -/
structure State where
  /-- commands waiting, first in, first out (the model's own field) -/
  pending : List Instr := []
  /-- free values used so far (the model's own field) -/
  free : Nat := 0
  /-- what the block has sent out, oldest first (the model's own field) -/
  out : List Output := []
  /-- control periods of 10 µs since power-up (R393): the only clock of the model -/
  periods : Nat := 0
  /-- rings 0 to 191; an absent entry is an idle ring -/
  rings : FMap Ring := []
  /-- tents 0 to 7: memory side, weighmaster queue, DMA engines -/
  tents : FMap Tent := []
  /-- memory channels 0 to 31 -/
  chans : FMap Chan := []
  /-- ells of the data region and their headers, by device ell number; an absent one has the default header -/
  dram : FMap DramEll := []
  /-- contexts, queues, commands, turnstiles, objects, key slots, windows, host port, journal -/
  hub : Hub := {}
  /-- links, routes, remote requests, collectives -/
  net : Net := {}
  /-- power limiter and meters -/
  yard : Steelyard := {}
  /-- ring islands 0 to 7 -/
  islands : FMap Island := []
  clocks : Clocks := {}
  /-- record sets 0 to 8 of the NV store -/
  nv : FMap NvSet := []
  /-- saves in progress, by set: the content being written -/
  nvSaving : FMap NvContent := []
  boot : Boot := {}
  dict : Dict := {}
  inputs : Inputs := {}
  trip : Trip := {}
  resil : Resilience := {}
deriving DecidableEq, Repr

/-- The block at power-up: no rail good, memories empty, every register at the value given with its field. -/
def State.reset : State := {}

end Sys2Proof.Machine
end

