-- ==== Sys2Proof/Machine/Address.lean ====
section
/-!
DEFINITION. Where a device physical address lies: tent, channel, DRAM bank, row and position (R212, R213), bushel set and bank (R179,
R180, R183, R185), and the mesh hops between tents (R24 to R26).
-/

namespace Sys2Proof.Machine

/-- The place of a device ell (R212). -/
structure EllPlace where
  tent : Nat
  channel : Nat
  rank : Nat
  bank : Nat
  row : Nat
  k : Nat
  /-- tent-local ell number -/
  l : Nat
deriving DecidableEq, Repr

/-- decode of R212, on the device ell number. -/
def placeOf (e : Nat) : EllPlace :=
  let p := e / 2
  let tent := p % 8
  let j := p / 8
  let q := j / 32 * 8 + j % 8
  { tent, channel := 4 * tent + j / 8 % 4, rank := q / 256 % 2, bank := q / 8 % 32, row := q / 512, k := 2 * (q % 8) + e % 2
    l := 2 * j + e % 2 }

/-- Ell keys at or above this name host ells (R185). -/
def hostEll : Nat := 2 ^ 50
/-- Grain keys at or above this name host grains. -/
def hostGrain : Nat := 2 ^ 56

/-- Is the ell in host memory. -/
def isHostEll (ell : Nat) : Bool := decide (hostEll ≤ ell)
/-- Is the grain in host memory. -/
def isHostGrain (g : Nat) : Bool := decide (hostGrain ≤ g)

/-- The ell key of a grain key. -/
def ellOfGrain (g : Nat) : Nat :=
  if isHostGrain g then hostEll + (g - hostGrain) / 16 else g / 16

/-- The grain key of a grain of an ell. -/
def grainOfEll (ell i : Nat) : Nat :=
  if isHostEll ell then hostGrain + (ell - hostEll) * 16 + i else ell * 16 + i

/-- Home tent (R29, R185). -/
def homeTent (ell : Nat) : Nat :=
  if isHostEll ell then (ell - hostEll) % 8 else (placeOf ell).tent

/-- Tent-local ell number (R180, R185). -/
def localEll (ell : Nat) : Nat :=
  if isHostEll ell then (ell - hostEll) / 8 else (placeOf ell).l

/-- Bushel set (R180). -/
def bushelSet (ell : Nat) : Nat := localEll ell / 2 % 12288
/-- Bushel bank of a set (R179). -/
def bankOfSet (set : Nat) : Nat := set % 32
/-- Bushel bank of an ell. -/
def bushelBank (ell : Nat) : Nat := bankOfSet (bushelSet ell)

/-- DRAM bank number within the channel: rank × 32 + bank index. -/
def dramBank (e : Nat) : Nat := (placeOf e).rank * 32 + (placeOf e).bank

/-- The partner of an aligned pair (R180). -/
def partner (ell : Nat) : Nat := if ell % 2 = 0 then ell + 1 else ell - 1

/-- Row and column of the tags (R213): DRAM bank, row, column; subchannel A holds the even slots. -/
def tagPlace (e : Nat) : Nat × Nat × Nat :=
  let p := placeOf e
  (p.rank * 32 + (p.bank ^^^ 16), 81920 + p.row / 8, 16 * (p.row % 8) + p.k)

/-- Row, subchannel and column of the header (R213). -/
def headerPlace (e : Nat) : Nat × Nat × Nat × Nat :=
  let p := placeOf e
  (p.rank * 32 + p.bank, 92160 + p.row / 16, p.k % 2, 8 * (p.row % 16) + p.k / 2)

/-- Subchannel and column of stored slot s of an ell, in its data row (R213). -/
def slotPlace (e s : Nat) : Nat × Nat := (s % 2, 8 * (placeOf e).k + s / 2)

/-- Where the tag of slot s lies: the tag grain, by subchannel, and the byte in it (R215). -/
def tagByte (s : Nat) : Nat × Nat := (s % 2, 8 * (s / 2))

/-- The local header frame of an ell and its place in it (R183). -/
def headerFrame (e : Nat) : Nat × Nat := (localEll e / 16, localEll e % 16)

/-- The ell with a tent-local number (R212). -/
def ellOfLocal (tent l : Nat) : Nat := 2 * (8 * (l / 2) + tent) + l % 2

/-- Hops between two tents (R26). -/
def hops (t u : Nat) : Nat :=
  ((t % 4 : Int) - (u % 4 : Int)).natAbs + ((t / 4 : Int) - (u / 4 : Int)).natAbs

/-- The tent of a device ring number (R24). -/
def tentOfRing (ring : Nat) : Nat := ring / 24

end Sys2Proof.Machine
end

