-- ==== Sys2Proof/Machine/Crypto.lean ====
section
/-!
DEFINITION. The standards the manual names: SM3, HMAC-SM3, SM4, SM2 signature verification (R447), CRC-32C, and the functions of
the memory's encryption and tags built on them (R225 to R227, R454). Byte strings are in the order those standards give (R447).
-/

namespace Sys2Proof.Machine

/-! ### SM3 (GB/T 32905) -/

namespace Sm3

/-- Rotate left. -/
def rol (x : W32) (n : Nat) : W32 := x.rotateLeft (n % 32)

def p0 (x : W32) : W32 := x ^^^ rol x 9 ^^^ rol x 17
def p1 (x : W32) : W32 := x ^^^ rol x 15 ^^^ rol x 23

/-- Extend the 16 message words: the list is kept newest first. -/
def expand (n : Nat) (w : List W32) : List W32 :=
  match n with
  | 0 => w
  | k + 1 =>
    let g (i : Nat) : W32 := w.getD (i - 1) 0
    expand k ((p1 (g 16 ^^^ g 9 ^^^ rol (g 3) 15) ^^^ rol (g 13) 7 ^^^ g 6) :: w)

/-- The eight chaining words. -/
structure Regs where
  a : W32
  b : W32
  c : W32
  d : W32
  e : W32
  f : W32
  g : W32
  h : W32
deriving DecidableEq, Repr

def iv : Regs :=
  ⟨0x7380166f#32, 0x4914b2b9#32, 0x172442d7#32, 0xda8a0600#32, 0xa96f30bc#32, 0x163138aa#32, 0xe38dee4d#32, 0xb0fb0e4e#32⟩

/-- One round: the round number, the word and the primed word. -/
def round (v : Regs) (j : Nat) (w w' : W32) : Regs :=
  let t : W32 := if j < 16 then 0x79cc4519#32 else 0x7a879d8a#32
  let ss1 := rol (rol v.a 12 + v.e + rol t j) 7
  let ss2 := ss1 ^^^ rol v.a 12
  let ff := if j < 16 then v.a ^^^ v.b ^^^ v.c else (v.a &&& v.b) ||| (v.a &&& v.c) ||| (v.b &&& v.c)
  let gg := if j < 16 then v.e ^^^ v.f ^^^ v.g else (v.e &&& v.f) ||| (~~~v.e &&& v.g)
  let tt1 := ff + v.d + ss2 + w'
  let tt2 := gg + v.h + ss1 + w
  ⟨tt1, v.a, rol v.b 9, v.c, p0 tt2, v.e, rol v.f 19, v.g⟩

/-- Rounds from `j` on over the word list. -/
def rounds (fuel j : Nat) (w : List W32) (v : Regs) : Regs :=
  match fuel with
  | 0 => v
  | k + 1 => rounds k (j + 1) w.tail (round v j (w.headD 0) (w.headD 0 ^^^ w.getD 4 0))

/-- The compression function on one 64-byte block. -/
def compress (v : Regs) (blk : List Byte) : Regs :=
  let ws := (chunks 4 16 blk).map (fun c => BitVec.ofNat 32 (beNat c))
  let w := (expand 52 ws.reverse).reverse
  let r := rounds 64 0 w v
  ⟨r.a ^^^ v.a, r.b ^^^ v.b, r.c ^^^ v.c, r.d ^^^ v.d, r.e ^^^ v.e, r.f ^^^ v.f, r.g ^^^ v.g, r.h ^^^ v.h⟩

/-- The message with its padding. -/
def pad (m : List Byte) : List Byte :=
  let n := m.length
  m ++ (0x80#8 :: (List.replicate ((119 - n % 64) % 64) 0#8 ++ beBytes 8 (8 * n)))

/-- The 32-byte digest. -/
def hash (m : List Byte) : List Byte :=
  let p := pad m
  let r := (chunks 64 (p.length / 64 + 1) p).foldl compress iv
  [r.a, r.b, r.c, r.d, r.e, r.f, r.g, r.h].flatMap (fun x => beBytes 4 x.toNat)

end Sm3

/-- HMAC-SM3, whole 32 bytes. -/
def hmacSm3 (key msg : List Byte) : List Byte :=
  let k0 := if key.length > 64 then Sm3.hash key else key
  let k := k0 ++ List.replicate (64 - k0.length) 0#8
  Sm3.hash (k.map (· ^^^ 0x5c#8) ++ Sm3.hash (k.map (· ^^^ 0x36#8) ++ msg))

/-- The bytes of an ASCII text. -/
def ascii (t : String) : List Byte :=
  t.toList.map (fun c => BitVec.ofNat 8 c.toNat)

/-- KDF(label) of R454. -/
def kdf (ds : List Byte) (label : String) : List Byte :=
  hmacSm3 ds (ascii label ++ [0#8, 0#8, 0#8, 0#8, 1#8])

/-! ### SM4 (GB/T 32907) -/

namespace Sm4

/-- The substitution table, as one number: entry i is byte i from the top. -/
def sboxBits : Nat :=
  0xd690e9fecce13db716b614c228fb2c052b679a762abe04c3aa441326498606999c4250f491ef987a33540b43edcfac62e4b31ca9c908e89580df94fa758f3fa64707a7fcf37317ba83593c19e6854fa8686b81b27164da8bf8eb0f4b70569d351e240e5e6358d1a225227c3b01217887d40046579fd327524c3602e7a0c4c89eeabf8ad240c738b5a3f7f2cef96115a1e0ae5da49b341a55ad933230f58cb1e31df6e22e8266ca60c02923ab0d534e6fd5db3745defd8e2f03ff6a726d6c5b518d1baf92bbddbc7f11d95c411f105ad80ac13188a5cd7bbd2d74d012b8e5b4b08969974a0c96777e65b9f109c56ec68418f07dec3adc4d2079ee5f3ed7cb3948

def sbox (b : Nat) : Nat := (sboxBits >>> (8 * (255 - b % 256))) % 256

/-- The nonlinear step on four bytes. -/
def tau (x : W32) : W32 :=
  let n := x.toNat
  BitVec.ofNat 32 (sbox (n >>> 24) * 2 ^ 24 + sbox (n >>> 16) * 2 ^ 16 + sbox (n >>> 8) * 2 ^ 8 + sbox n)

def lin (b : W32) : W32 := b ^^^ b.rotateLeft 2 ^^^ b.rotateLeft 10 ^^^ b.rotateLeft 18 ^^^ b.rotateLeft 24
def linKey (b : W32) : W32 := b ^^^ b.rotateLeft 13 ^^^ b.rotateLeft 23

/-- The constant word of a key round. -/
def ck (i : Nat) : W32 :=
  BitVec.ofNat 32 (beNat ((List.range 4).map (fun j => BitVec.ofNat 8 ((4 * i + j) * 7))))

/-- The 32 round keys. -/
def roundKeys (fuel i : Nat) (k0 k1 k2 k3 : W32) : List W32 :=
  match fuel with
  | 0 => []
  | n + 1 =>
    let k := k0 ^^^ linKey (tau (k1 ^^^ k2 ^^^ k3 ^^^ ck i))
    k :: roundKeys n (i + 1) k1 k2 k3 k

def word (x : W128) (i : Nat) : W32 := BitVec.ofNat 32 (x.toNat >>> (32 * (3 - i)))

def keys (key : W128) : List W32 :=
  roundKeys 32 0 (word key 0 ^^^ 0xA3B1BAC6#32) (word key 1 ^^^ 0x56AA3350#32)
    (word key 2 ^^^ 0x677D9197#32) (word key 3 ^^^ 0xB27022DC#32)

def run (rks : List W32) (x0 x1 x2 x3 : W32) : W128 :=
  match rks with
  | [] => x3 ++ x2 ++ x1 ++ x0
  | rk :: t => run t x1 x2 x3 (x0 ^^^ lin (tau (x1 ^^^ x2 ^^^ x3 ^^^ rk)))

/-- Encrypt one block; the block's first byte is its most significant. -/
def encrypt (key x : W128) : W128 :=
  run (keys key) (word x 0) (word x 1) (word x 2) (word x 3)

/-- Decrypt one block. -/
def decrypt (key x : W128) : W128 :=
  run (keys key).reverse (word x 0) (word x 1) (word x 2) (word x 3)

/-- Encrypt the block whose little-endian value is given, answering a little-endian value (R225, R226). -/
def encryptLe (key : W128) (x : Nat) : Nat :=
  leNat (beBytes 16 (encrypt key (BitVec.ofNat 128 (beNat (leBytes 16 x)))).toNat)

/-- Decrypt the block whose little-endian value is given. -/
def decryptLe (key : W128) (x : Nat) : Nat :=
  leNat (beBytes 16 (decrypt key (BitVec.ofNat 128 (beNat (leBytes 16 x)))).toNat)

/-! GCM (R453): blocks are 128-bit numbers whose most significant bit is the coefficient of x⁰. -/

/-- Product of GHASH. -/
def ghashMul (fuel x v z : Nat) : Nat :=
  match fuel with
  | 0 => z
  | n + 1 => ghashMul n x (if v % 2 = 1 then v / 2 ^^^ 0xE1 * 2 ^ 120 else v / 2) (if x.testBit n then z ^^^ v else z)

/-- Bytes as blocks, the last one filled up with zeros. -/
def blocksOf (bs : List Byte) : List Nat :=
  (chunks 16 ((bs.length + 15) / 16) bs).map (fun c => beNat (c ++ List.replicate (16 - c.length) 0#8))

/-- GHASH of a ciphertext without associated data. -/
def ghash (h : Nat) (ct : List Byte) : Nat :=
  (blocksOf ct ++ [8 * ct.length]).foldl (fun y b => ghashMul 128 (y ^^^ b) h 0) 0

/-- A block of the key stream: 12 bytes of nonce and a counter of 32 bits. -/
def ctrBlock (key : W128) (nonce : List Byte) (i : Nat) : Nat := (encrypt key (BitVec.ofNat 128 (beNat nonce * 2 ^ 32 + i))).toNat

/-- Encrypt or decrypt in counter mode, from counter 2 on. -/
def gcmXor (key : W128) (nonce bs : List Byte) : List Byte :=
  let stream := (List.range ((bs.length + 15) / 16)).flatMap (fun i => beBytes 16 (ctrBlock key nonce (i + 2)))
  (bs.zip stream).map (fun p => p.1 ^^^ p.2)

/-- The 16-byte tag of a ciphertext. -/
def gcmTag (key : W128) (nonce ct : List Byte) : List Byte :=
  beBytes 16 (ghash (encrypt key 0).toNat ct ^^^ ctrBlock key nonce 1)

/-- Seal: ciphertext, then tag. -/
def gcmSeal (key : W128) (nonce plain : List Byte) : List Byte :=
  let ct := gcmXor key nonce plain
  ct ++ gcmTag key nonce ct

/-- Open: `none` where the tag does not fit. -/
def gcmOpen (key : W128) (nonce block : List Byte) : Option (List Byte) :=
  let ct := block.take (block.length - 16)
  if block.drop (block.length - 16) = gcmTag key nonce ct then some (gcmXor key nonce ct) else none

end Sm4

/-- Multiply by α in GF(2¹²⁸), the block read little-endian (R225, IEEE 1619). -/
def xtsDouble (t : Nat) : Nat :=
  (2 * t) % 2 ^ 128 ^^^ (if t.testBit 127 then 0x87 else 0)

/-- The four tweaks T0 to T3 of a slot (R225): device ell number, slot, key K2. -/
def tweaks (k2 : W128) (e s : Nat) : List Nat :=
  let t0 := Sm4.encryptLe k2 (e * 16 + s)
  let t1 := xtsDouble t0
  let t2 := xtsDouble t1
  [t0, t1, t2, xtsDouble t2]

/-- One XTS data unit of 4 blocks under a block function (R225). -/
def xtsUnit (f : Nat → Nat) (ts : List Nat) (bs : List Byte) : List Byte :=
  (List.zip ts (chunks 16 4 bs)).flatMap (fun p => leBytes 16 (f (leNat p.2 ^^^ p.1) ^^^ p.1))

/-- The XTS ciphertext of one slot (R225): device ell number, slot, keys K1 and K2, plaintext. -/
def xtsSlot (k1 k2 : W128) (e s : Nat) (plain : List Byte) : List Byte := xtsUnit (Sm4.encryptLe k1) (tweaks k2 e s) plain

/-- The plaintext of one slot (R225). -/
def xtsOpen (k1 k2 : W128) (e s : Nat) (cipher : List Byte) : List Byte := xtsUnit (Sm4.decryptLe k1) (tweaks k2 e s) cipher

/-- Product in GF(2¹²⁸) with the GCM reduction polynomial, bit n of a block being the coefficient of xⁿ. DEDUCED. -/
def gfMul (fuel a b acc : Nat) : Nat :=
  match fuel with
  | 0 => acc
  | n + 1 => gfMul n (xtsDouble a) (b / 2) (if b % 2 = 1 then acc ^^^ a else acc)

/-- The polynomial MAC of R226 over four blocks and the block A. -/
def macTag (k3 : W128) (blocks : List Nat) (a : Nat) : Nat :=
  let h := Sm4.encryptLe k3 0
  let x := (blocks ++ [a]).foldl (fun acc c => gfMul 128 (acc ^^^ c) h 0) 0
  (x ^^^ Sm4.encryptLe k3 (a + 2 ^ 127)) % 2 ^ 64

/-- The integrity tag of a stored slot (R226). -/
def slotTag (k3 : W128) (e s keyGen : Nat) (cipher : List Byte) : Nat :=
  macTag k3 ((chunks 16 4 cipher).map leNat) (e % 2 ^ 32 + s % 16 * 2 ^ 32 + keyGen % 2 ^ 20 * 2 ^ 36)

/-- HDR_TAG of a header's words 0 to 6 (R227). -/
def headerTag (metaKey : W128) (e : Nat) (w : List Nat) : Nat :=
  let g (i : Nat) : Nat := w.getD i 0
  macTag metaKey [g 0 + g 1 * 2 ^ 64, g 2 + g 3 * 2 ^ 64, g 4 + g 5 * 2 ^ 64, g 6] (e % 2 ^ 32)

/-! ### CRC-32C -/

/-- One byte into the CRC register. -/
def crcByte (fuel c : Nat) : Nat :=
  match fuel with
  | 0 => c
  | n + 1 => crcByte n (if c % 2 = 1 then (c / 2) ^^^ 0x82F63B78 else c / 2)

/-- CRC-32C of a byte string. -/
def crc32c (bs : List Byte) : Nat :=
  bs.foldl (fun c b => crcByte 8 (c ^^^ b.toNat)) 0xFFFFFFFF ^^^ 0xFFFFFFFF

/-! ### SM2 (GB/T 32918) on its recommended curve -/

namespace Sm2

def p : Nat := 0xFFFFFFFEFFFFFFFFFFFFFFFFFFFFFFFFFFFFFFFF00000000FFFFFFFFFFFFFFFF
def n : Nat := 0xFFFFFFFEFFFFFFFFFFFFFFFFFFFFFFFF7203DF6B21C6052B53BBF40939D54123
def a : Nat := p - 3
def b : Nat := 0x28E9FA9E9D9F5E344D5A9E4BCF6509A7F39789F515AB8F92DDBCBD414D940E93
def gx : Nat := 0x32C4AE2C1F1981195F9904466A39C9948FE30BBFF2660BE1715A4589334C74C7
def gy : Nat := 0xBC3736A2F4F6779C59BDCEE36B692153D0A9877CC62A474002DF32E52139F0A0

def sub (x y : Nat) : Nat := (x + p - y % p) % p
def mul (x y : Nat) : Nat := x * y % p

/-- Power modulo p, over the low `fuel` bits of the exponent. -/
def pow (fuel base e acc : Nat) : Nat :=
  match fuel with
  | 0 => acc
  | k + 1 => pow k (mul base base) (e / 2) (if e % 2 = 1 then mul acc base else acc)

def inv (x : Nat) : Nat := pow 256 x (p - 2) 1

/-- A point in Jacobian coordinates; z = 0 is the point at infinity. -/
structure Pt where
  x : Nat
  y : Nat
  z : Nat
deriving DecidableEq, Repr

def Pt.dbl (q : Pt) : Pt :=
  let yy := mul q.y q.y
  let s := mul 4 (mul q.x yy)
  let zz := mul q.z q.z
  let m := (mul 3 (mul q.x q.x) + mul a (mul zz zz)) % p
  let x' := sub (mul m m) (2 * s)
  ⟨x', sub (mul m (sub s x')) (mul 8 (mul yy yy)), mul 2 (mul q.y q.z)⟩

def Pt.add (q r : Pt) : Pt :=
  if q.z = 0 then r else if r.z = 0 then q else
  let z1 := mul q.z q.z
  let z2 := mul r.z r.z
  let u1 := mul q.x z2
  let u2 := mul r.x z1
  let s1 := mul q.y (mul r.z z2)
  let s2 := mul r.y (mul q.z z1)
  if u1 = u2 then (if s1 = s2 then q.dbl else ⟨1, 1, 0⟩) else
  let h := sub u2 u1
  let rr := sub s2 s1
  let h2 := mul h h
  let h3 := mul h h2
  let v := mul u1 h2
  let x' := sub (sub (mul rr rr) h3) (2 * v)
  ⟨x', sub (mul rr (sub v x')) (mul s1 h3), mul h (mul q.z r.z)⟩

/-- Scalar multiple, from the low bit up. -/
def Pt.smul (fuel k : Nat) (q acc : Pt) : Pt :=
  match fuel with
  | 0 => acc
  | f + 1 => Pt.smul f (k / 2) q.dbl (if k % 2 = 1 then acc.add q else acc)

/-- The number that a signature is made over: the hash of Z and the message. -/
def digest (pub msg : List Byte) (user : String) : Nat :=
  let id := ascii user
  let z := Sm3.hash (beBytes 2 (8 * id.length) ++ id ++ beBytes 32 a ++ beBytes 32 b ++ beBytes 32 gx ++ beBytes 32 gy ++ pub)
  beNat (Sm3.hash (z ++ msg))

/-- Inverse modulo the order of the group. -/
def invN (x : Nat) : Nat :=
  let rec go (fuel base e acc : Nat) : Nat :=
    match fuel with
    | 0 => acc
    | k + 1 => go k (base * base % n) (e / 2) (if e % 2 = 1 then acc * base % n else acc)
  go 256 (x % n) (n - 2) 1

/-- A signature (r then s, 32 B each) by private key `d` over a hash, with the random numbers `ks`: the first that gives r and s as the
standard wants them. -/
def signWith (d e : Nat) (ks : List Nat) : List Byte :=
  match ks with
  | [] => []
  | k :: rest =>
    let q := Pt.smul 256 k ⟨gx, gy, 1⟩ ⟨1, 1, 0⟩
    let zi := inv q.z
    let r := (e + mul q.x (mul zi zi)) % n
    let s := invN (1 + d) * ((k + n * n - r * d) % n) % n
    if r = 0 ∨ r + k = n ∨ s = 0 then signWith d e rest else beBytes 32 r ++ beBytes 32 s

/-- Verify a signature (r then s, 32 B each) over a message by a public key (x then y) with a user identifier. -/
def verify (pub msg sig : List Byte) (user : String) : Bool :=
  let px := beNat (pub.take 32)
  let py := beNat (pub.drop 32)
  let e := digest pub msg user
  let r := beNat (sig.take 32)
  let s := beNat (sig.drop 32)
  let t := (r + s) % n
  let q := (Pt.smul 256 s ⟨gx, gy, 1⟩ ⟨1, 1, 0⟩).add (Pt.smul 256 t ⟨px, py, 1⟩ ⟨1, 1, 0⟩)
  let zi := inv q.z
  let onCurve := decide (mul py py = (mul (mul px px) px + mul a px + b) % p) && decide (px < p) && decide (py < p)
  pub.length == 64 && sig.length == 64 && onCurve && decide (0 < r) && decide (r < n) && decide (0 < s) && decide (s < n) &&
    decide (t ≠ 0) && decide (q.z ≠ 0) && decide ((e + mul q.x (mul zi zi)) % n = r)

end Sm2

end Sys2Proof.Machine
end

