-- ==== Sys2Proof/Machine/Stored.lean ====
section
/-!
DEFINITION. The stored form of an ell (R216 to R219), its header words (R214), and the bytes that lie on the module: ciphertext and
tags (R225 to R227).
-/

namespace Sys2Proof.Machine

/-- The 16 grains of an ell's bytes. -/
def grainsOf (data : Mem) : List (List Byte) :=
  (List.range 16).map (fun g => Mem.readBytes data (64 * g) 64)

/-- A zero grain (R216). -/
def isZeroGrain (g : List Byte) : Bool := g.all (fun b => b == 0)

/-- Element views of R216 and R217 of one grain: elements of `n` bytes as numbers. -/
def elementsOf (n : Nat) (g : List Byte) : List Nat :=
  (chunks n 64 g).map leNat

/-- Exponent field of an element in FORM 1 or 2. -/
def expField (form x : Nat) : Nat :=
  if form = 1 then bits x 14 7 else bits x 30 23

/-- Base B of R217: the smallest non-zero exponent field, or 0. -/
def formBase (form : Nat) (els : List Nat) : Nat :=
  minD 0 ((els.map (expField form)).filter (fun e => e != 0))

/-- The smallest w with n ≤ 2^w. -/
def widthFor (fuel w n : Nat) : Nat :=
  match fuel with
  | 0 => w
  | k + 1 => if n ≤ 2 ^ w then w else widthFor k (w + 1) n

/-- w(g) of R217. -/
def formWidth (form : Nat) (g : List Byte) : Nat :=
  let els := elementsOf (2 * form) g
  let m := maxZ (els.map (expField form))
  if m = 0 then 0 else widthFor 9 0 (m + 2 - formBase form els)

/-- Bytes of one non-zero grain in a form (R216). -/
def formBytes (form w : Nat) : Nat :=
  if form = 0 then 64 else if form = 1 then 33 + 4 * w else 49 + 2 * w

/-- Pack exponent codes of w bits from bit 0 upward (R217). -/
def packCodes (w : Nat) (codes : List Nat) : Nat :=
  match codes with
  | [] => 0
  | c :: t => c + (packCodes w t <<< w)

/-- One grain in its form (R217). -/
def packGrain (form : Nat) (g : List Byte) : List Byte :=
  if form = 0 then g
  else
    let els := elementsOf (2 * form) g
    let b := formBase form els
    let w := formWidth form g
    let items := els.flatMap (fun x =>
      if form = 1 then leBytes 1 (bits x 15 15 * 128 + bits x 6 0) else leBytes 3 (bits x 31 31 * 2 ^ 23 + bits x 22 0))
    let codes := els.map (fun x => if expField form x = 0 then 0 else expField form x - b + 1)
    leBytes 1 b ++ (items ++ leBytes (els.length * w / 8) (packCodes w codes))

/-- What the compressor decides (R218). -/
structure Compressed where
  form : Nat
  stored : Nat
  wmap : Nat
  zero : W16
deriving DecidableEq, Repr

/-- STORED of an ell's non-zero grains in a form, if the form is possible (R218). -/
def storedIn (form : Nat) (nz : List (List Byte)) : Option Nat :=
  let ws := nz.map (formWidth form)
  if form ≠ 0 ∧ ws.any (fun w => decide (7 < w)) then none
  else some (ceilDiv ((ws.map (formBytes form)).foldl (· + ·) 0) 64)

/-- The bit map of the positions where a predicate holds. -/
def mapOf (l : List Bool) : Nat :=
  match l with
  | [] => 0
  | b :: t => b.toNat + 2 * mapOf t

/-- The compressor (R218): the smallest STORED, the lower FORM when equal. -/
def compress (data : Mem) : Compressed :=
  let gs := grainsOf data
  let nz := gs.filter (fun g => !isZeroGrain g)
  let zero := BitVec.ofNat 16 (mapOf (gs.map isZeroGrain))
  let s0 := (storedIn 0 nz).getD 16
  let s1 := storedIn 1 nz
  let s2 := storedIn 2 nz
  let best1 : Nat × Nat := match s1 with | some n => if n < s0 then (1, n) else (0, s0) | none => (0, s0)
  let best : Nat × Nat := match s2 with | some n => if n < best1.2 then (2, n) else best1 | none => best1
  let wmap := if best.1 = 0 then 0 else
    packCodes 3 (gs.map (fun g => if isZeroGrain g then 0 else formWidth best.1 g))
  ⟨best.1, best.2, wmap, zero⟩

/-- The stored byte string of an ell's plaintext in a form, padded to whole slots (R216). -/
def storedBytes (form stored : Nat) (data : Mem) : List Byte :=
  let nz := (grainsOf data).filter (fun g => !isZeroGrain g)
  let body := nz.flatMap (packGrain form)
  body ++ List.replicate (64 * stored - body.length) 0

/-- Where the bytes of grain `g` lie in the stored byte string: first byte and count (R216, R218). -/
def grainSpan (h : EllHeader) (g : Nat) : Nat × Nat :=
  let len (i : Nat) : Nat := formBytes h.form (bits h.wmap (3 * i + 2) (3 * i))
  (((List.range g).filter (fun i => !bitN h.zero.toNat i)).map len |>.foldl (· + ·) 0, len g)

/-- The slots that the bytes of grain `g` lie in (R219). -/
def slotsOfGrain (h : EllHeader) (g : Nat) : List Nat :=
  if bitN h.zero.toNat g then []
  else
    let p := grainSpan h g
    (List.range 16).filter (fun s => decide (p.1 < 64 * (s + 1)) && decide (64 * s < p.1 + p.2))

/-- The exponent codes of w bits, from bit 0 upward (R217). -/
def unpackCodes (fuel w x : Nat) : List Nat :=
  match fuel with
  | 0 => []
  | n + 1 => x % 2 ^ w :: unpackCodes n w (x / 2 ^ w)

/-- One grain out of its packed bytes (R217). -/
def unpackGrain (form w : Nat) (bs : List Byte) : List Byte :=
  if form = 0 then bs.take 64
  else
    let n := 32 / form
    let size := 2 * form - 1
    let b := (bs.headD 0).toNat
    let items := (chunks size n (bs.drop 1)).map leNat
    let codes := unpackCodes n w (leNat ((bs.drop (1 + size * n)).take (n * w / 8)))
    let field (c : Nat) : Nat := if c = 0 then 0 else b + c - 1
    (items.zip codes).flatMap (fun p =>
      if form = 1 then leBytes 2 (p.1 / 128 * 2 ^ 15 + field p.2 * 2 ^ 7 + p.1 % 128)
      else leBytes 4 (p.1 / 2 ^ 23 * 2 ^ 31 + field p.2 * 2 ^ 23 + p.1 % 2 ^ 23))

/-- Header words 0 to 6 (R214). -/
def headerWords (d : EllHeader) : List Nat :=
  [d.owner * 2 ^ 52 + d.gen * 2 ^ 32 + d.stored * 2 ^ 27 + d.form * 2 ^ 25 + d.fold.toNat * 2 ^ 24 + d.zero.toNat,
   d.dead.toNat * 2 ^ 48, d.wmap, 0, 0, 0, 0]

/-- The header of an ell never written, and nothing stored (R214, R233). -/
def defaultEll : DramEll := {}

/-- The three keys of a slot (R224). -/
structure OwnerKey where
  k1 : W128 := 0
  k2 : W128 := 0
  k3 : W128 := 0
deriving DecidableEq, Repr

/-- The ciphertext of slot s as the module holds it. -/
def DramEll.slot (d : DramEll) (s : Nat) : List Byte := Mem.readBytes d.cipher (64 * s) 64

/-- The tag of slot s as the module holds it (R215). -/
def DramEll.tag (d : DramEll) (s : Nat) : Nat :=
  let p := tagByte s
  leNat (Mem.readBytes d.tags (64 * p.1 + p.2) 8)

/-- Write the stored byte string of an ell: each slot's ciphertext and tag (R225, R226). Slots at or above STORED keep their content
(R219). -/
def DramEll.putSlots (d : DramEll) (k : OwnerKey) (e gen : Nat) (plain : List Byte) (stored : Nat) : DramEll :=
  (List.range stored).foldl (fun d s =>
    let c := xtsSlot k.k1 k.k2 e s ((plain.drop (64 * s)).take 64)
    let p := tagByte s
    { d with cipher := Mem.writeBytes d.cipher (64 * s) c
             tags := Mem.writeBytes d.tags (64 * p.1 + p.2) (leBytes 8 (slotTag k.k3 e s gen c)) }) d

/-- Does the tag of slot s differ (R226)? -/
def DramEll.tagDiffers (d : DramEll) (k : OwnerKey) (e gen s : Nat) : Bool := d.tag s != slotTag k.k3 e s gen (d.slot s)

/-- The plaintext of grain g of an ell with header h, from the slots of the module (R217, R218, R225). -/
def DramEll.plain (d : DramEll) (h : EllHeader) (k : OwnerKey) (e g : Nat) : List Byte :=
  if bitN h.zero.toNat g then List.replicate 64 0
  else
    let p := grainSpan h g
    let slots := slotsOfGrain h g
    let bs := slots.flatMap (fun s => xtsOpen k.k1 k.k2 e s (d.slot s))
    unpackGrain h.form (bits h.wmap (3 * g + 2) (3 * g)) ((bs.drop (p.1 - 64 * slots.headD 0)).take p.2)

/-- HDR_TAG of an ell's header (R227). -/
def headerTagOf (metaKey : W128) (e : Nat) (h : EllHeader) : Nat := headerTag metaKey e (headerWords h)

/-- Put a header with its tag (R227). -/
def DramEll.putHeader (d : DramEll) (metaKey : W128) (e : Nat) (h : EllHeader) : DramEll :=
  { d with hdr := h, hdrTag := some (headerTagOf metaKey e h) }

/-- Does HDR_TAG differ? A default header is as the device wrote it (R233). -/
def DramEll.headerDiffers (d : DramEll) (metaKey : W128) (e : Nat) : Bool :=
  match d.hdrTag with
  | some t => t != headerTagOf metaKey e d.hdr
  | none => false

end Sys2Proof.Machine
end

