-- ==== Sys2Proof/Machine/Ops.lean ====
section
/-!
DEFINITION. Access to the parts of the state, free values, the output list, physical places, and the back-invalidate filter: the named
operations that every meaning goes through.
-/

namespace Sys2Proof.Machine

/-! ### Parts of the state -/

/-- A ring. -/
def State.ring (s : State) (r : Nat) : Ring := Assoc.get {} s.rings r
/-- Put a ring. -/
def State.setRing (s : State) (r : Nat) (x : Ring) : State := { s with rings := Assoc.put s.rings r x }
/-- Change a ring. -/
def State.modRing (s : State) (r : Nat) (f : Ring → Ring) : State := s.setRing r (f (s.ring r))

/-- A booth of a ring. -/
def Ring.booth (x : Ring) (b : Nat) : Booth := Assoc.get {} x.booths b
/-- Put a booth. -/
def Ring.setBooth (x : Ring) (b : Nat) (y : Booth) : Ring := { x with booths := Assoc.put x.booths b y }
/-- Change a booth of the state. -/
def State.modBooth (s : State) (r b : Nat) (f : Booth → Booth) : State := s.modRing r (fun x => x.setBooth b (f (x.booth b)))

/-- The troupe resident at a slot of a booth. -/
def Booth.troupe? (y : Booth) (slot : Nat) : Option Troupe := y.troupes.find? (fun t => t.slot == slot)
/-- Put back a resident troupe, in its place of the age order. -/
def Booth.setTroupe (y : Booth) (t : Troupe) : Booth :=
  { y with troupes := y.troupes.map (fun u => if u.slot = t.slot then t else u) }
/-- The troupe that a reference names. -/
def State.troupe? (s : State) (who : TroupeRef) : Option Troupe :=
  ((s.ring who.ring.val).booth who.booth.val).troupe? who.slot.val
/-- Put back a resident troupe. -/
def State.setTroupe (s : State) (who : TroupeRef) (t : Troupe) : State :=
  s.modBooth who.ring.val who.booth.val (fun y => y.setTroupe { t with slot := who.slot.val })

/-- A tent's memory side. -/
def State.tent (s : State) (t : Nat) : Tent := Assoc.get {} s.tents t
/-- Put a tent. -/
def State.setTent (s : State) (t : Nat) (x : Tent) : State := { s with tents := Assoc.put s.tents t x }
/-- Change a tent. -/
def State.modTent (s : State) (t : Nat) (f : Tent → Tent) : State := s.setTent t (f (s.tent t))
/-- Change a tent's counters. -/
def State.modTentCounters (s : State) (t : Nat) (f : TentCounters → TentCounters) : State :=
  s.modTent t (fun x => { x with counters := f x.counters })

/-- A memory channel. -/
def State.chan (s : State) (c : Nat) : Chan := Assoc.get {} s.chans c
/-- Change a channel. -/
def State.modChan (s : State) (c : Nat) (f : Chan → Chan) : State := { s with chans := Assoc.put s.chans c (f (s.chan c)) }
/-- Change a channel's counters. -/
def State.modChanCounters (s : State) (c : Nat) (f : ChanCounters → ChanCounters) : State :=
  s.modChan c (fun x => { x with counters := f x.counters })

/-- Change the hub. -/
def State.modHub (s : State) (f : Hub → Hub) : State := { s with hub := f s.hub }
/-- Change the network. -/
def State.modNet (s : State) (f : Net → Net) : State := { s with net := f s.net }
/-- Change the steelyard. -/
def State.modYard (s : State) (f : Steelyard → Steelyard) : State := { s with yard := f s.yard }
/-- A ring island. -/
def State.island (s : State) (t : Nat) : Island := Assoc.get {} s.islands t
/-- Change a ring island. -/
def State.modIsland (s : State) (t : Nat) (f : Island → Island) : State :=
  { s with islands := Assoc.put s.islands t (f (s.island t)) }

/-- A context that is not Free. -/
def State.ctx? (s : State) (c : Nat) : Option Ctx := Assoc.find? s.hub.ctxs c
/-- Put a context. -/
def State.setCtx (s : State) (c : Nat) (x : Ctx) : State := s.modHub (fun h => { h with ctxs := Assoc.put h.ctxs c x })
/-- Change a context that is not Free. -/
def State.modCtx (s : State) (c : Nat) (f : Ctx → Ctx) : State :=
  match s.ctx? c with
  | some x => s.setCtx c (f x)
  | none => s

/-- The key of a command in the hub's table. -/
def cmdKey (r : CmdRef) : Nat := r.queue.val * 2 ^ 32 + r.count.toNat
/-- A command that the barker has accepted and that is not complete. -/
def State.cmd? (s : State) (r : CmdRef) : Option Cmd := Assoc.find? s.hub.cmds (cmdKey r)
/-- Put a command. -/
def State.setCmd (s : State) (r : CmdRef) (x : Cmd) : State :=
  s.modHub (fun h => { h with cmds := Assoc.put h.cmds (cmdKey r) x })
/-- Change a command. -/
def State.modCmd (s : State) (r : CmdRef) (f : Cmd → Cmd) : State :=
  match s.cmd? r with
  | some x => s.setCmd r (f x)
  | none => s
/-- The reference of a key of the hub's command table. -/
def refOfKey (k : Nat) : CmdRef := ⟨Fin.ofNat 4096 (k / 2 ^ 32), BitVec.ofNat 32 k⟩

/-- Send something out of the block. -/
def State.emit (s : State) (o : Output) : State := { s with out := s.out ++ [o] }
/-- The next free 64-bit value. -/
def State.freeW64 (s : State) : State × W64 := ({ s with free := s.free + 1 }, Config.freeValue s.free)
/-- The next free 128-bit value. -/
def State.freeW128 (s : State) : State × W128 := ({ s with free := s.free + 1 }, Config.freeKey s.free)
/-- Free bytes, 16 at a time. -/
def State.freeBytes (s : State) (blocks : Nat) : State × List Byte :=
  match blocks with
  | 0 => (s, [])
  | n + 1 =>
    let (s, v) := s.freeW128
    let (s, t) := s.freeBytes n
    (s, leBytes 16 v.toNat ++ t)

/-- The next place in the order of commands and copies (R340). -/
def State.nextOrder (s : State) : State × Nat :=
  (s.modHub (fun h => { h with order := h.order + 1 }), s.hub.order)

/-! ### Grains -/

/-- The grain key and the offset in the grain of a physical byte address: a device address, or a host address. -/
def grainKey (host : Bool) (a : Nat) : Nat := (if host then hostGrain else 0) + a / 64

/-- Split bytes written at an address into grains: (grain, bytes with their offset in it). -/
def splitGrains (host : Bool) (a : Nat) (bs : List Byte) : List (Nat × List (Nat × Byte)) :=
  let first := a / 64
  let last := (a + bs.length - 1) / 64
  if bs.isEmpty then []
  else
    (List.range (last + 1 - first)).map (fun i =>
      let g := first + i
      let lo := if i = 0 then a % 64 else 0
      let skip := if i = 0 then 0 else 64 * g - a
      let piece := (bs.drop skip).take (64 - lo)
      ((if host then hostGrain else 0) + g, (List.range piece.length).zip piece |>.map (fun p => (lo + p.1, p.2))))

/-- Write bytes into a grain. -/
def mergeGrain (old : List Byte) (bs : List (Nat × Byte)) : List Byte :=
  bs.foldl (fun g p => patch g p.1 [p.2]) old

/-- 64 zero bytes. -/
def zeroGrain : List Byte := List.replicate 64 0

/-! ### The host-caching filter and snoops (R311, R355) -/

/-- The filter's entry of a device grain. -/
def Hub.entry? (h : Hub) (g : Nat) : Option FilterEnt := h.filter.find? (fun e => e.grain == g)

/-- Send a snoop for a grain, unless one is outstanding. -/
def State.snoop (s : State) (g : Nat) (inv : Bool) : State :=
  if s.hub.snoops.any (fun x => x.grain == g) then s
  else (s.modHub (fun h => { h with snoops := h.snoops ++ [⟨g, inv⟩] })).emit (.bisnp g inv)

/-- Modified data of the grain that the host has given back is still to be written: accesses of the grain wait for it (R355, R361). -/
def Hub.backPending (h : Hub) (g : Nat) : Bool := h.hostWrites.any (fun w => w.grain == g && w.who == WrWho.host)

/-- May a device-side read of the grain go on (R355)? If the host may hold it modified, the snoop is sent first. -/
def State.clearForRead (s : State) (g : Nat) : State × Bool :=
  if s.hub.backPending g then (s, false)
  else match s.hub.entry? g with
    | some e => if e.exclusive then (s.snoop g false, false) else (s, true)
    | none => (s, true)

/-- May a device-side write or atomic on the grain go on (R355)? If the grain is tracked, BISnpInv is sent first. -/
def State.clearForWrite (s : State) (g : Nat) : State × Bool :=
  if s.hub.backPending g then (s, false)
  else match s.hub.entry? g with
    | some _ => (s.snoop g true, false)
    | none => (s, true)

/-! ### What comes for readers (R187, R354) -/

/-- What has come of a grain for a reader. -/
def Hub.answer? (h : Hub) (who : Asker) (g : Nat) : Option GrainRead :=
  (h.answers.find? (fun a => a.who == who && a.grain == g)).map (·.read)

/-- A grain comes for a reader. -/
def State.putAnswer (s : State) (who : Asker) (g : Nat) (r : GrainRead) : State :=
  if who = .nobody then s else s.modHub (fun h => { h with answers := h.answers ++ [⟨who, g, r⟩] })

/-- A reader has taken what came of some grains. -/
def State.takeAnswers (s : State) (who : Asker) (gs : List Nat) : State :=
  s.modHub (fun h => { h with answers := h.answers.filter (fun a => !(a.who == who && gs.contains a.grain)) })

/-- A read whose reader is gone is nobody's. -/
def BReq.forget (p : Asker → Bool) (q : BReq) : BReq :=
  match q.kind with
  | .read who => if p who then { q with kind := .read .nobody } else q
  | _ => q

/-- Change every request that waits at a bushel. -/
def Tent.mapRequests (t : Tent) (f : BReq → BReq) : Tent :=
  { t with
      banks := Assoc.mapVals (fun _ (b : BankQ) => { queue := b.queue.map f, coming := b.coming.map f, overflow := b.overflow.map f }) t.banks
      chosen := Assoc.mapVals (fun _ (c : Chosen) => { c with hits := c.hits.map f }) t.chosen
      miss := Assoc.mapVals (fun _ (m : MissReg) => { m with waiters := m.waiters.map f }) t.miss
      refused := t.refused.map (fun r => { r with req := f r.req }) }

/-- Readers need no more of what has come, or is still to come, for them. -/
def State.forgetAnswers (s : State) (p : Asker → Bool) : State :=
  { s with
      hub := { s.hub with
        answers := s.hub.answers.filter (fun a => !p a.who)
        hostReads := s.hub.hostReads.map (fun r => if r.who.any p then { r with who := some .nobody } else r) }
      tents := Assoc.mapVals (fun _ (t : Tent) => t.mapRequests (BReq.forget p)) s.tents }

/-! ### Interrupts (R312, R314) -/

/-- Signal an MSI-X vector: a masked one sets its pending bit. MSI-X is enabled: no row of the table writes configuration space (DESIGN
CHOICE). -/
def State.interrupt (s : State) (v : Nat) : State :=
  let e := Assoc.get {} s.hub.msix v
  if e.masked then s.modHub (fun h => { h with msixPending := insertNat v h.msixPending }) else s.emit (.msix v e.addr e.data)

/-- Write a double word of an entry of the MSI-X table: a pending vector that is unmasked is signalled. -/
def State.msixWrite (s : State) (v dword : Nat) (x : W32) : State :=
  let e := Assoc.get {} s.hub.msix v
  let e : MsixEnt := match dword with
    | 0 => { e with addr := BitVec.ofNat 64 (e.addr.toNat / 2 ^ 32 * 2 ^ 32 + x.toNat) }
    | 1 => { e with addr := BitVec.ofNat 64 (x.toNat * 2 ^ 32 + e.addr.toNat % 2 ^ 32) }
    | 2 => { e with data := x }
    | _ => { e with masked := x.getLsbD 0 }
  let s := s.modHub (fun h => { h with msix := Assoc.put h.msix v e })
  if !e.masked && s.hub.msixPending.contains v then
    (s.modHub (fun h => { h with msixPending := h.msixPending.erase v })).interrupt v
  else s

/-! ### Host memory as the port sees it (R308, R344, R354) -/

/-- CXL.mem and CXL.cache are enabled: configuration space answers, and the link runs with 256-byte flits (R308). While the port is in reset
or its lanes are not driven, nothing goes out through it (R443, R469, R472). -/
def State.cxlOn (s : State) : Bool := s.boot.cfgSpace && s.boot.hostLink != .ioOnly

/-- Read a grain of host memory through CXL.cache: each reader sends a RdCurr of its own, and waits for its data (R354). While CXL.cache is
off, the read gives poison at once (DESIGN CHOICE). -/
def State.hostGrain? (s : State) (who : Asker) (g : Nat) : State × Option GrainRead :=
  match s.hub.answer? who g with
  | some r => (s, some r)
  | none =>
    if !s.cxlOn then (s.putAnswer who g (.bad 2), some (.bad 2))
    else if s.hub.hostReads.any (fun x => x.grain == g && x.who == some who) then (s, none)
    else ((s.modHub (fun h => { h with hostReads := h.hostReads ++ [⟨g, some who⟩] })).emit (.cxlRead (g - hostGrain)), none)

/-! ### Command words -/

/-- Word i of a command slot, as a number. -/
def cmdWord (w : List W64) (i : Nat) : Nat := (w.getD i 0).toNat

/-- OPCODE of the common header (R320). -/
def cmdOp (w : List W64) : Nat := bits (cmdWord w 0) 63 56
/-- PHASE of the common header; COLLECTIVE is always COLL, phase 3 (R258, R320). -/
def cmdPhase (w : List W64) : Nat := if cmdOp w = 3 then 3 else bits (cmdWord w 0) 55 53
/-- SERIAL; STEP_BOUNDARY is always treated as SERIAL (R320, R327). -/
def cmdSerial (w : List W64) : Bool := bitN (cmdWord w 0) 51 || cmdOp w == 7


end Sys2Proof.Machine
end

