-- ==== Sys2Proof/Machine/Journal.lean ====
section
/-!
DEFINITION. Recording of runs, folds and order records in the step journal, and what replay forces at each unit (R374 to R378, R381).
-/

namespace Sys2Proof.Machine

/-! ### Recording -/

/-- Blocks of 4 KiB of the journal (R378). -/
def journalBlocks : Nat := 7856128

/-- Bytes of a command entry (R377). -/
def JrnCmd.size (c : JrnCmd) : Nat := 16 + ceilDiv c.rings.length 16 * 16
/-- Bytes of a collective order record (R377). -/
def JrnColl.bytes (c : JrnColl) : Nat := 16 + 8 * ceilDiv (12 * c.size) 64
/-- Bytes of a step (R377). -/
def JrnStep.bytes (j : JrnStep) : Nat :=
  256 + (j.cmds.map JrnCmd.size).foldl (· + ·) 0 + 8 * j.tags.length + j.records.length + (j.colls.map JrnColl.bytes).foldl (· + ·) 0
    + 16 * j.runs.length
/-- Blocks of a step: it occupies whole blocks (R378). -/
def JrnStep.blocks (j : JrnStep) : Nat := ceilDiv j.bytes 4096

/-- Blocks of a list of steps. -/
def stepBlocks (l : List JrnStep) : Nat := (l.map JrnStep.blocks).foldl (· + ·) 0

/-- Drop the oldest steps, but not those to be kept, until the rest fits (R378). -/
def dropOldest (fuel : Nat) (keep : JrnStep → Bool) (l : List JrnStep) : List JrnStep :=
  match fuel with
  | 0 => l
  | n + 1 =>
    if stepBlocks l ≤ journalBlocks then l
    else match l.find? (fun j => !keep j) with
      | some j => dropOldest n keep (l.erase j)
      | none => l

/-- The newest complete journal of a context's step (R378). -/
def Hub.heldStep? (h : Hub) (ctx step : Nat) : Option JrnStep :=
  h.journal.reverse.find? (fun j => j.ctx == ctx && j.step.toNat == step && j.complete)

/-- Is the step of a context armed for replay, in replay, or being exported (R378)? -/
def Hub.stepInUse (h : Hub) (ctx step : Nat) : Bool :=
  (match Assoc.find? h.ctxs ctx with | some c => c.armed == some step | none => false) ||
  h.replays.any (fun r => r.2.ctx == ctx && r.2.step.toNat == step) ||
  h.cmds.any (fun c => c.2.ctx == some ctx && cmdOp c.2.words == 11 && bits (cmdWord c.2.words 1) 63 60 == 3 &&
    cmdWord c.2.words 7 == step && (c.2.st == .accepted || c.2.st == .running))

/-- Are the blocks of a step kept from being overwritten (R378)? -/
def Hub.keepsStep (h : Hub) (j : JrnStep) : Bool := h.stepInUse j.ctx j.step.toNat && h.heldStep? j.ctx j.step.toNat == some j

/-- The journal once the steps `mine` have changed: the oldest others are overwritten for them, and one that still does not fit stops
recording and is oversize (R378, R384). -/
def Hub.fitJournal (h : Hub) (mine : JrnStep → Bool) (l : List JrnStep) : Hub :=
  let h := { h with journal := l }
  let l := dropOldest l.length (fun j => mine j || h.keepsStep j) l
  let full : Bool := decide (journalBlocks < stepBlocks l)
  { h with journal := if full then l.map (fun j =>
      if mine j then { j with oversize := true, complete := false, cmds := [], runs := [], colls := [], open_ := [], tags := [], records := [] }
      else j) else l }

/-- Accept positions of the context's STEP_BOUNDARY commands that have not finished. -/
def State.boundaries (s : State) (ctx : Nat) : List Nat :=
  (s.hub.cmds.filter (fun c => c.2.ctx == some ctx && cmdOp c.2.words == 7 && (c.2.st == .accepted || c.2.st == .running))).map (·.2.accept)

/-- The key of a context's step to which a command belongs: even for the step that stands, odd for the one that a pending STEP_BOUNDARY
opens, when the command was accepted after it (R253). -/
def State.stepKey (s : State) (ctx : Nat) (ref : CmdRef) : Nat :=
  let accept := ((s.cmd? ref).map (·.accept)).getD 0
  2 * ctx + (if (s.boundaries ctx).any (fun b => decide (b < accept)) then 1 else 0)

/-- The number of the step that a step key names. -/
def State.stepOf (s : State) (key : Nat) : W64 := (((s.ctx? (key / 2)).map (·.step)).getD 0) + BitVec.ofNat 64 (key % 2)

/-- Is a journalled step still being recorded? -/
def JrnStep.open? (j : JrnStep) : Bool := !j.complete && !j.oversize && !j.closed

/-- Is it the step that a key's commands are recorded in? -/
def State.recordsIn (s : State) (key : Nat) (j : JrnStep) : Bool := j.ctx == key / 2 && j.step == s.stepOf key && j.open?

/-- Does the step of a key record (R374)? -/
def State.recording (s : State) (key : Nat) : Bool := s.hub.journal.any (s.recordsIn key)

/-- Change the step that a key's commands are recorded in. -/
def State.jrnMod (s : State) (key : Nat) (f : JrnStep → JrnStep) : State :=
  if s.recording key then s.modHub (fun h => h.fitJournal (s.recordsIn key) (h.journal.map (fun j => if s.recordsIn key j then f j else j)))
  else s

/-- w0 of a run entry (R376): kind, tent, host flag and address. -/
def runKey (kind tent : Nat) (host : Bool) (addr : Nat) : W64 :=
  BitVec.ofNat 64 (kind * 2 ^ 60 + tent * 2 ^ 57 + host.toNat * 2 ^ 56 + addr % 2 ^ 56)

/-- w0 of a scratchpad atomic's entry. -/
def scratchRunKey (ring off : Nat) : W64 := runKey 0 (tentOfRing ring) false (ring * 2 ^ 48 + off % 2 ^ 20)

/-- w0 of an entry of an ell. -/
def ellRunKey (kind ell : Nat) : W64 :=
  runKey kind (homeTent ell) (isHostEll ell) (if isHostEll ell then (ell - hostEll) * 1024 else ell * 1024)

/-- Write an open run as an entry. -/
def JrnStep.close (j : JrnStep) (o : OpenRun) : JrnStep :=
  { j with runs := j.runs ++ [⟨o.w0, o.source + BitVec.ofNat 64 o.len⟩], open_ := j.open_.filter (fun x => x.w0 != o.w0) }

/-- One request of a source at a unit (R376). -/
def JrnStep.request (j : JrnStep) (kind : Nat) (w0 source : W64) : JrnStep :=
  match j.open_.find? (fun o => o.w0 == w0) with
  | some o =>
    if o.source = source ∧ o.len < 65535 then
      { j with open_ := j.open_.map (fun x => if x.w0 = w0 then { x with len := x.len + 1 } else x) }
    else
      let j := j.close o
      { j with open_ := j.open_ ++ [⟨kind, w0, source, 1⟩] }
  | none => { j with open_ := j.open_ ++ [⟨kind, w0, source, 1⟩] }

/-- Record a request at a unit. -/
def State.jrnRequest (s : State) (key kind : Nat) (w0 : W64) (source : Nat) : State :=
  s.jrnMod key (fun j => j.request kind w0 (BitVec.ofNat 64 source))

/-- SOURCE of a fold or a release of a ring's reduction ell (R376). -/
def foldSource (ring : Nat) : Nat := ring * 2 ^ 55

/-- Record a fold (KIND 3) or a release (KIND 4) of a ring's reduction ell: the open run of its RED.ADD ends first. -/
def State.jrnFold (s : State) (key kind ell ring : Nat) : State :=
  s.jrnMod key (fun j =>
    let j := match j.open_.find? (fun o => o.w0 == ellRunKey 2 ell) with | some o => j.close o | none => j
    { j with runs := j.runs ++ [⟨ellRunKey kind ell, BitVec.ofNat 64 (foldSource ring)⟩] })

/-- The frame of an ell is evicted: its open runs are written (R376). -/
def State.jrnEvict (s : State) (ell : Nat) : State :=
  if s.hub.journal.any (fun j => j.open_.any (fun o => o.w0 == ellRunKey 1 ell)) then
    s.modHub (fun h => h.fitJournal JrnStep.open? (h.journal.map (fun j =>
      match j.open_.find? (fun o => o.w0 == ellRunKey 1 ell) with | some o => j.close o | none => j)))
  else s

/-- The unit that an entry belongs to: the sequence of an ell runs over all kinds but scratchpad atomics. -/
def seqKey (w0 : W64) : Nat := if bits w0.toNat 63 60 = 0 then 2 ^ 60 + w0.toNat else bits w0.toNat 59 0

/-- At the step's end an open run is written when its ell already has an entry, of whatever kind (R376). -/
def JrnStep.closeAll (j : JrnStep) : JrnStep :=
  j.open_.foldl (fun j o =>
    if j.runs.any (fun r => seqKey r.w0 == seqKey o.w0) then j.close o else { j with open_ := j.open_.filter (fun x => x.w0 != o.w0) }) j

/-! ### Replay (R381) -/

/-- What replay says of a request at a unit. -/
inductive Forced where
  | go
  | wait
  | diverged
deriving DecidableEq, Repr

/-- The replay that forces the commands of a step key, while it has not diverged. -/
def State.replay? (s : State) (key : Nat) : Option Replay :=
  (Assoc.find? s.hub.replays key).filter (fun r => r.diverged.isNone)

/-- Has a tent read an entry: is it among the first 65,536 of the tent's entries that are not yet satisfied (R381)? -/
def Replay.hasRead (r : Replay) (e : RunEnt) : Bool :=
  ((r.runs.filter (fun x => bits x.w0.toNat 59 57 == bits e.w0.toNat 59 57)).take 65536).contains e

/-- The next entry of an ell's sequence that is not satisfied. -/
def Replay.next? (r : Replay) (w0 : W64) : Option RunEnt := r.runs.find? (fun e => seqKey e.w0 == seqKey w0)

/-- May the request of a source be served now (R381)? It waits until the sequence names its source next and its tent has read that entry;
once every entry of a recorded ell is satisfied, one more request makes replay diverge. -/
def State.forced (s : State) (key : Nat) (w0 : W64) (source : Nat) : Forced :=
  match s.replay? key with
  | none => .go
  | some r =>
    match r.next? w0 with
    | none => if r.served.any (fun k => seqKey k == seqKey w0) then .diverged else .go
    | some e => if e.w0 == w0 && decide (e.w1.toNat / 65536 = source / 65536) && r.hasRead e then .go else .wait

/-- Take one request off the recorded sequence. -/
def State.takeForced (s : State) (key : Nat) (w0 : W64) : State :=
  match s.replay? key with
  | none => s
  | some r =>
    match r.next? w0 with
    | none => s
    | some e =>
      let runs := if bits e.w1.toNat 15 0 ≤ 1 then r.runs.erase e
                  else r.runs.map (fun x => if x = e then { x with w1 := x.w1 - 1 } else x)
      let served := if bits e.w1.toNat 15 0 ≤ 1 then r.served ++ [e.w0] else r.served
      s.modHub (fun h => { h with replays := Assoc.put h.replays key { r with runs, served } })

/-- Replay diverges: forcing ends for the rest of the step (R381). The accept position is that of the context's last command. -/
def State.diverge (s : State) (key kind : Nat) : State :=
  match s.replay? key with
  | none => s
  | some r =>
    let accept := (((s.ctx? (key / 2)).map (·.accepts)).getD 0) - 1
    s.modHub (fun h => { h with replays := Assoc.put h.replays key { r with diverged := some (kind, accept) } })

/-- The fold that the recorded sequence of an ell asks for next: its ring (R381). -/
def State.forcedFold? (s : State) (key ell : Nat) : Option Nat :=
  ((s.replay? key).bind (fun r => r.next? (ellRunKey 3 ell))).bind (fun e =>
    if bits e.w0.toNat 63 60 = 3 then some (bits e.w1.toNat 62 55) else none)

/-- Does the recorded sequence of an ell hold a fold of a ring that is still to come? -/
def State.foldRecorded (s : State) (key ell ring : Nat) : Bool :=
  (s.replay? key).any (fun r => r.runs.any (fun e => e.w0 == ellRunKey 3 ell && bits e.w1.toNat 62 55 == ring))

end Sys2Proof.Machine
end

