-- ==== Sys2Proof/Machine/Requests.lean ====
section
/-!
DEFINITION. What the requests at a bushel ask, the banks' request and overflow queues, and the miss registers with their waiter pool (R166,
R179, R186 to R193).
-/

namespace Sys2Proof.Machine

/-- A 64-bit count that stops at its largest value (R190). -/
def bump (w : W64) (n : Nat) : W64 := BitVec.ofNat 64 (satAdd 64 w.toNat n)

/-! ### What a request asks -/

/-- The bytes of a store or write. -/
def ReqKind.stored (k : ReqKind) : Option (List (Nat × Byte)) :=
  match k with
  | .store _ bs _ | .write _ bs => some bs
  | _ => none
/-- Does the request write? -/
def ReqKind.writes (k : ReqKind) : Bool :=
  match k with
  | .store _ _ _ | .atom _ | .redFold _ | .fold | .write _ _ | .modify _ _ _ _ _ _ _ => true
  | _ => false
/-- A .DEAD read. -/
def ReqKind.isDead (k : ReqKind) : Bool := match k with | .load _ d _ => d | _ => false
/-- The request asks not to allocate in the bushel (R82, R192, R193); a fold or release of an ell that is not held is done by the memory
controller's atomic unit (R197). -/
def ReqKind.noAlloc (k : ReqKind) : Bool :=
  match k with
  | .load _ d a => d || a != .frame
  | .store _ _ b => b
  | .redFold _ | .fold => true
  | _ => false
/-- A load that the stream detector has marked (R191). -/
def ReqKind.isStream (k : ReqKind) : Bool := match k with | .load _ _ a => a == .stream | _ => false
/-- Do the bytes cover a whole grain? -/
def wholeGrain (bs : List (Nat × Byte)) : Bool := (List.range 64).all (fun i => bs.any (fun b => b.1 == i))
/-- A store or write of a whole grain. -/
def ReqKind.whole (k : ReqKind) : Bool := k.stored.any wholeGrain
/-- The request works on the whole image. -/
def ReqKind.onImage (k : ReqKind) : Bool := match k with | .redFold _ | .fold | .fill => true | _ => false
/-- An access of the host itself, or modified data that it gives back: the host is not snooped for it (R355). -/
def ReqKind.ofHost (k : ReqKind) : Bool :=
  match k with
  | .read (.mem _ _ _ _ _) | .write (.mem _ _ _ _) _ | .write .host _ => true
  | _ => false
/-- Who waits for the writes of a request that is no ring's. -/
def ReqKind.writer? (k : ReqKind) : Option WrWho :=
  match k with
  | .write who _ => some who
  | .modify id _ _ _ _ _ _ => some (.remote id)
  | _ => none

/-- The same request, wherever it waits. -/
def BReq.same (a b : BReq) : Bool := { a with place := none } == { b with place := none }

/-- The key of requests for the structures that the device itself keeps (rings, mirrors, shadows, page tables). -/
def deviceKey : Nat := 4096

/-- The grain number within its ell of a grain key. -/
def grainInEll (g : Nat) : Nat := (if isHostGrain g then g - hostGrain else g) % 16

/-- The request of an agent that is no ring for a grain. -/
def agentReq (key gen g : Nat) (kind : ReqKind) : BReq :=
  { ring := 0, ctx := 0, key, gen, ell := ellOfGrain g, grain := grainInEll g, kind }

/-! ### Request queues (R179, R189) -/

/-- Requests that have come over the mesh enter the queue of 64 in order. -/
def BankQ.letIn (b : BankQ) : BankQ :=
  let n := 64 - b.queue.length
  { b with queue := b.queue ++ b.coming.take n, coming := b.coming.drop n }

/-- A request arrives at the bank. -/
def BankQ.push (b : BankQ) (q : BReq) : BankQ := ({ b with coming := b.coming ++ [q] }).letIn

/-- A request has left the bank, from its queue or, where replay lets it go before those, from the mesh. -/
def BankQ.pop (b : BankQ) (q : BReq) : BankQ :=
  (if b.queue.contains q then { b with queue := b.queue.erase q } else { b with coming := b.coming.erase q }).letIn

/-- Put a request before the first one for its ell. -/
def beforeEll (q : BReq) (l : List BReq) : List BReq :=
  l.takeWhile (fun x => x.ell != q.ell) ++ q :: l.dropWhile (fun x => x.ell != q.ell)

/-- A request that is sent again arrives; it goes before later ones for its ell, since it arrived first (R187, R203). -/
def BankQ.pushAgain (b : BankQ) (q : BReq) : BankQ :=
  let l := beforeEll q (b.queue ++ b.coming)
  ({ b with queue := l.take b.queue.length, coming := l.drop b.queue.length }).letIn

/-- The queues of a bank. -/
def Tent.bank (t : Tent) (b : Nat) : BankQ := Assoc.get {} t.banks b
/-- Change the queues of a bank. -/
def Tent.modBank (t : Tent) (b : Nat) (f : BankQ → BankQ) : Tent := { t with banks := Assoc.put t.banks b (f (t.bank b)) }

/-- A request goes to the bank of its ell's home bushel (R189). -/
def State.sendBushel (s : State) (q : BReq) : State :=
  s.modTent (homeTent q.ell) (fun t => t.modBank (bushelBank q.ell) (fun b => b.push q))

/-- The requests that wait at a bank. -/
def BankQ.all (b : BankQ) : List BReq := b.queue ++ b.coming ++ b.overflow

/-- The requests that wait anywhere at a tent's bushel. -/
def Tent.requests (t : Tent) : List BReq :=
  t.banks.flatMap (fun b => b.2.all) ++ t.miss.flatMap (fun m => m.2.waiters) ++ t.refused.map (·.req)

/-- Does the request wait at the bushel? -/
def Tent.asked (t : Tent) (q : BReq) : Bool := t.requests.any q.same

/-- Who waits for writes that are not performed. -/
def State.writers (s : State) : List WrWho :=
  s.hub.hostWrites.map (·.who) ++ s.tents.flatMap (fun t => t.2.requests.filterMap (fun q => q.kind.writer?))

/-- Is a write of the given origin still to be performed? -/
def State.writesLeft (s : State) (who : WrWho) : Bool := s.writers.contains who

/-! ### Miss registers (R186, R187) -/

/-- Is a fetch of the ell in progress (R186, R201)? -/
def Tent.fetching (t : Tent) (ell : Nat) : Bool := t.miss.any (fun p => p.2.ell == ell)

/-- Does the request wait in a miss register's list? -/
def Tent.waiting (t : Tent) (q : BReq) : Bool := t.miss.any (fun m => m.2.ell == q.ell && m.2.waiters.any q.same)

/-- The DRAM bank of an ell, numbered over the device; host ells use none. -/
def bankKey (ell : Nat) : Option Nat := if isHostEll ell then none else some ((placeOf ell).channel * 64 + dramBank ell)

/-- Does the register hold a read slot? -/
def MissReg.hasSlot (m : MissReg) : Bool := match m.st with | .issued => true | .returning l => !l.isEmpty | _ => false

/-- Miss registers of a DRAM bank. -/
def Tent.bankRegs (t : Tent) (k : Option Nat) : Nat := match k with
  | none => 0
  | some _ => (t.miss.filter (fun m => bankKey m.2.ell == k)).length
/-- Read slots that a DRAM bank holds. -/
def Tent.bankSlots (t : Tent) (k : Option Nat) : Nat := match k with
  | none => 0
  | some _ => (t.miss.filter (fun m => bankKey m.2.ell == k && m.2.hasSlot)).length
/-- Read slots that a channel holds. -/
def Tent.chanSlots (t : Tent) (chan : Nat) : Nat :=
  (t.miss.filter (fun m => !isHostEll m.2.ell && (placeOf m.2.ell).channel == chan && m.2.hasSlot)).length
/-- Entries of the waiter pool in use. -/
def Tent.waiters (t : Tent) : Nat := (t.miss.map (fun m => m.2.waiters.length)).foldl (· + ·) 0

/-- What the waiter pool says to one more entry: room, wait in the bank's queue, or refusal (R187). -/
inductive PoolSays where
  | room | wait | refuse
deriving DecidableEq, Repr

/-- The waiter pool of 32,768 entries, 4,096 of them reserved for DRAM banks below their cap (R187). -/
def Tent.pool (t : Tent) (k : Option Nat) : PoolSays :=
  let n := t.waiters
  if t.bankSlots k < 32 then (if n < 32768 then .room else .wait) else (if n < 28672 then .room else .refuse)

/-- The place of a request among the misses: that of its first arrival (R188). -/
def State.placed (s : State) (tent : Nat) (q : BReq) : State × Nat :=
  match q.place with
  | some n => (s, n)
  | none => let n := (s.tent tent).nextOrder; (s.modTent tent (fun t => { t with nextOrder := n + 1 }), n)

/-- Refuse a request: it is sent again, in order of first arrival for its DRAM bank (R187). -/
def State.refuse (s : State) (tent : Nat) (q : BReq) : State :=
  let (s, n) := s.placed tent q
  let s := s.modTent tent (fun t => { t with refused := t.refused ++ [⟨(bankKey q.ell).getD 0, n, { q with place := some n }⟩] })
  s.modTentCounters tent (fun c => { c with refusedSends := bump c.refusedSends 1 })

/-- A request waits in the overflow queue of its bank, or is refused when that is full (R187, R190). -/
def State.overflowMiss (s : State) (tent bank : Nat) (q : BReq) : State :=
  if ((s.tent tent).bank bank).overflow.length < 64 then
    let (s, n) := s.placed tent q
    let s := s.modTent tent (fun t => t.modBank bank (fun b => { b with overflow := b.overflow ++ [{ q with place := some n }] }))
    if isHostEll q.ell then s
    else s.modChanCounters (placeOf q.ell).channel (fun c => { c with missCapEvents := bump c.missCapEvents 1 })
  else s.refuse tent q

/-- A free miss register for a request whose ell is not being fetched (R186); `none`: there is no register for it, or no entry of the waiter
pool. -/
def Tent.freeReg? (t : Tent) (q : BReq) : Option Nat :=
  if 512 ≤ t.bankRegs (bankKey q.ell) ∨ t.pool (bankKey q.ell) ≠ .room then none else Assoc.firstFree t.miss 0 4096

/-- A miss register is taken: `copy` is what is held of the ell, `frame` the frame reserved. -/
def State.openMiss (s : State) (tent reg : Nat) (q : BReq) (copy : EllCopy) (frame : Option Nat) : State :=
  let (s, order) := s.placed tent q
  let m : MissReg := { ell := q.ell, copy, frame, bypass := q.kind.noAlloc, order, waiters := [q] }
  s.modTent tent (fun t => { t with miss := Assoc.put t.miss reg m })

/-- A request joins the waiter list of a fetch in progress (R186). -/
def State.joinReg (s : State) (tent : Nat) (q : BReq) : State :=
  let s := s.modTent tent (fun t => { t with miss := Assoc.mapVals (fun _ (m : MissReg) =>
    if m.ell = q.ell then { m with waiters := m.waiters ++ [q], bypass := m.bypass && q.kind.noAlloc } else m) t.miss })
  s.modTentCounters tent (fun c => { c with merged := bump c.merged 1 })

end Sys2Proof.Machine
end

