-- ==== Sys2Proof/Machine/Frames.lean ====
section
/-!
DEFINITION. The frames of a bushel: one ell as a frame holds it, its header, write-back, eviction, header frames and aligned pairs (R179 to
R184, R193, R194, R201 to R203, R214 to R219, R224 to R230).
-/

namespace Sys2Proof.Machine

/-! ### One ell as a frame holds it -/

/-- Bit g of a grain map. -/
def mapBit (m : W16) (g : Nat) : Bool := m.getLsbD g
/-- Set bit g. -/
def setBit (m : W16) (g : Nat) : W16 := m ||| (1#16 <<< g)
/-- Clear bit g. -/
def clearBit (m : W16) (g : Nat) : W16 := m &&& ~~~(1#16 <<< g)
/-- The grain map of a property of grains. -/
def grainMap (p : Nat → Bool) : W16 := (List.range 16).foldl (fun m g => if p g then setBit m g else m) 0

/-- The 64 bytes of grain g of an ell copy; of a grain whose data is not held, zeros. -/
def EllCopy.grain (c : EllCopy) (g : Nat) : List Byte := Mem.readBytes c.data (64 * g) 64
/-- Put the 64 bytes of grain g. -/
def EllCopy.setGrain (c : EllCopy) (g : Nat) (bs : List Byte) : EllCopy := { c with data := Mem.writeBytes c.data (64 * g) bs }

/-- Does the copy belong to the requester's key and generation (R184, R230)? Host ells belong to every requester. -/
def EllCopy.owned (c : EllCopy) (key gen : Nat) : Bool := isHostEll c.ell || (c.owner == key && c.gen == gen)

/-- Is the grain held, as data or as a zero grain (R181)? -/
def EllCopy.holds (c : EllCopy) (g : Nat) : Bool := mapBit c.present g || mapBit c.zero g
/-- Is there nothing of the grain to be fetched: it is held, or dead (R219)? -/
def EllCopy.has (c : EllCopy) (g : Nat) : Bool := c.holds g || mapBit c.dead g
/-- Every grain is held or dead: nothing is left to be fetched. -/
def EllCopy.whole (c : EllCopy) : Bool := (c.present ||| c.dead ||| c.zero) == 0xFFFF

/-- The bytes that a read delivers: zeros unless data came. -/
def GrainRead.bytes : GrainRead → List Byte
  | .ok bs => bs
  | _ => zeroGrain

/-- Read grain g of a copy that has it. -/
def EllCopy.read (c : EllCopy) (key gen g : Nat) : GrainRead :=
  if !c.owned key gen then .ok zeroGrain
  else match Assoc.find? c.bad g with
    | some r => .bad r
    | none => if c.holds g then .ok (c.grain g) else .dead

/-- The zero image that a takeover or an atomic on a foreign ell works on (R230). -/
def EllCopy.taken (c : EllCopy) (key gen : Nat) : EllCopy :=
  if c.owned key gen then c else { ell := c.ell, owner := key, gen, zero := 0xFFFF, size := c.size }

/-- The bytes a write of part of grain g, or an atomic on it, starts from: zeros for a dead grain not held and for a poisoned grain. -/
def EllCopy.base (c : EllCopy) (g : Nat) : List Byte :=
  if (Assoc.find? c.bad g).isSome || !mapBit c.present g then zeroGrain else c.grain g

/-- Write bytes into grain g, whose other bytes are held or zero (R171, R194, R230, R239): the grain becomes dirty, no longer dead and
no longer poisoned. -/
def EllCopy.write (c : EllCopy) (key gen g : Nat) (bs : List (Nat × Byte)) : EllCopy :=
  let c := c.taken key gen
  { c.setGrain g (mergeGrain (c.base g) bs) with
      present := setBit c.present g, dirty := setBit c.dirty g, dead := clearBit c.dead g, zero := clearBit c.zero g, fold := false
      bad := Assoc.del c.bad g }

/-! ### Key slots -/

/-- A key slot; one never used has generation 1 (DESIGN CHOICE). -/
def Hub.keySlot (h : Hub) (k : Nat) : KeySlot := Assoc.get { gen := h.slotGen, ceiling := h.slotCeil } h.keySlots k
/-- The current generation of a key slot (R229). -/
def State.keyGen (s : State) (k : Nat) : Nat := (s.hub.keySlot k).gen

/-- The keys under which an ell of an owner and generation is stored (R224). Ells without an owner, which the device alone writes, are
stored under the zero keys (DESIGN CHOICE: the manual names none); so is what no key opens any more. -/
def State.ownerKey (s : State) (owner gen : Nat) : OwnerKey :=
  let k := s.hub.keySlot owner
  if gen ≠ 0 ∧ k.gen = gen then ⟨k.k1, k.k2, k.k3⟩ else {}

/-! ### DRAM -/

/-- The ell as the module holds it. -/
def State.dramEll (s : State) (e : Nat) : DramEll := Assoc.get defaultEll s.dram e

/-- Put an ell of the module. -/
def State.setDram (s : State) (e : Nat) (d : DramEll) : State := { s with dram := Assoc.put s.dram e d }

/-- A row of a DRAM bank is open. -/
def State.rowOpened (s : State) (chan bank row : Nat) : State :=
  s.modChan chan (fun c => { c with rowOpen := Assoc.put c.rowOpen bank row })

/-- The row that holds an ell's header is open (R211, R213). -/
def State.openHeaderRow (s : State) (e : Nat) : State :=
  let h := headerPlace e
  s.rowOpened (placeOf e).channel h.1 h.2.1

/-- One ell access counts by the state it finds its data row in, and leaves that row open, with `tags` the row of its tags too (R209, R213,
R238). -/
def State.openRow (s : State) (e : Nat) (tags : Bool) : State :=
  let p := placeOf e
  let b := dramBank e
  let s := s.modChanCounters p.channel (fun k =>
    match Assoc.find? (s.chan p.channel).rowOpen b with
    | some r => if r = p.row then { k with openRow := bump k.openRow 1 } else { k with otherRow := bump k.otherRow 1 }
    | none => { k with closedRow := bump k.closedRow 1 })
  let s := s.rowOpened p.channel b p.row
  let t := tagPlace e
  if tags then s.rowOpened p.channel t.1 t.2.1 else s

/-- Count grains that a channel has read and written (R238). -/
def State.countMoved (s : State) (e read written : Nat) : State :=
  s.modChanCounters (placeOf e).channel (fun k => { k with grainsRead := bump k.grainsRead read, grainsWritten := bump k.grainsWritten written })

/-- The tag grains that cover some slots: one for the even and one for the odd slots (R213, R215). -/
def tagGrains (slots : List Nat) : Nat := (slots.any (· % 2 == 0)).toNat + (slots.any (· % 2 == 1)).toNat

/-! ### Frames -/

/-- The frame keys of a set. -/
def waysOf (set : Nat) : List Nat := (List.range 16).map (fun w => set * 16 + w)

/-- The frame that holds an ell. -/
def Tent.frameOf? (t : Tent) (ell : Nat) : Option Nat :=
  (waysOf (bushelSet ell)).find? (fun k =>
    match Assoc.find? t.frames k with
    | some ⟨.ells l, _⟩ => l.any (fun c => c.ell == ell)
    | _ => false)

/-- The copy of an ell that a frame holds. -/
def Tent.copyOf? (t : Tent) (ell : Nat) : Option EllCopy :=
  match t.frameOf? ell with
  | some k =>
    match Assoc.find? t.frames k with
    | some ⟨.ells l, _⟩ => l.find? (fun c => c.ell == ell)
    | _ => none
  | none => none

/-- Some frames become Free, or hold less: `keep` says what each of them holds on. -/
def Tent.filterFrames (t : Tent) (keep : Nat × Frame → Option (Nat × Frame)) : Tent :=
  let frames := t.frames.filterMap keep
  { t with frames, chosen := t.chosen.filter (fun c => (Assoc.find? frames c.2.frame).isSome) }

/-- The frame's recency becomes the newest. -/
def Tent.touch (t : Tent) (k : Nat) : Tent :=
  match Assoc.find? t.frames k with
  | some f => { t with frames := Assoc.put t.frames k { f with used := t.tick }, tick := t.tick + 1 }
  | none => t

/-- May the frame be evicted (R201)? -/
def Tent.evictable (t : Tent) (k : Nat) : Bool :=
  match Assoc.find? t.frames k with
  | some ⟨.ells l, _⟩ => !(l.any (fun c => t.fetching c.ell))
  | some ⟨.header _ _ _ _, _⟩ => true
  | _ => false

/-- The least recently used of some frames. -/
def Tent.oldest? (t : Tent) (ks : List Nat) : Option Nat :=
  ks.foldl (fun best k =>
    match best, Assoc.find? t.frames k with
    | none, some _ => some k
    | some b, some f => match Assoc.find? t.frames b with
      | some g => if f.used < g.used then some k else some b
      | none => some k
    | b, none => b) none

/-- The requests queued in its bank that hit a Dirty frame: they are served before it is written back (R203). -/
def Tent.dirtyHits (t : Tent) (k : Nat) : List BReq :=
  match Assoc.find? t.frames k with
  | some ⟨.ells l, _⟩ =>
    if l.any (fun c => c.dirty != 0) then (t.bank (bankOfSet (k / 16))).queue.filter (fun q => l.any (fun c => c.ell == q.ell)) else []
  | _ => []

/-- The frame of a set that is to be evicted: the least recently used of the evictable ones, `avoid` apart, which keeps its turn until the
requests that hit it when it was chosen have been served (R186, R203). `none`: there is none, or it waits for them. -/
def State.choose (s : State) (tent set : Nat) (avoid : List Nat) : State × Option Nat :=
  let t := s.tent tent
  let may (k : Nat) : Bool := t.evictable k && !avoid.contains k
  let pick : Option Chosen := ((Assoc.find? t.chosen set).filter (fun c => may c.frame)).or
    ((t.oldest? ((waysOf set).filter may)).map (fun k => ⟨k, t.dirtyHits k⟩))
  match pick with
  | none => (s, none)
  | some c =>
    let left := c.hits.filter (fun q => (t.bank (bankOfSet set)).queue.contains q)
    (s.modTent tent (fun t => { t with chosen := Assoc.put t.chosen set { c with hits := left } }), if left.isEmpty then some c.frame else none)

/-- A Free frame of a set. -/
def Tent.free? (t : Tent) (set : Nat) : Option Nat := (waysOf set).find? (fun k => (Assoc.find? t.frames k).isNone)

/-- Put a frame, as the most recently used. -/
def State.putFrame (s : State) (tent k : Nat) (kind : FrameKind) : State :=
  s.modTent tent (fun t => { t with frames := Assoc.put t.frames k ⟨kind, t.tick⟩, tick := t.tick + 1 })

/-- A frame becomes Free. -/
def State.dropFrame (s : State) (tent k : Nat) : State :=
  s.modTent tent (fun t => { t with
    frames := Assoc.del t.frames k
    chosen := if (Assoc.find? t.chosen (k / 16)).any (fun c => c.frame == k) then Assoc.del t.chosen (k / 16) else t.chosen })

/-! ### Headers (R183, R214) -/

/-- The frame that holds the headers of local ells 16m to 16m + 15. -/
def Tent.headerAt? (t : Tent) (m : Nat) : Option Nat :=
  (waysOf (m % 12288)).find? (fun k => match Assoc.find? t.frames k with | some ⟨.header n _ _ _, _⟩ => n == m | _ => false)

/-- The header of a device ell: as its header frame holds it, else as the module does. -/
def State.header (s : State) (e : Nat) : EllHeader :=
  let t := s.tent (homeTent e)
  let p := headerFrame e
  match (t.headerAt? p.1).bind (Assoc.find? t.frames) with
  | some ⟨.header _ hs _ _, _⟩ => Assoc.get {} hs p.2
  | _ => (s.dramEll e).hdr

/-- Change the header frame of an ell, if it is in the bushel. -/
def State.modHeaderFrame (s : State) (e : Nat) (f : FMap EllHeader → W16 → W16 → FrameKind) : State :=
  s.modTent (homeTent e) (fun t =>
    match t.headerAt? (headerFrame e).1 with
    | some k => match Assoc.find? t.frames k with
      | some ⟨.header _ hs ch ck, u⟩ => { t with frames := Assoc.put t.frames k ⟨f hs ch ck, u⟩ }
      | _ => t
    | none => t)

/-- Write a header with its tag to the module (R219, R227). -/
def State.putDramHeader (s : State) (e : Nat) (h : EllHeader) : State :=
  ((s.setDram e ((s.dramEll e).putHeader s.boot.metaKey e h)).countMoved e 0 1).openHeaderRow e

/-- Write an ell's header: into its header frame, which is written back when it is evicted, else to the module. -/
def State.putHeader (s : State) (e : Nat) (h : EllHeader) : State :=
  let p := headerFrame e
  if ((s.tent (homeTent e)).headerAt? p.1).isSome then
    s.modHeaderFrame e (fun hs ch ck => .header p.1 (Assoc.put hs p.2 h) (setBit ch p.2) ck)
  else s.putDramHeader e h

/-- The copy of an ell before any of its data is held: what its header says (R183). -/
def State.headerCopy (s : State) (e : Nat) : EllCopy :=
  if isHostEll e then { ell := e, owner := 0, gen := 0 }
  else
    let h := s.header e
    { ell := e, owner := h.owner, gen := h.gen, dead := h.dead, zero := h.zero &&& ~~~h.dead, fold := h.fold, bad := (s.dramEll e).bad }

/-! ### Write-back and eviction (R202, R216 to R219) -/

/-- Does the copy differ from what header and module hold? A host ell is never dirty (R185). -/
def State.unsaved (s : State) (c : EllCopy) : Bool :=
  let h := s.header c.ell
  !isHostEll c.ell && (c.dirty != 0 || c.dead != h.dead || c.fold != h.fold)

/-- Does a copy lack grains that have to be stored again with its dirty ones? They are fetched before it is written back (R166, R202). -/
def State.lacks (s : State) (c : EllCopy) : Bool := s.unsaved c && c.dirty != 0 && (List.range 16).any (fun g => !c.has g)

/-- The plaintext of an ell as it is stored again: its live grains (R202, R230). -/
def EllCopy.plainData (c : EllCopy) : Mem :=
  (List.range 16).foldl (fun m g => if mapBit c.dead g then m else Mem.writeBytes m (64 * g) (c.grain g)) []

/-- Store a copy's live grains, compressed, encrypted and tagged, if one of them is dirty, and its header if it has changed (R202, R216 to
R219, R225, R226). The copy lacks no grain. -/
def State.storeEll (s : State) (c : EllCopy) : State :=
  let h := s.header c.ell
  if !s.unsaved c then s
  else if c.dirty = 0 then s.putHeader c.ell { h with dead := c.dead, fold := c.fold }
  else
    let data := c.plainData
    let z := compress data
    let new : EllHeader :=
      { owner := c.owner, gen := c.gen, stored := z.stored, form := z.form, wmap := z.wmap, fold := c.fold, zero := z.zero, dead := c.dead }
    let d := (s.dramEll c.ell).putSlots (s.ownerKey c.owner c.gen) c.ell c.gen (storedBytes z.form z.stored data) z.stored
    let s := s.setDram c.ell { d with bad := c.bad }
    let s := s.modChan (placeOf c.ell).channel (fun x =>
      { x with writes := x.writes ++ [c.ell]
               counters := { x.counters with storedForm := Assoc.put x.counters.storedForm z.stored
                                               (satAdd 64 (Assoc.get 0 x.counters.storedForm z.stored) 1) } })
    let s := (s.countMoved c.ell 0 (z.stored + tagGrains (List.range z.stored))).openRow c.ell (decide (0 < z.stored))
    if new = h then s else s.putHeader c.ell new

/-- The request for all of an ell that is to be stored again. -/
def EllCopy.fillReq (c : EllCopy) : BReq := { ring := 0, ctx := 0, key := c.owner, gen := c.gen, ell := c.ell, grain := 0, kind := .fill }

/-- A frame's ell is fetched whole, so that it can be written back. -/
def State.askFill (s : State) (c : EllCopy) : State :=
  let tent := homeTent c.ell
  let t := s.tent tent
  if t.fetching c.ell then s
  else match t.freeReg? c.fillReq with
    | some reg => s.openMiss tent reg c.fillReq c (t.frameOf? c.ell)
    | none => s

/-- Write back the changed headers of a header frame (R202). -/
def State.storeHeaders (s : State) (tent m : Nat) (hs : FMap EllHeader) (changed : W16) : State :=
  (List.range 16).foldl (fun s k =>
    if mapBit changed k then s.putDramHeader (ellOfLocal tent (16 * m + k)) (Assoc.get {} hs k) else s) s

/-- Evict a frame: it is Free, and what it held is written back (R202). `bring` fetches the header frame that a write-back needs (R183)
without evicting the frames named. The answer is false, and the frame stays, while that or a fetch of absent grains has to be waited for. -/
def State.evictWith (bring : State → List Nat → Nat → State × Bool) (s : State) (tent k : Nat) (avoid : List Nat) : State × Bool :=
  match Assoc.find? (s.tent tent).frames k with
  | some ⟨.ells l, _⟩ =>
    let lacking := l.filter s.lacks
    if !lacking.isEmpty then (lacking.foldl State.askFill s, false)
    else
      let (s, ok) := match l.find? s.unsaved with | some c => bring s (k :: avoid) c.ell | none => (s, true)
      if !ok then (s, false)
      else (l.foldl (fun (s : State) c => (s.storeEll c).jrnEvict c.ell) (s.dropFrame tent k), true)
  | some ⟨.header m hs ch _, _⟩ => ((s.dropFrame tent k).storeHeaders tent m hs ch, true)
  | _ => (s, false)

/-- The headers of a header frame, as the module holds them. -/
def State.readHeaders (s : State) (tent m : Nat) : FMap EllHeader :=
  (List.range 16).foldl (fun hs k => match Assoc.find? s.dram (ellOfLocal tent (16 * m + k)) with
    | some d => Assoc.put hs k d.hdr
    | none => hs) []

/-- The header frame of a device ell is brought in (R183): it takes the place of the older of two header frames of its set, else a Free
frame, else the frame that is to be evicted, which may need a header frame in its turn. The answer is false while no frame can be had.
`fuel` bounds the evictions that lead to one another, each of a frame of its own. -/
def State.bringHeader (fuel : Nat) (s : State) (avoid : List Nat) (e : Nat) : State × Bool :=
  match fuel with
  | 0 => (s, false)
  | n + 1 =>
    let tent := homeTent e
    let m := (headerFrame e).1
    let set := m % 12288
    let t := s.tent tent
    match t.headerAt? m with
    | some k => (s.modTent tent (fun t => t.touch k), true)
    | none =>
      let hdrs := (waysOf set).filter (fun k => match Assoc.find? t.frames k with | some ⟨.header _ _ _ _, _⟩ => true | _ => false)
      let evict (s : State) (k : Option Nat) : State × Bool := match k with
        | some k => s.evictWith (fun s a e => s.bringHeader n a e) tent k avoid
        | none => (s, false)
      let (s, ready) :=
        if 2 ≤ hdrs.length then evict s (t.oldest? hdrs)
        else if (t.free? set).isSome then (s, true)
        else let (s, k) := s.choose tent set avoid; evict s k
      match (if ready then (s.tent tent).free? set else none) with
      | some k => (((s.putFrame tent k (.header m (s.readHeaders tent m) 0 0)).countMoved e 16 0).openHeaderRow e, true)
      | none => (s, false)

/-- The header frame that a fill or an access needs, without evicting the frames named; host ells have no header. -/
def State.needHeader (s : State) (avoid : List Nat) (e : Nat) : State × Bool :=
  if isHostEll e then (s, true) else s.bringHeader ((s.tent (homeTent e)).frames.length + 1) avoid e

/-- A free frame of a set: one that is Free, else the one that is evicted, which is none of those named (R186). -/
def State.freeFrame (s : State) (tent set : Nat) (avoid : List Nat) : State × Option Nat :=
  match (s.tent tent).free? set with
  | some k => (s, some k)
  | none =>
    match s.choose tent set avoid with
    | (s, none) => (s, none)
    | (s, some k) =>
      let (s, ok) := s.evictWith (fun s a e => s.needHeader a e) tent k avoid
      (s, if ok then (s.tent tent).free? set else none)

/-! ### Ells in frames -/

/-- Put a copy into a frame: with its partner when both stored forms are 512 B or less (R182), else in a frame of its own. -/
def State.install (s : State) (c : EllCopy) : State × Bool :=
  let tent := homeTent c.ell
  let t := s.tent tent
  let pairWith : Option (Nat × EllCopy) :=
    match t.frameOf? (partner c.ell) with
    | some k =>
      match Assoc.find? t.frames k with
      | some ⟨.ells [d], _⟩ => if d.size ≤ 512 ∧ c.size ≤ 512 ∧ !isHostEll c.ell ∧ !t.fetching d.ell then some (k, d) else none
      | _ => none
    | none => none
  match pairWith with
  | some (k, d) => (s.putFrame tent k (.ells (if c.ell % 2 = 0 then [c, d] else [d, c])), true)
  | none =>
    let (s, k) := s.freeFrame tent (bushelSet c.ell) []
    match k with
    | some k => (s.putFrame tent k (.ells [c]), true)
    | none => (s, false)

/-- Put back a copy that a frame holds, without touching the frame's recency. -/
def State.setCopy (s : State) (c : EllCopy) : State :=
  let tent := homeTent c.ell
  s.modTent tent (fun t =>
    match t.frameOf? c.ell with
    | some k =>
      match Assoc.find? t.frames k with
      | some ⟨.ells l, u⟩ => { t with frames := Assoc.put t.frames k ⟨.ells (l.map (fun d => if d.ell = c.ell then c else d)), u⟩ }
      | _ => t
    | none => t)

/-- The frame key of an ell that shares its frame with its partner, and the partner's copy. -/
def Tent.pairOf? (t : Tent) (ell : Nat) : Option (Nat × EllCopy) :=
  (t.frameOf? ell).bind (fun k => match Assoc.find? t.frames k with
    | some ⟨.ells [a, b], _⟩ => some (k, if a.ell = ell then b else a)
    | _ => none)

/-- Bytes of a copy's stored form, by which it shares a frame with its partner (R181, R182). -/
def EllCopy.packed (c : EllCopy) : Nat := 64 * (compress c.data).stored

/-- Every grain of the copy is dead or zero (R193). -/
def EllCopy.zeroAt (c : EllCopy) (g : Nat) : Bool := mapBit c.zero g || mapBit c.present g && isZeroGrain (c.grain g)
/-- Is every grain dead or zero, so that the frame part of the ell is freed (R193)? -/
def EllCopy.spent (c : EllCopy) : Bool := (List.range 16).all (fun g => mapBit c.dead g || c.zeroAt g)

/-- What a changed copy needs before it is put back, `dead` after a .DEAD read: a frame for the partner that it no longer fits with (R182),
or the header frame that is written when its frame is freed (R193), or when it goes back to the module at once. -/
def State.prepare (s : State) (c : EllCopy) (dead : Bool) : State × Bool :=
  let tent := homeTent c.ell
  let t := s.tent tent
  match t.frameOf? c.ell with
  | some k =>
    if dead && c.spent then s.needHeader [k] c.ell
    else if (t.pairOf? c.ell).isSome && decide (512 < c.packed) then
      match s.freeFrame tent (bushelSet c.ell) [k] with
      | (s, k2) => (s, k2.isSome)
    else (s, true)
  | none => if s.unsaved c then s.needHeader [] c.ell else (s, true)

/-- Put back a copy that has been written: alone it is now held uncompressed, in a pair it stays packed while it fits; one that does not
fit is split off, and its partner moves to a frame of its own (R182). -/
def State.putWritten (s : State) (c : EllCopy) : State :=
  let tent := homeTent c.ell
  let t := s.tent tent
  match t.pairOf? c.ell with
  | none => s.setCopy { c with size := 1024 }
  | some (k, other) =>
    match (if 512 < c.packed then t.free? (bushelSet c.ell) else none) with
    | none => s.setCopy { c with size := c.packed }
    | some k2 =>
      let u := ((Assoc.find? t.frames k).map (·.used)).getD 0
      let s := s.modTent tent (fun t => { t with frames := Assoc.put t.frames k ⟨.ells [{ c with size := 1024 }], u⟩ })
      (s.putFrame tent k2 (.ells [other])).modTentCounters tent (fun c => { c with pairSplits := bump c.pairSplits 1 })

/-- Free the frame part of an ell whose 16 grains are all dead or zero: no data slot is written back, the header is (R193). A host ell has no
header. -/
def State.dropDead (s : State) (c : EllCopy) : State :=
  if !c.spent then s
  else
    let tent := homeTent c.ell
    let h := s.header c.ell
    let same : Bool := h.owner == c.owner && h.gen == c.gen
    let s := if isHostEll c.ell then s
      else
        let s := s.putHeader c.ell { h with
          owner := c.owner, gen := c.gen, dead := c.dead, zero := grainMap (fun g => c.zeroAt g || same && mapBit h.zero g), fold := c.fold }
        s.setDram c.ell { s.dramEll c.ell with bad := c.bad }
    match (s.tent tent).frameOf? c.ell with
    | some k =>
      match Assoc.find? (s.tent tent).frames k with
      | some ⟨.ells l, u⟩ =>
        let rest := l.filter (fun x => x.ell != c.ell)
        if rest.isEmpty then (s.dropFrame tent k).modTentCounters tent (fun k => { k with deadDrops := bump k.deadDrops 1 })
        else s.modTent tent (fun t => { t with frames := Assoc.put t.frames k ⟨.ells rest, u⟩ })
      | _ => s
    | none => s

end Sys2Proof.Machine
end

