-- ==== Sys2Proof/Machine/Misses.lean ====
section
/-!
DEFINITION. How a bank serves a request on what it holds, sends it to a miss register, its overflow queue or back, and puts changed copies
back (R29, R182, R185 to R193, R201 to R203, R207, R230, R355, R366).
-/

namespace Sys2Proof.Machine

/-! ### Misses (R186, R187) -/

/-- A frame is reserved for a fetch: it is Filling (R186, R202). -/
def State.reserve (s : State) (tent ell : Nat) : State × Option Nat :=
  let (s, k) := s.freeFrame tent (bushelSet ell) []
  match k with
  | some k => (s.putFrame tent k (.filling ell), some k)
  | none => (s, none)

/-- A miss takes a free miss register and reserves a frame; a register whose set has no evictable frame is kept and reserves one when it is
issued (R186). The answer is false when there is no register, or no entry of the waiter pool, for it. -/
def State.takeReg (s : State) (tent : Nat) (q : BReq) : State × Bool :=
  let t := s.tent tent
  match t.freeReg? q with
  | none => (s, false)
  | some reg =>
    match t.copyOf? q.ell with
    | some c => (s.openMiss tent reg q c (t.frameOf? q.ell), true)
    | none =>
      let c := s.headerCopy q.ell
      let (s, frame) := if q.kind.noAlloc then (s, none) else s.reserve tent q.ell
      -- an eviction may have taken the register for a fetch of its own
      match (s.tent tent).freeReg? q with
      | some reg => (s.openMiss tent reg q c frame, true)
      | none => (match frame with | some k => s.dropFrame tent k | none => s, false)

/-- A request joins the fetch in progress of its ell, or takes a register as a miss; `false`: it cannot now (R186, R187). -/
def State.enterReg (s : State) (tent : Nat) (q : BReq) : State × Bool :=
  let t := s.tent tent
  if t.fetching q.ell then (if t.pool (bankKey q.ell) = .room then (s.joinReg tent q, true) else (s, false))
  else s.takeReg tent q

/-- What becomes of a request that is no hit (R187): it enters a register; a miss to a DRAM bank with 512 of them goes to the overflow queue
or is refused; one that finds only the reserve of the waiter pool is refused; any other waits in the bank's queue. The answer tells whether
it has left that queue. -/
def State.missed (s : State) (tent bank : Nat) (q : BReq) : State × Bool :=
  match s.enterReg tent q with
  | (s, true) => (s, true)
  | (s, false) =>
    let t := s.tent tent
    let k := bankKey q.ell
    if !t.fetching q.ell && decide (512 ≤ t.bankRegs k) then (s.overflowMiss tent bank q, true)
    else if t.pool k = .refuse then (s.refuse tent q, true)
    else (s, false)

/-! ### Whether a request may be served now -/

/-- The request as it stands to an ell: the device's own accesses use the key of the ell's owner, while it is in force (DEDUCED: the manual
gives them no key). -/
def State.keyed (s : State) (c : EllCopy) (q : BReq) : BReq :=
  if q.key = deviceKey then { q with key := c.owner, gen := if c.gen = 0 then 0 else s.keyGen c.owner } else q

/-- Has the ell's header been compared with its tag since its header frame was read? -/
def State.headerChecked (s : State) (e : Nat) : Bool :=
  let t := s.tent (homeTent e)
  let p := headerFrame e
  match (t.headerAt? p.1).bind (Assoc.find? t.frames) with
  | some ⟨.header _ _ _ ck, _⟩ => mapBit ck p.2
  | _ => isHostEll e

/-- Can the request be performed on the copy: what it reads is held or dead, it reads nothing, or the ell belongs to another owner (R230)?
Without a frame to hold it, a write of its owner needs the whole ell, which is stored again at once (R202). -/
def EllCopy.readyFor (c : EllCopy) (q : BReq) (framed : Bool) : Bool :=
  !c.owned q.key q.gen ||
    ((if q.kind.onImage then c.whole else c.has q.grain || q.kind.whole) && (framed || !q.kind.writes || isHostEll c.ell || c.whole))

/-- Is device memory unavailable, because a channel has failed (R207)? -/
def State.memoryFailed (s : State) : Bool := s.chans.any (fun c => match c.2.train with | .failed _ => true | _ => false)

/-- Is the ell's drain bit set? Then it moves to the front of its tent's drain order, and the access waits (R366). -/
def State.drainHeld (s : State) (ell : Nat) : State × Bool :=
  if (Assoc.find? s.hub.drainMap ell).isSome then
    (s.modHub (fun h => { h with drainFront := if h.drainFront.contains ell then h.drainFront else h.drainFront ++ [ell] }), true)
  else (s, false)

/-- May the request be performed as far as the host is concerned (R355)? What works on the image needs every grain of it. -/
def State.clearFor (s : State) (q : BReq) : State × Bool :=
  let g := grainOfEll q.ell q.grain
  match q.kind with
  | .write .host _ | .fill | .redAdd _ => (s, true)
  | .redFold _ | .fold =>
    (List.range 16).foldl (fun (acc : State × Bool) i =>
      let (s, ok) := acc.1.clearForWrite (grainOfEll q.ell i)
      (s, acc.2 && ok)) (s, true)
  | k => if k.ofHost then (s, !s.hub.backPending g) else if k.writes then s.clearForWrite g else s.clearForRead g

/-- May the request be served: device memory is there, the host has been snooped, and no drain holds it (R207, R355, R366)? Modified data
that the host gives back in answer to a snoop is part of what the drain reads. -/
def State.mayServe (s : State) (q : BReq) : State × Bool :=
  if !isHostEll q.ell && s.memoryFailed then (s, false)
  else
    let (s, clear) := s.clearFor q
    if !clear then (s, false)
    else
      let back : Bool := match q.kind with | .write .host _ => true | _ => false
      if (q.kind.writes || q.kind.isDead) && !back then
        let (s, held) := s.drainHeld q.ell
        (s, !held)
      else (s, true)

/-- Does an earlier request for the ell wait in the overflow queue, or to be sent again? Requests for one ell are served in the order of
their arrival (R29, R83, R203). -/
def Tent.behind (t : Tent) (bank ell : Nat) : Bool :=
  (t.bank bank).overflow.any (fun x => x.ell == ell) || t.refused.any (fun r => r.req.ell == ell)

/-- A request goes behind an earlier one for its ell that waits: to the overflow queue, or to be sent again (R187, R203). -/
def State.goBehind (s : State) (tent bank : Nat) (q : BReq) : State :=
  if (s.tent tent).refused.any (fun r => r.req.ell == q.ell) then s.refuse tent q else s.overflowMiss tent bank q

/-! ### Service (R189, R202) -/

/-- Put back a copy in its frame after a request; a frame whose grains are all dead or zero after a .DEAD read is freed (R182, R193). -/
def State.putAfter (s : State) (old new : EllCopy) (dead : Bool) : State :=
  if old = new then s
  else
    let s := if old.data = new.data ∧ old.dirty = new.dirty ∧ old.zero = new.zero then s.setCopy new else s.putWritten new
    if dead then s.dropDead new else s

/-- How a request is performed on a copy; the answer goes to who asked. -/
abbrev Perform := State → EllCopy → BReq → State × EllCopy

/-- Perform a request on the copy that a frame holds. -/
def State.serveHit (perform : Perform) (s : State) (tent k : Nat) (c : EllCopy) (q : BReq) : State × Bool :=
  let q := s.keyed c q
  match s.prepare (perform s c q).2 q.kind.isDead with
  | (s, false) => (s, false)
  | (s, true) =>
    let s := if q.kind.noAlloc then s else s.modTent tent (fun t => t.touch k)
    let (s, c') := perform s c q
    (s.putAfter c c' q.kind.isDead, true)

/-- Perform a request on what the bank holds, without a fetch: on the copy in a frame, or, when it reads nothing of the ell, on what the
header says; `none`: it misses (R185, R192, R193, R197, R202, R230). A write of the owner needs the header compared (R222, R239). -/
def State.serveNow (perform : Perform) (s : State) (tent : Nat) (q : BReq) : State × Option Bool :=
  let t := s.tent tent
  match t.frameOf? q.ell, t.copyOf? q.ell with
  | some k, some c =>
    if !c.readyFor (s.keyed c q) true then (s, none)
    else
      let (s, left) := s.serveHit perform tent k c q
      (s, some left)
  | _, _ =>
    let c := s.headerCopy q.ell
    let q := s.keyed c q
    if isHostEll q.ell then
      match q.kind with
      -- what no frame holds is written, and read for an agent that is no ring, through the port
      | .store _ _ _ => ((perform s c q).1, some true)
      | .read who => ((s.hostGrain? who (grainOfEll q.ell q.grain)).1, some true)
      | _ => (s, none)
    else if !q.kind.writes || (c.owned q.key q.gen && !(q.kind.whole && !q.kind.noAlloc && s.headerChecked q.ell)) then (s, none)
    else
      let (s, ok) := s.needHeader [] q.ell
      if !ok then (s, some false)
      else if q.kind.noAlloc then
        let (s, c') := perform s c q
        (s.storeEll c', some true)
      else
        let (s, ok) := s.install c
        if !ok then (s, some false)
        else
          let (s, c') := perform s c q
          (s.putAfter c c' false, some true)

/-- Serve a request that nothing else holds back: on the waiter list of a fetch in progress, now, or as a miss (R186, R187). -/
def State.serveEll (perform : Perform) (s : State) (tent bank : Nat) (q : BReq) : State × Bool :=
  if (s.tent tent).fetching q.ell then s.missed tent bank q
  else
    match s.serveNow perform tent q with
    | (s, some left) => (s, left)
    | (s, none) => s.missed tent bank q

/-- Serve a request of the overflow queue, where it stays unless it can be performed or enter a register (R187). -/
def State.serveAgain (perform : Perform) (s : State) (tent : Nat) (q : BReq) : State × Bool :=
  if (s.tent tent).fetching q.ell then s.enterReg tent q
  else
    match s.serveNow perform tent q with
    | (s, some left) => (s, left)
    | (s, none) => s.enterReg tent q

/-- A request arrives: an idle bank with nothing before it serves it at once, else it waits its turn (R189). -/
def State.arriveWith (serve : State → Nat → Nat → BReq → State × Bool) (s : State) (q : BReq) : State :=
  let tent := homeTent q.ell
  let bank := bushelBank q.ell
  let b := (s.tent tent).bank bank
  if !b.queue.isEmpty || !b.coming.isEmpty then s.sendBushel q
  else
    match serve s tent bank q with
    | (s, true) => s
    | (s, false) => s.sendBushel q

end Sys2Proof.Machine
end

