-- ==== Sys2Proof/Machine/Home.lean ====
section
/-!
DEFINITION. The home bushel as agents other than rings meet it, and address translation (R20, R170, R171, R185, R194, R199, R230, R333, R344,
R354).

A read asks the home bushel, and what comes is kept for its reader until it has all it needs: a read that has to wait answers `none`, and
whoever made it makes it again. A write is sent, and told when it has been performed.
-/

namespace Sys2Proof.Machine

/-! ### What agents are told -/

/-- The size of a part of a copy: the larger of 64 KiB and the smallest power of two at or above L / 64 (R174). -/
def partSize (len : Nat) : Nat :=
  (((List.range 48).map (fun k => 65536 * 2 ^ k)).find? (fun s => decide (len ≤ 64 * s))).getD (65536 * 2 ^ 48)

/-- The part of a copy's byte. -/
def CopyOp.part (c : CopyOp) (at_ : Nat) : Nat := at_ / partSize c.len

/-- A part has failed at a byte of the copy. -/
def CopyOp.fail (c : CopyOp) (at_ cause : Nat) : CopyOp :=
  let first : Bool := match c.firstFail with | some f => decide (at_ < f) | none => true
  { c with failed := insertNat (c.part at_) c.failed
           firstFail := if first then some at_ else c.firstFail
           cause := if first then cause else c.cause }

/-- The parts that bytes `at_` to `at_ + n − 1` of a copy lie in have failed. -/
def CopyOp.failRange (c : CopyOp) (at_ n cause : Nat) : CopyOp := (c.fail at_ cause).fail (at_ + (n - 1)) cause

/-- Enter a grain in the host-caching filter, or change its entry. While a snoop for it is outstanding it is entered anew (R361). -/
def Hub.admitReq (h : Hub) (e : FilterEnt) : Hub :=
  if (h.entry? e.grain).isSome && !h.snoops.any (fun x => x.grain == e.grain) then
    { h with filter := h.filter.map (fun x => if x.grain = e.grain then e else x) }
  else { h with filter := h.filter ++ [e] }

/-- Remove the oldest entry of a grain. -/
def Hub.dropEntry (h : Hub) (g : Nat) : Hub := { h with filter := h.filter.eraseP (fun e => e.grain == g) }

/-- Change what is being served for another device. -/
def State.modServing (s : State) (id : Nat) (f : Serve → Serve) : State :=
  s.modNet (fun n => match Assoc.find? n.serving id with
    | some v => { n with serving := Assoc.put n.serving id (f v) }
    | none => n)

/-- A write has been performed, `bad` on a poisoned grain that it could not read: whoever waits for it is told (R174, R239, R283, R335, R344,
R346, R351). -/
def State.performed (s : State) (who : WrWho) (bad : Bool := false) : State :=
  match who with
  | .vector v _ => match v with | some v => s.interrupt v | none => s
  | .ring r op => s.modRing r (fun x =>
      match Assoc.find? x.writes op with
      | some w => { x with writes := Assoc.put x.writes op { w with acked := w.acked + 1 } }
      | none => x)
  | .copy t e order at_ n => s.modTent t (fun x =>
      match (Assoc.find? x.engines e).filter (fun c => c.order == order) with
      | some c =>
        let c := { c with outstanding := c.outstanding - 1 }
        { x with engines := Assoc.put x.engines e (if bad then c.failRange at_ n 5 else c) }
      | none => x)
  | .remote id => if bad then s.modServing id (fun v => { v with status := 5 }) else s
  | .mem dpa keep key gen =>
    (s.modHub (fun h => if keep then h.admitReq ⟨dpa / 64, key, gen, false⟩ else h.dropEntry (dpa / 64))).emit (.memCmp dpa)
  | .none | .command _ | .host => s

/-- A write is not made, because CXL.cache is off: an interrupt that waits for it is not raised; whoever else waits goes on (DESIGN
CHOICE). -/
def State.unsent (s : State) (who : WrWho) : State := match who with | .vector _ _ => s | _ => s.performed who

/-- Send a write to one grain of host memory; it is performed when the host completes it (R344). -/
def State.hostWrite (s : State) (g : Nat) (bs : List (Nat × Byte)) (who : WrWho) : State :=
  if !s.cxlOn then s.unsent who
  else (s.modHub (fun h => { h with hostWrites := h.hostWrites ++ [⟨g, bs, who, none⟩] })).emit (.cxlWrite (g - hostGrain) bs)

/-- A grain has been read at its home: the host gets its data, and may be entered in the filter (R234, R311); any other reader takes what
has come when it has all it needs. -/
def State.answerRead (s : State) (who : Asker) (g : Nat) (r : GrainRead) : State :=
  match who with
  | .mem dpa want tag key gen =>
    let s := if want = .noCopy then s else s.modHub (fun h => h.admitReq ⟨g, key, gen, want = .exclusive⟩)
    s.emit (.memData tag dpa r.bytes (match r with | .bad _ => true | _ => false))
  | _ => s.putAnswer who g r

/-! ### Requests of agents that are no rings (R187, R189) -/

/-- Count a foreign read (R238). -/
def State.countForeign (s : State) (c : EllCopy) (key gen : Nat) : State :=
  if c.owned key gen then s
  else s.modChanCounters (placeOf c.ell).channel (fun k => { k with foreignReads := bump k.foreignReads 1 })

/-- Count a takeover (R238). -/
def State.countTakeover (s : State) (c : EllCopy) (key gen : Nat) : State :=
  if c.owned key gen then s
  else s.modChanCounters (placeOf c.ell).channel (fun k => { k with takeovers := bump k.takeovers 1 })

/-- What a read of a copy gives, with what it counts (R190, R194, R230, R238). -/
def State.readCopy (s : State) (c : EllCopy) (q : BReq) : State × GrainRead :=
  let s := s.countForeign c q.key q.gen
  let r := c.read q.key q.gen q.grain
  (if r = .dead then s.modTentCounters (homeTent c.ell) (fun k => { k with deadReads := bump k.deadReads 1 }) else s, r)

/-- Perform a read or a write of an agent that is no ring (R171, R194, R202, R230, R239). -/
def State.performAgent : Perform := fun s c q =>
  match q.kind with
  | .read who =>
    let (s, r) := s.readCopy c q
    (s.answerRead who (grainOfEll q.ell q.grain) r, c)
  | .write who bs =>
    let bad : Bool := c.owned q.key q.gen && !q.kind.whole && (Assoc.find? c.bad q.grain).isSome
    ((s.countTakeover c q.key q.gen).performed who bad, c.write q.key q.gen q.grain bs)
  | _ => (s, c)

/-- A bank serves a read or a write of an agent that is no ring, in the order of arrival for its ell (R189, R203). -/
def State.serveAgent (s : State) (tent bank : Nat) (q : BReq) : State × Bool :=
  if (s.tent tent).behind bank q.ell then (s.goBehind tent bank q, true)
  else
    match s.mayServe q with
    | (s, false) => (s, false)
    | (s, true) => s.serveEll State.performAgent tent bank q

/-- Write bytes into a device grain under a key, on behalf of `who`. -/
def State.homeWrite (s : State) (key gen g : Nat) (bs : List (Nat × Byte)) (who : WrWho) : State :=
  s.arriveWith State.serveAgent (agentReq key gen g (.write who bs))

/-- Does a read of a grain wait: at its bank, or for the host (R354)? -/
def State.reading (s : State) (who : Asker) (g : Nat) (q : BReq) : Bool :=
  (s.tent (homeTent q.ell)).asked q || s.hub.hostReads.any (fun x => x.grain == g && x.who == some who)

/-- Read one grain at its home bushel: `none` until it has come. -/
def State.homeRead (s : State) (who : Asker) (key gen g : Nat) : State × Option GrainRead :=
  match s.hub.answer? who g with
  | some r => (s, some r)
  | none =>
    let q := agentReq key gen g (.read who)
    if s.reading who g q then (s, none)
    else
      let s := s.arriveWith State.serveAgent q
      (s, s.hub.answer? who g)

/-- Does a write of the device to the ell's own structures wait at the bank? -/
def Tent.deviceWrite (t : Tent) (ell : Nat) : Bool := t.requests.any (fun q => q.ell == ell && q.key == deviceKey && q.kind.writes)

/-- Read one grain ahead of the requests that wait at the bank, as page-table walks and drains do (DESIGN CHOICE: a request at the front of
the queue may itself wait for a drain, and a drain for a walk). A walk still sees every earlier write of the device to its tables. -/
def State.passRead (s : State) (who : Asker) (key gen g : Nat) : State × Option GrainRead :=
  match s.hub.answer? who g with
  | some r => (s, some r)
  | none =>
    let q := agentReq key gen g (.read who)
    let tent := homeTent q.ell
    if s.reading who g q || (key == deviceKey && (s.tent tent).deviceWrite q.ell) then (s, none)
    else
      match s.mayServe q with
      | (s, false) => (s, none)
      | (s, true) =>
        let s := (s.serveAgain State.performAgent tent q).1
        (s, s.hub.answer? who g)

/-! ### Host memory (R185, R344, R354) -/

/-- A device-side write to host memory updates the frame that holds the host ell (R344). -/
def State.hostFrame (s : State) (g : Nat) (bs : List (Nat × Byte)) : State :=
  match (s.tent (homeTent (ellOfGrain g))).copyOf? (ellOfGrain g) with
  | some c => if mapBit c.present (grainInEll g) then s.setCopy { c.write 0 0 (grainInEll g) bs with dirty := 0 } else s
  | none => s

/-- Write to a grain of host memory and update the frame that holds it (R344). -/
def State.hostStore (s : State) (g : Nat) (bs : List (Nat × Byte)) (who : WrWho) : State := (s.hostFrame g bs).hostWrite g bs who

/-! ### Structures that the device keeps in memory -/

/-- Read bytes at a place of device or host memory, for the barker (R354). All grains must have come before any is taken. -/
def State.readPlace (s : State) (who : Asker) (host : Bool) (a n : Nat) : State × Option (List Byte) :=
  let first := a / 64
  let gs := (List.range ((a + n + 63) / 64 - first)).map (fun i => (if host then hostGrain else 0) + first + i)
  let (s, bytes, ok) := gs.foldl (fun (acc : State × List Byte × Bool) g =>
    match (if host then acc.1.hostGrain? who g else acc.1.homeRead who deviceKey 0 g) with
    | (s, some r) => (s, acc.2.1 ++ r.bytes, acc.2.2)
    | (s, none) => (s, acc.2.1, false)) (s, [], true)
  if ok then (s.takeAnswers who gs, some ((bytes.drop (a - 64 * first)).take n)) else (s, none)

/-- Write bytes at a place of device or host memory, on behalf of `who` (R344). -/
def State.writePlace (s : State) (host : Bool) (a : Nat) (bs : List Byte) (who : WrWho) : State :=
  (splitGrains host a bs).foldl (fun s p => if host then s.hostStore p.1 p.2 who else s.homeWrite deviceKey 0 p.1 p.2 who) s

/-! ### Address translation (R333) -/

/-- A translation: device or host, physical address, key slot. -/
structure Phys where
  host : Bool
  addr : Nat
  key : Nat
deriving DecidableEq, Repr

/-- The grain key of a translated address. -/
def Phys.grain (p : Phys) : Nat := grainKey p.host p.addr

/-- What a translation gives: an address, PAGE_FAULT, or a wait for a page-table grain. -/
inductive Transl where
  | ok (p : Phys)
  | fault
  | held
deriving DecidableEq, Repr

/-- Use a leaf entry: VALID, Reserved bits and alignment have been tested; a write needs WRITE, a device page must exist (R212). -/
def useLeaf (leaf : Nat) (size va : Nat) (write : Bool) : Transl :=
  let base := bits leaf 51 8 * 256
  let host := bitN leaf 3
  let a := base + va % size
  if write && !bitN leaf 2 then .fault
  else if !host && decide (Config.dpaLimit ≤ a) then .fault
  else .ok ⟨host, a, if host then 0 else bits leaf 63 52⟩

/-- Lowest bit of the index of a page-table level, and entries of a table (R333). -/
def levelShift (level : Nat) : Nat × Nat :=
  match level with
  | 4 => (48, 512)
  | 3 => (39, 512)
  | 2 => (30, 512)
  | 1 => (21, 512)
  | _ => (16, 32)

/-- What a walk gives: a leaf entry with its page size, PAGE_FAULT, or a wait for a grain of the tables. -/
inductive WalkRes where
  | leaf (e size : Nat)
  | fault
  | held (grain : Nat)
deriving DecidableEq, Repr

/-- Walk the tables from a level down. -/
def walk (s : State) (who : Asker) (va level table : Nat) : State × WalkRes :=
  let (shift, count) := levelShift level
  let idx := (va >>> shift) % count
  let a := table + 8 * idx
  if Config.dpaLimit ≤ a then (s, .fault)
  else
    match s.passRead who deviceKey 0 (a / 64) with
    | (s, none) => (s, .held (a / 64))
    | (s, some r) =>
      let e := leNat ((r.bytes.drop (a % 64)).take 8)
      let size := 2 ^ shift
      if !bitN e 0 || bits e 7 4 != 0 then (s, .fault)
      else
        let isLeaf := level = 0 ∨ ((level = 1 ∨ level = 2) ∧ bitN e 1)
        if isLeaf then
          if bits e 51 8 * 256 % size ≠ 0 ∨ (bitN e 3 ∧ bits e 63 52 ≠ 0) then (s, .fault)
          else
            (s, .leaf e size)
        else if bits e 63 52 ≠ 0 ∨ bitN e 3 then (s, .fault)
        else
          match level with
          | 0 => (s, .fault)
          | n + 1 =>
            let align := if n = 0 then 256 else 4096
            if bits e 51 8 * 256 % align ≠ 0 then (s, .fault) else walk s who va n (bits e 51 8 * 256)

/-- The walks of a tent's MMU in progress but for one page's: those for which what they wait for has not come (R20). -/
def State.walksLeft (s : State) (tent ctx page : Nat) : List Walk :=
  (s.tent tent).walks.filter (fun w =>
    !(w.ctx == ctx && w.page == page) && (s.hub.answer? (.walk tent w.ctx w.page) w.grain).isNone)

/-- Translate a 57-bit virtual address of a context on a tent, through the tent MMU's cached translations (R333). The MMU makes 16 walks at
a time (R20): one more waits. -/
def State.translate (s : State) (tent ctx va : Nat) (write : Bool) : State × Transl :=
  match s.ctx? ctx with
  | none => (s, .fault)
  | some c =>
    if 2 ^ 57 ≤ va then (s, .fault)
    else
    match (s.tent tent).tlb.find? (fun e => e.ctx == ctx && e.base == va / e.size * e.size) with
    | some e => (s, useLeaf e.leaf.toNat e.size va write)
    | none =>
      let page := va / 65536
      let others := s.walksLeft tent ctx page
      if 16 ≤ others.length then (s, .held)
      else
        let who : Asker := .walk tent ctx page
        let ended (s : State) (tlb : List TlbEnt) : State :=
          (s.modTent tent (fun t => { t with walks := others, tlb := t.tlb ++ tlb })).forgetAnswers (· == who)
        match walk s who va 4 c.ptRoot with
        | (s, .held g) => (s.modTent tent (fun t => { t with walks := others ++ [⟨ctx, page, g⟩] }), .held)
        | (s, .fault) => (ended s [], .fault)
        | (s, .leaf leaf size) => (ended s [⟨ctx, va / size * size, size, BitVec.ofNat 64 leaf⟩], useLeaf leaf size va write)

/-- The key slot of a translated access: that of the page; for a host page none. -/
def Phys.gen (p : Phys) (s : State) : Nat := s.keyGen p.key

/-- Read bytes of a context's address space for the barker or the step engine (R354): host pages straight from host memory, device pages
at the home bushel under the page's key. `fault` is a failed translation. -/
inductive VaRead where
  | ok (bytes : List Byte)
  | fault
  | held
deriving DecidableEq, Repr

/-- Read `n` bytes at a virtual address for a reader; what has come is kept for it, and the grains that have come are named. -/
def State.peekVa (s : State) (who : Asker) (tent ctx va n : Nat) : State × VaRead × List Nat :=
  let first := va / 64
  let gs := (List.range ((va + n + 63) / 64 - first)).map (fun i => first + i)
  let step (acc : State × List Byte × List Nat × Nat) (g : Nat) : State × List Byte × List Nat × Nat :=
    let (s, bytes, got, st) := acc
    match s.translate tent ctx (64 * g) false with
    | (s, .fault) => (s, bytes, got, max st 2)
    | (s, .held) => (s, bytes, got, max st 1)
    | (s, .ok p) =>
      match (if p.host then s.hostGrain? who p.grain else s.homeRead who p.key (p.gen s) p.grain) with
      | (s, some r) => (s, bytes ++ r.bytes, p.grain :: got, st)
      | (s, none) => (s, bytes, got, max st 1)
  let (s, bytes, got, st) := gs.foldl step (s, [], [], 0)
  (s, if st = 0 then .ok ((bytes.drop (va - 64 * first)).take n) else if st = 2 then .fault else .held, got)

/-- Read `n` bytes at a virtual address, grain by grain; nothing is taken before every grain is there. A reader whose read faults wants no
more of what has come for it. -/
def State.readVa (s : State) (who : Asker) (tent ctx va n : Nat) : State × VaRead :=
  match s.peekVa who tent ctx va n with
  | (s, .ok bs, got) => (s.takeAnswers who got, .ok bs)
  | (s, .fault, _) => (s.forgetAnswers (· == who), .fault)
  | (s, .held, _) => (s, .held)

/-- Write bytes at a virtual address for the barker or the step engine. The answer is `fault` when a page is not mapped or not writable, and
then nothing is written. -/
def State.writeVa (s : State) (tent ctx va : Nat) (bs : List Byte) (who : WrWho) : State × VaRead :=
  let trs := (splitGrains false va bs).foldl (fun (acc : State × List (Phys × List (Nat × Byte)) × Nat) p =>
    match acc.1.translate tent ctx (64 * p.1) true with
    | (s, .ok ph) => (s, acc.2.1 ++ [(ph, p.2)], acc.2.2)
    | (s, .held) => (s, acc.2.1, max acc.2.2 1)
    | (s, .fault) => (s, acc.2.1, max acc.2.2 2)) (s, [], 0)
  let (s, ps, st) := trs
  if st = 2 then (s, .fault)
  else if st = 1 then (s, .held)
  else
    (ps.foldl (fun s p =>
      if p.1.host then s.hostStore p.1.grain p.2 who else s.homeWrite p.1.key (p.1.gen s) p.1.grain p.2 who) s, .ok [])

/-! ### Modified data of the host (R355, R361) -/

/-- Put a whole grain that the host gives back where the ell is: into the fetch in progress, the frame that holds it, or as a miss that
nothing precedes. The answer is false when that cannot be done yet. -/
def State.putBack (s : State) (key gen g : Nat) (bs : List (Nat × Byte)) : State × Bool :=
  let q := agentReq key gen g (.write .host bs)
  let tent := homeTent q.ell
  if !isHostEll q.ell && s.memoryFailed then (s, false)
  else if (s.tent tent).fetching q.ell then
    (s.modTent tent (fun t => { t with miss := Assoc.mapVals (fun _ (m : MissReg) =>
      if m.ell = q.ell then { m with copy := m.copy.write key gen q.grain bs } else m) t.miss }), true)
  else s.serveAgain State.performAgent tent q

/-- Write what waits to be written to device memory: data that the host has given back, oldest first for each grain; and the writes of copies
that were put off arrive at their banks (R171). -/
def State.retryWrites (s : State) : State :=
  let l := s.hub.hostWrites
  let s := s.modHub (fun h => { h with hostWrites := [] })
  let keep (s : State) (w : HostWr) : State := s.modHub (fun h => { h with hostWrites := h.hostWrites ++ [w] })
  l.foldl (fun s w =>
    match w.own with
    | none => keep s w
    | some (key, gen) =>
      if w.who ≠ WrWho.host then s.homeWrite key gen w.grain w.bytes w.who
      else if s.hub.backPending w.grain then keep s w
      else
        match s.putBack key gen w.grain w.bytes with
        | (s, true) => s
        | (s, false) => keep s w) s

end Sys2Proof.Machine
end

