-- ==== Sys2Proof/Machine/Signals.lean ====
section
/-!
DEFINITION. Event records (R334), packets and remote requests (R272 to R285), turnstiles and handles (R92, R335 to R337), and the waits
that they end (R40, R325).
-/

namespace Sys2Proof.Machine

/-! ### Dictionary values and the event ring -/

/-- The value of an RW dictionary entry, or its default. -/
def State.dictVal (s : State) (index sub dflt : Nat) : Nat := Assoc.get dflt s.dict.vals (index * 256 + sub)

/-- Entries of the event ring: 2^n, or none when it is disabled (R313). -/
def EventRing.entries (e : EventRing) : Nat :=
  let n := bits e.size.toNat 4 0
  if n = 0 then 0 else 2 ^ n

/-- Write the held records for which the ring has room, oldest first; each raises vector 0 once it is performed (R334). -/
def pumpEvents (fuel : Nat) (s : State) : State :=
  match fuel with
  | 0 => s
  | n + 1 =>
    let e := s.hub.evq
    match e.held with
    | [] => s
    | r :: t =>
      let used := (e.written - e.head.setWidth 32).toNat
      if e.entries ≤ used then s
      else
        let base := bits e.base.toNat 51 12 * 4096
        let a := base + 64 * (e.written.toNat % e.entries)
        let s := s.modHub (fun h => { h with evq := { h.evq with held := t, written := h.evq.written + 1 } })
        let s := s.writePlace (e.base.getLsbD 63) a (r.flatMap (fun w => leBytes 8 w.toNat)) (.vector (some 0) none)
        pumpEvents n s

/-- Write an event record: words 0 to 6, and the sequence number as word 7 (R334). While the ring is full, or disabled (DESIGN CHOICE),
up to 64 records are held and the rest are counted as lost. -/
def State.event (s : State) (ws : List W64) : State :=
  let e := s.hub.evq
  let r := (ws ++ List.replicate 7 0).take 7 ++ [e.seq]
  let full := e.held.length ≥ 64
  let s := s.modHub (fun h => { h with evq :=
    { h.evq with seq := e.seq + 1, held := if full then e.held else e.held ++ [r]
                 overflow := e.overflow || full, lost := if full then min (e.lost + 1) (2 ^ 31 - 1) else e.lost } })
  pumpEvents 65 s

/-- The words of a fault record (R334). -/
def FaultRec.words (f : FaultRec) : List W64 :=
  [BitVec.ofNat 64 (1 * 2 ^ 56 + f.code % 256 * 2 ^ 48 + f.reason % 256 * 2 ^ 40 + f.ctx % 1024 * 2 ^ 30 + f.ring % 256 * 2 ^ 22
      + f.kernelId % 65536),
   BitVec.ofNat 64 (f.pc % 2 ^ 57), BitVec.ofNat 64 (f.pcB % 2 ^ 57),
   BitVec.ofNat 64 (f.group % 65536 * 2 ^ 48 + f.troupe % 256 * 2 ^ 40), f.detail,
   BitVec.ofNat 64 (f.queue % 4096 * 2 ^ 52 + f.accept % 2 ^ 48)]

/-! ### Packets (R273 to R280) -/

/-- Is a link Up? -/
def State.linkUp (s : State) (l : Nat) : Bool := (Assoc.get {} s.net.links l).st == .up
/-- Is a device id of the own domain excluded (R278)? -/
def State.isExcluded (s : State) (d : Nat) : Bool := s.net.excluded.contains d

/-- What a device does with a packet that reaches it (R277). -/
inductive Hop where
  | drop
  | deliver
  | undeliverable (hopsOut : Bool)
  | out (link : Nat)
deriving DecidableEq, Repr

/-- The links of a route entry that are enabled and Up (R276, R277). -/
def State.candidates (s : State) (e : Nat) : List Nat :=
  ((List.range 4).filter (fun i => bitN e (24 + i))).map (fun i => bits e (6 * i + 5) (6 * i)) |>.filter s.linkUp

/-- forward of R277, up to queueing. -/
def State.hop (s : State) (p : Packet) : Hop :=
  let n := s.net
  if p.srcDom = n.ownDom ∧ s.isExcluded p.srcId.val then .drop
  else if p.dstDom = n.ownDom ∧ p.dstId.val = n.ownId then .deliver
  else if p.dstDom = n.ownDom ∧ s.isExcluded p.dstId.val then .undeliverable false
  else if p.dstDom ≠ n.ownDom ∧ s.dictVal 0x5000 5 0 = 0 then .undeliverable false
  else
    let e := if p.dstDom = n.ownDom then (Assoc.get 0 n.routes p.dstId.val).toNat else s.dictVal 0x5000 6 0
    if p.hops = 0 then .undeliverable true
    else
      let c := s.candidates e
      if !bitN e 31 || c.isEmpty then .undeliverable false
      else .out (c.getD ((p.srcId.val + p.dstId.val + p.flow.toNat) % c.length) 0)

/-- Change a link. -/
def State.modLink (s : State) (l : Nat) (f : Link → Link) : State :=
  s.modNet (fun n => { n with links := Assoc.put n.links l (f (Assoc.get {} n.links l)) })
/-- Change the device counters of R306. -/
def State.modNetCounters (s : State) (f : NetCounters → NetCounters) : State := s.modNet (fun n => { n with counters := f n.counters })

/-- Add to one entry of a table of counters. -/
def bumpAt (m : FMap Nat) (i n : Nat) : FMap Nat := Assoc.put m i (satAdd 64 (Assoc.get 0 m i) n)

/-- A collective ends PARTIAL with a cause: it is counted (R306). -/
def State.countPartial (s : State) (cause : Nat) : State :=
  s.modNetCounters (fun k => { k with collsPartial := bumpAt k.collsPartial cause 1 })

/-- Flits that a packet occupies (R272). -/
def flitCount (p : Packet) : Nat := max 1 (ceilDiv (32 + p.payload.length) 244)

/-- Flits waiting in an output queue. -/
def Link.outFlits (k : Link) (vc : Nat) : Nat := ((Assoc.get [] k.outq vc).map flitCount).foldl (· + ·) 0

/-- An output queue holds 64 flits per virtual channel: has it room for a packet (R270)? -/
def Link.room (k : Link) (vc : Nat) (p : Packet) : Bool := decide (k.outFlits vc + flitCount p ≤ 64)

/-- Put a packet into an output queue. -/
def Link.push (k : Link) (vc : Nat) (p : Packet) : Link := { k with outq := Assoc.put k.outq vc (Assoc.get [] k.outq vc ++ [p]) }

/-- Waiting packets enter the output queue, in order, as far as it has room. -/
def Link.letIn (k : Link) (vc : Nat) : List Packet → Link
  | [] => { k with waitq := Assoc.del k.waitq vc }
  | p :: rest => if k.room vc p then (k.push vc p).letIn vc rest else { k with waitq := Assoc.put k.waitq vc (p :: rest) }

/-- Queue a packet on an output link. A packet of this device waits while the queue has no room for it or others wait before it; one that is
forwarded leaves its input only when there is room (R270). -/
def State.queueOut (s : State) (l : Nat) (p : Packet) : State :=
  let vc := p.vc.toNat
  let own : Bool := p.srcId.val == s.net.ownId && p.srcDom == s.net.ownDom
  s.modLink l (fun k =>
    if own then k.letIn vc (Assoc.get [] k.waitq vc ++ [p]) else k.push vc p)

/-- The kind of response of a request (R280). -/
def responseOp (op : BitVec 4) : Option (BitVec 4) :=
  match op.toNat with
  | 0 => some 4 | 1 => some 5 | 2 => some 6 | 3 => some 5
  | _ => none

/-- The response to a request packet. -/
def respond (s : State) (p : Packet) (status : Nat) (payload : List Byte) : Packet :=
  { op := (responseOp p.op).getD 5, vc := 1, flow := p.flow, dstId := p.srcId, srcId := Fin.ofNat 4096 s.net.ownId
    dstDom := p.srcDom, srcDom := s.net.ownDom, len := BitVec.ofNat 13 payload.length, tag := p.tag
    status := BitVec.ofNat 16 status, payload }

/-- Handle a packet that can go nowhere further: deliver it here, queue it on a link, or discard and count it. -/
def State.settle (s : State) (p : Packet) : State :=
  match s.hop p with
  | .drop => s.modNetCounters (fun c => { c with excluded := bump c.excluded 1 })
  | .deliver => s.modNet (fun n => { n with delivered := n.delivered ++ [p] })
  | .out l => s.queueOut l { p with hops := p.hops - 1 }
  | .undeliverable h =>
    s.modNetCounters (fun c => if h then { c with hopsOut := bump c.hopsOut 1 } else { c with undeliverable := bump c.undeliverable 1 })

/-- forward of R277 with the outcomes of R280: an undeliverable request is answered with UNREACHABLE, if its source can be reached. -/
def State.forward (s : State) (p : Packet) : State :=
  match s.hop p, responseOp p.op with
  | .undeliverable h, some _ =>
    let s := if h then s.modNetCounters (fun c => { c with hopsOut := bump c.hopsOut 1 })
             else s.modNetCounters (fun c => { c with undeliverable := bump c.undeliverable 1 })
    let answer := respond s p 1 []
    (match s.hop answer with
     | .drop | .undeliverable _ => s
     | _ => s.settle answer)
  | _, _ => s.settle p

/-- The response to every remote write and atomic that has been performed is sent (R283). -/
def State.sendAcks (s : State) : State :=
  s.net.serving.foldl (fun (s : State) p =>
    if s.writesLeft (.remote p.1) then s
    else
      (s.modNet (fun n => { n with serving := Assoc.del n.serving p.1 })).forward (respond s p.2.pkt p.2.status p.2.payload)) s

/-- Count link bytes sent on behalf of a context in a phase, headers included (R343). -/
def State.countLinkBytes (s : State) (ctx phase n : Nat) : State :=
  s.modCtx ctx (fun c =>
    let p := Assoc.get {} c.phases phase
    { c with phases := Assoc.put c.phases phase { p with linkBytes := satAdd 64 p.linkBytes n } })

/-- The context and the phase that a remote request is sent on behalf of (R343). -/
def State.reqPhase (s : State) (who : ReqWho) : Option (Nat × Nat) :=
  match who with
  | .copyRead t e _ _ | .copyWrite t e _ _ => (Assoc.find? (s.tent t).engines e).map (fun c => (c.ctx, c.phase))
  | .atom _ c => (s.cmd? c.cmd).map (fun d => (c.ctx, bits (d.words.headD 0).toNat 55 53))
  | .turnSig ctx ph => ph.map (fun p => (ctx, p))
  | .command r => (s.cmd? r).bind (fun d => d.ctx.map (fun c => (c, bits (d.words.headD 0).toNat 55 53)))

/-- Send a remote request and remember it until its response or its timeout (R285). -/
def State.request (s : State) (p : Packet) (who : ReqWho) : State :=
  let s := match s.reqPhase who with
    | some (ctx, ph) => s.countLinkBytes ctx ph (32 + p.payload.length)
    | none => s
  let tag := s.net.nextTag
  let s := s.modNet (fun n => { n with nextTag := tag + 1, outstanding := Assoc.put n.outstanding tag.toNat { dev := p.dstId.val, who } })
  s.forward { p with tag, srcId := Fin.ofNat 4096 s.net.ownId, srcDom := s.net.ownDom, dstDom := s.net.ownDom }

/-! ### Turnstiles (R92, R335 to R337) -/

/-- One signal: the value is added or taken as a lower bound; an addition that would pass 2^64 − 1 stops there and sets the error bit
(R92). -/
def Turn.signal (t : Turn) (max_ : Bool) (v : W64) (err : Bool) : Turn :=
  if max_ then { t with count := if t.count.toNat < v.toNat then v else t.count, err := t.err || err }
  else if 2 ^ 64 ≤ t.count.toNat + v.toNat then { t with count := 0xFFFFFFFFFFFFFFFF, err := true }
  else { t with count := t.count + v, err := t.err || err }

/-- The 16 bytes of a turnstile's mirror (R335). -/
def Turn.mirrorBytes (t : Turn) : List Byte := leBytes 8 t.count.toNat ++ leBytes 8 (if t.err then 1 else 0)

/-- Write the mirror after a change; its vector is raised once the write is performed (R335, R348). -/
def State.mirror (s : State) (t : Turn) (quiet : Bool) (ref : Option CmdRef) : State :=
  match t.mirror with
  | some p => s.writePlace p.host p.addr t.mirrorBytes (.vector (if quiet || t.vector == 0 then none else some t.vector) ref)
  | none => s

/-- How a wait on a handle stands: `none` goes on; `some e` has ended, with the error bit found or the handle released (R92, R337). -/
def State.waitEnd (s : State) (ctx handle : Nat) (value : W64) : Option Bool :=
  match s.ctx? ctx with
  | none => some true
  | some c =>
    match Assoc.find? c.handles handle with
    | none => some true
    | some h =>
      if h.remote || !h.wait then some true
      else match Assoc.find? s.hub.turns h.turn with
        | none => some true
        | some t => if t.err then some true else if value.toNat ≤ t.count.toNat then some false else none

/-- Set or clear a predicate of some threads. -/
def Troupe.setPred (t : Troupe) (threads : List Nat) (n : Nat) (b : Bool) : Troupe :=
  { t with p := threads.foldl (fun p th =>
      let old := Assoc.get 0 p th
      Assoc.put p th (if b then old ||| (1#8 <<< n) else old &&& ~~~(1#8 <<< n))) t.p }

/-- End the turnstile waits of a troupe's subsets that have reached their end (R92). -/
def Troupe.wakeTurn (s : State) (t : Troupe) : Troupe :=
  t.subsets.foldl (fun t u =>
    match u.wait with
    | .turnstile h v p ps =>
      match s.waitEnd t.ctx h v with
      | none => t
      | some e =>
        let t := match p with | some n => t.setPred ps n e | none => t
        { t with subsets := t.subsets.map (fun x => if x.threads = u.threads then { x with wait := .none } else x) }
    | _ => t) t

/-- End every turnstile wait that has reached its end: TURN.WAIT of troupes, and WAIT commands (R92, R325, R337). -/
def State.wake (s : State) : State :=
  let rings := Assoc.mapVals (fun _ (r : Ring) =>
    { r with booths := Assoc.mapVals (fun _ (b : Booth) => { b with troupes := b.troupes.map (Troupe.wakeTurn s) }) r.booths }) s.rings
  let cmds := Assoc.mapVals (fun _ (c : Cmd) =>
    if c.st = .running ∧ bits (c.words.headD 0).toNat 63 56 = 4 then
      match s.waitEnd (c.ctx.getD 1024) (bits (c.words.getD 1 0).toNat 31 0) (c.words.getD 2 0) with
      | none => c
      | some e => { c with st := .finished, errSeen := e }
    else c) s.hub.cmds
  { s with rings, hub := { s.hub with cmds } }

/-- Signal a turnstile of this device, on behalf of a command or of none: counter, error bit, mirror, and the waits it ends. The mirror is
written after a change (R335). -/
def State.signalTurn (s : State) (n : Nat) (max_ : Bool) (v : W64) (err : Bool) (ref : Option CmdRef) : State :=
  match Assoc.find? s.hub.turns n with
  | none => s
  | some t =>
    let u := t.signal max_ v err
    let s := s.modHub (fun h => { h with turns := Assoc.put h.turns n u })
    (if u = t then s else s.mirror u false ref).wake

/-- A TURN_SIG request to a turnstile of another device (R284). -/
def turnSigPacket (dev turn : Nat) (max_ err : Bool) (v : W64) : Packet :=
  { op := 3, vc := 0, dstId := Fin.ofNat 4096 dev, srcId := 0, dstDom := false, srcDom := false, sel := BitVec.ofNat 16 turn
    mode := max_, err, aux := v }

/-- The handle-table entry of a 32-bit handle, if it is not empty. -/
def State.handle? (s : State) (ctx : Nat) (h : W32) : Option Handle :=
  match s.ctx? ctx with
  | some c => if h.toNat < 512 then Assoc.find? c.handles h.toNat else none
  | none => none

/-- A handle that names a turnstile with the signal right (R336). -/
def State.canSignal (s : State) (ctx : Nat) (h : W32) : Bool :=
  match s.handle? ctx h with | some e => e.signal | none => false
/-- A handle that names a turnstile of this device with the wait right (R284, R336). -/
def State.canWait (s : State) (ctx : Nat) (h : W32) : Bool :=
  match s.handle? ctx h with | some e => e.wait && !e.remote | none => false

/-- Signal the turnstile that a handle names, here or on another device; a handle that names none does nothing. -/
def State.signalHandle (s : State) (ctx phase : Nat) (h : W32) (max_ : Bool) (v : W64) (err : Bool) (ref : Option CmdRef) : State :=
  match s.handle? ctx h with
  | some e =>
    if !e.signal then s
    else if e.remote then s.request (turnSigPacket e.dev e.turn max_ err v) (.turnSig ctx (some phase))
    else s.signalTurn e.turn max_ v err ref
  | none => s

/-- Turnstiles that no handle-table entry and no export names any longer are freed (R337). -/
def State.freeTurns (s : State) : State :=
  let named (n : Nat) : Bool := s.hub.ctxs.any (fun c => c.2.handles.any (fun h => !h.2.remote && h.2.turn == n))
  s.modHub (fun h => { h with turns := h.turns.filter (fun t => named t.1 || !t.2.exports.isEmpty) })

/-- Step 3 of R341: every turnstile that the context owns or could signal gets its error bit; imported remote ones are sent TURN_SIG with
ERR 1 and VALUE 0 (R284). -/
def State.errorTurns (s : State) (ctx : Nat) : State :=
  match s.ctx? ctx with
  | none => s
  | some c =>
    let own := (s.hub.turns.filter (fun t => t.2.owner == ctx)).map (·.1)
    let held := (c.handles.filter (fun h => !h.2.remote && h.2.signal)).map (fun h => h.2.turn)
    let s := (own ++ held.filter (fun n => !own.contains n)).foldl (fun s n => s.signalTurn n false 0 true none) s
    (c.handles.filter (fun h => h.2.remote)).foldl (fun s h =>
      s.request (turnSigPacket h.2.dev h.2.turn false true 0) (.turnSig ctx none)) s

end Sys2Proof.Machine
end

