-- ==== Sys2Proof/Machine/Operands.lean ====
section
/-!
DEFINITION. Register fields and operands (R50, R51, R72 to R75), what an instruction reads and writes, and the reasons of R104 that
its fields give.
-/

namespace Sys2Proof.Machine

/-! ### Registers -/

/-- Read a vector register of a thread. -/
def Troupe.getV (t : Troupe) (thread n : Nat) : W32 := Assoc.get 0 t.v (thread * 256 + n)
/-- Write a vector register of a thread; 0xFF discards the result (R73). -/
def Troupe.putV (t : Troupe) (thread n : Nat) (w : W32) : Troupe :=
  if n = 255 then t else { t with v := Assoc.put t.v (thread * 256 + n) w }
/-- Read a uniform register. -/
def Troupe.getU (t : Troupe) (n : Nat) : W32 := Assoc.get 0 t.u n
/-- Write a uniform register. -/
def Troupe.putU (t : Troupe) (n : Nat) (w : W32) : Troupe := { t with u := Assoc.put t.u (n % 64) w }
/-- Read a predicate of a thread. -/
def Troupe.getP (t : Troupe) (thread n : Nat) : Bool := (Assoc.get 0 t.p thread).getLsbD n

/-- A source of one register: the field's register, or 0 for 0xFF (R73). -/
def Troupe.src (t : Troupe) (uniform : Bool) (thread : Nat) (field : Byte) : W32 :=
  if uniform then t.getU (field.toNat % 64) else if field = 0xFF then 0 else t.getV thread field.toNat

/-- A source of a register pair: the upper register holds bits [63:32] (R73). -/
def Troupe.srcPair (t : Troupe) (uniform : Bool) (thread : Nat) (field : Byte) : W64 :=
  if uniform then (t.getU (field.toNat % 64 + 1) ++ t.getU (field.toNat % 64) : BitVec 64)
  else if field = 0xFF then 0
  else (t.getV thread (field.toNat + 1) ++ t.getV thread field.toNat : BitVec 64)

/-- A source of `k` registers as one number, lowest register lowest (R75). -/
def Troupe.srcWords (t : Troupe) (uniform : Bool) (thread : Nat) (field : Byte) (k : Nat) : Nat :=
  if field = 0xFF ∧ !uniform then 0
  else (List.range k).foldr (fun i acc =>
    (if uniform then t.getU (field.toNat % 64 + i) else t.getV thread (field.toNat + i)).toNat + 2 ^ 32 * acc) 0

/-- Write `k` registers of a destination from one number. -/
def Troupe.putWords (t : Troupe) (uniform : Bool) (thread : Nat) (field : Byte) (k w : Nat) : Troupe :=
  (List.range k).foldl (fun t i =>
    let x := BitVec.ofNat 32 (w >>> (32 * i))
    if uniform then t.putU (field.toNat % 64 + i) x
    else if field = 0xFF then t else t.putV thread (field.toNat + i) x) t

/-! ### What an instruction needs -/

/-- Registers that an instruction reads and writes (vN is N, uN is 256 + N, pN is 320 + N), vector registers read from the file, those
with a reuse hint (R53, R54), and the reasons of R104 that its fields give. -/
structure Need where
  reads : List Nat := []
  writes : List Nat := []
  files : List Nat := []
  hints : List Nat := []
  reasons : List Nat := []
deriving DecidableEq, Repr

/-- Two needs together. -/
def Need.and (a b : Need) : Need :=
  ⟨a.reads ++ b.reads, a.writes ++ b.writes, a.files ++ b.files, a.hints ++ b.hints, a.reasons ++ b.reasons⟩

/-- A reason that holds under a condition. -/
def reasonIf (b : Bool) (r : Nat) : Need := if b then { reasons := [r] } else {}

/-- A vector group of `k` registers from a field: the registers, and reasons 0x03 and 0x04. -/
def vGroup (regs : Nat) (field : Byte) (k : Nat) : List Nat × List Nat :=
  if field = 0xFF then ([], [])
  else
    let n := field.toNat
    ((List.range k).map (n + ·), (if regs < n + k then [3] else []) ++ (if n % k ≠ 0 then [4] else []))

/-- A uniform group of `k` registers from a field: bits [7:6] must be 0 (R73). They give reason 0x02, as Reserved bits do (DESIGN CHOICE:
R73 names no reason). -/
def uGroup (field : Byte) (k : Nat) : List Nat × List Nat :=
  let n := field.toNat % 64
  ((List.range k).map (fun i => 256 + (n + i) % 64), (if 64 ≤ field.toNat then [2] else []) ++ (if n % k ≠ 0 then [4] else []))

/-- A source field of `k` registers; `hint` is its reuse bit. -/
def needSrc (regs : Nat) (uniform hint : Bool) (field : Byte) (k : Nat) : Need :=
  if uniform then let g := uGroup field k; { reads := g.1, reasons := g.2 }
  else let g := vGroup regs field k; { reads := g.1, files := g.1, hints := if hint then g.1 else [], reasons := g.2 }

/-- A destination field of `k` registers. -/
def needDst (regs : Nat) (uniform : Bool) (field : Byte) (k : Nat) : Need :=
  if uniform then let g := uGroup field k; { writes := g.1, reasons := g.2 }
  else let g := vGroup regs field k; { writes := g.1, reasons := g.2 }

/-- A predicate destination: bits [7:3] must be 0 (R73); they give reason 0x02 (DESIGN CHOICE, as for `uGroup`). -/
def needPDst (field : Byte) : Need := { writes := [320 + field.toNat % 8], reasons := if 8 ≤ field.toNat then [2] else [] }
/-- A predicate source: bits not named must be 0 (R86); they give reason 0x02 (DESIGN CHOICE, as for `uGroup`). -/
def needPSrc (field : Byte) : Need := { reads := [320 + field.toNat % 8], reasons := if 8 ≤ field.toNat then [2] else [] }
/-- An unused register field must hold 0xFF (R73). -/
def needUnused (field : Byte) : Need := reasonIf (decide (field ≠ 0xFF)) 2

/-- GUARD of R72: the predicate it reads, or reason 0x01. -/
def needGuard (g : BitVec 5) : Need :=
  if g = 0 then {}
  else if 8 ≤ g.toNat ∧ g.toNat < 24 then { reads := [320 + g.toNat % 8] }
  else { reasons := [1] }

/-- A guard that must be 0b00000 (R93, R95). -/
def needNoGuard (g : BitVec 5) : Need := reasonIf (decide (g ≠ 0)) 5

/-- The participants of a subset under GUARD (R72). -/
def participants (t : Troupe) (u : Subset) (g : BitVec 5) : List Nat :=
  if g = 0 then u.threads
  else u.threads.filter (fun th => t.getP th (g.toNat % 8) == decide (g.toNat < 16))

/-! ### The R and I forms -/

/-- Is SRC_A, SRC_B or SRC_C uniform (R72)? -/
def uA (f : RForm) : Bool := f.usel.getLsbD 2
/-- SRC_B is uniform. -/
def uB (f : RForm) : Bool := f.usel.getLsbD 1
/-- SRC_C is uniform. -/
def uC (f : RForm) : Bool := f.usel.getLsbD 0

/-- The reuse hints of an R form: SRC_A, SRC_B, SRC_C. -/
def hA (f : RForm) : Bool := f.reuse.getLsbD 2
/-- Hint on SRC_B. -/
def hB (f : RForm) : Bool := f.reuse.getLsbD 1
/-- Hint on SRC_C. -/
def hC (f : RForm) : Bool := f.reuse.getLsbD 0

/-- Registers of one operand under TYPE: a pair for 64-bit types (R73). -/
def typeRegs (type : BitVec 3) : Nat := if type = 2 ∨ type = 3 ∨ type = 5 then 2 else 1
/-- Operand width in bits of the integer types (R481). -/
def typeWidth (type : BitVec 3) : Nat := if type = 2 ∨ type = 3 then 64 else 32
/-- Format code of a floating-point TYPE: F32, F64, F16×2, BF16×2 (R72). -/
def typeFmt (type : BitVec 3) : Nat := match type.toNat with | 4 => 1 | 5 => 0 | 6 => 4 | _ => 3

/-- A vector source beside UDST = 1 is refused with reason 0x05 (R72); 0xFF names no register. -/
def udstCheck (udst uniform : Bool) (field : Byte) : Need := reasonIf (udst && !uniform && decide (field ≠ 0xFF)) 5

/-- The needs of an R-form arithmetic instruction: DST and as many sources as it has, COND and SUB as they must be, NEG only where it is
allowed, TYPE among the accepted ones (R72, R481). A USEL bit set for a source that the instruction does not use is a refused value, with
reason 0x01 (DESIGN CHOICE: R72 does not say). -/
def needR (regs : Nat) (f : RForm) (sources : Nat) (types : List Nat) (negOk subOk condOk : Bool) : Need :=
  let k := typeRegs f.type
  let src (i : Nat) (u h : Bool) (field : Byte) : Need :=
    if i < sources then (needSrc regs u h field k).and (udstCheck f.udst u field)
    else (needUnused field).and (reasonIf u 1)
  ((((needGuard f.guard).and (needDst regs f.udst f.dst k)).and (src 0 (uA f) (hA f) f.srcA)).and (src 1 (uB f) (hB f) f.srcB)).and
    ((src 2 (uC f) (hC f) f.srcC).and
      (reasonIf (!types.contains f.type.toNat || !negOk || !subOk || !condOk) 1))

/-- NEG must be 0 except on floating-point types of the instructions that take it (R72). -/
def negFree (f : RForm) : Bool := decide (f.neg = 0)
/-- COND must be 0 outside SETP. -/
def condFree (f : RForm) : Bool := decide (f.cond = 0)
/-- SUB must be 0 where the semantics table gives no variant. -/
def subFree (f : RForm) : Bool := decide (f.sub = 0)

/-- The needs of an I-form instruction with one source (R74). REUSE [49:48] not 0 gives reason 0x02, as Reserved bits do (DESIGN CHOICE:
R74 sets them to 0 and names no reason). -/
def needI (regs : Nat) (uniform : Bool) (f : IForm) (usesA : Bool) : Need :=
  ((needGuard f.guard).and (needDst regs uniform f.dst 1)).and
    ((if usesA then needSrc regs uniform (f.reuse.getLsbD 2) f.srcA 1 else needUnused f.srcA).and
      (reasonIf (f.reuse.getLsbD 1 || f.reuse.getLsbD 0) 2))

end Sys2Proof.Machine
end

