-- ==== Sys2Proof/Machine/Troupes.lean ====
section
/-!
DEFINITION. Subsets, convergence and divergence of a troupe (R41 to R49, R94, R133, R134, R483), the ring barrier (R94, R130), and the end
of troupes and ring groups with the write-back of local lines (R48, R178).
-/

namespace Sys2Proof.Machine

/-! ### Subsets -/

/-- The lowest thread of a subset. -/
def Subset.low (u : Subset) : Nat := minD 0 u.threads

/-- The subset with the given lowest thread. -/
def Troupe.subset? (t : Troupe) (low : Nat) : Option Subset := t.subsets.find? (fun u => u.low == low)

/-- Replace the subset that holds the given lowest thread. -/
def Troupe.setSubset (t : Troupe) (low : Nat) (u : Subset) : Troupe :=
  { t with subsets := t.subsets.map (fun x => if x.low = low then u else x) }

/-- Two subsets as one: the smaller stamp (R41). -/
def Subset.join (a b : Subset) : Subset :=
  { a with threads := unionNat a.threads b.threads, stamp := min a.stamp b.stamp }

/-- Put a subset into a list, merged with the first one of the same PC when neither of them is in a wait state. -/
def mergeInto (ready : Subset → Bool) (l : List Subset) (u : Subset) : List Subset :=
  match l with
  | [] => [u]
  | x :: t => if ready x && ready u && decide (x.pc = u.pc) then Subset.join x u :: t else x :: mergeInto ready t u

/-- Merge the subsets that are in no wait state and hold one PC (R41). The running subset stays the running one. -/
def Troupe.merged (t : Troupe) (ready : Subset → Bool) : Troupe :=
  let subs := t.subsets.foldl (mergeInto ready) []
  let run := match t.running with
    | some low => (subs.find? (fun u => u.threads.contains low)).map Subset.low
    | none => none
  { t with subsets := subs, running := run }

/-- The run of the running subset ends; its stamp is the slot of the last troupe instruction of that run (R42, R44). -/
def Troupe.stopRun (t : Troupe) (u : Subset) : Troupe :=
  { t.setSubset u.low { u with stamp := if 0 < t.runCount then t.lastSlot else u.stamp } with running := none }

/-- The running subset has entered a wait state: its run ends (R44). -/
def Troupe.endWaiting (t : Troupe) (ready : Subset → Bool) : Troupe :=
  match t.running.bind t.subset? with
  | some u => if ready u then t else t.stopRun u
  | none => { t with running := none }

/-- choose_subset of R45; `ready` tells that a subset is in no wait state, so that its next instruction can issue. -/
def Troupe.choose (t : Troupe) (ready : Subset → Bool) : Troupe × Option Subset :=
  let t := t.merged ready
  let current := t.running.bind t.subset?
  match current with
  | some u => if ready u && decide (t.runCount < 64) then (t, some u) else pick (t.stopRun u)
  | none => pick { t with running := none }
where
  /-- the ready subset with the smallest stamp, ties to the lowest thread -/
  pick (t : Troupe) : Troupe × Option Subset :=
    let best := (t.subsets.filter ready).foldl (fun b u =>
      match b with
      | none => some u
      | some x => if u.stamp < x.stamp ∨ (u.stamp = x.stamp ∧ u.low < x.low) then some u else some x) none
    match best with
    | some u => ({ t with running := some u.low, runCount := 0 }, some u)
    | none => (t, none)

/-- Threads that have not exited. -/
def Troupe.live (t : Troupe) : List Nat := t.subsets.flatMap (fun u => u.threads)

/-- Split the running subset by PC (R43): the new subset with the lowest thread continues the run, every other takes the slot of the
splitting instruction as its stamp. `target` gives the next PC of each thread. -/
def Troupe.split (t : Troupe) (low slot : Nat) (target : Nat → Nat) : Troupe :=
  match t.subset? low with
  | none => t
  | some u =>
    let pcs := u.threads.foldl (fun l th => if l.contains (target th) then l else l ++ [target th]) []
    let parts := pcs.map (fun pc =>
      let ths := u.threads.filter (fun th => target th == pc)
      { u with threads := ths, pc, stamp := if ths.contains low then u.stamp else slot })
    { t with subsets := t.subsets.flatMap (fun x => if x.low = low then parts else [x]) }

/-- Subsets that leave a convergence point: one subset when they hold one PC (R47, R483). -/
def release (subs : List Subset) : List Subset :=
  match subs with
  | [] => []
  | u :: rest =>
    if rest.all (fun x => x.pc == u.pc) then [{ rest.foldl Subset.join u with wait := .none }]
    else (u :: rest).map (fun x => { x with wait := .none })

/-- Does the subset wait at BAR.T, or at BAR.R? -/
def Subset.atBarT (u : Subset) : Bool := match u.wait with | .convergence => true | _ => false
/-- It waits at BAR.R. -/
def Subset.atBarR (u : Subset) : Bool := match u.wait with | .ringBarrier _ => true | _ => false
/-- It waits at a matrix instruction. -/
def Subset.atMatrix (u : Subset) : Bool := match u.wait with | .matrix => true | _ => false

/-- BAR.T releases when every thread that has not exited waits at a BAR.T or a BAR.R and one waits at a BAR.T (R47). -/
def Troupe.settleBarT (t : Troupe) : Troupe :=
  if t.subsets.all (fun u => u.atBarT || u.atBarR) && t.subsets.any Subset.atBarT then
    { t with subsets := t.subsets.filter (fun u => !u.atBarT) ++ release (t.subsets.filter Subset.atBarT) }
  else t

/-- Every thread that has not exited waits at a BAR.R (R483). -/
def Troupe.converged (t : Troupe) : Bool := !t.subsets.isEmpty && t.subsets.all Subset.atBarR

/-- The subset with the lowest thread. -/
def lowestSubset (l : List Subset) : Option Subset :=
  l.foldl (fun b u => match b with | none => some u | some x => if u.low < x.low then some u else some x) none

/-- MATRIX_DIVERGED (R134): reason, PC_A and PC_B. The PC of a barrier is the one before the PC that its threads go on from. -/
def Troupe.diverged? (t : Troupe) : Option (Nat × Nat × Nat) :=
  match lowestSubset (t.subsets.filter Subset.atMatrix) with
  | none => none
  | some a =>
    match lowestSubset (t.subsets.filter (fun u => u.atMatrix && u.pc != a.pc)) with
    | some b => some (1, a.pc, b.pc)
    | none =>
      match t.exited with
      | x :: rest =>
        let e := rest.foldl (fun b y => if y.1 < b.1 then y else b) x
        some (2, a.pc, e.2)
      | [] =>
        if t.subsets.all (fun u => u.atMatrix || u.atBarT || u.atBarR) then
          match lowestSubset (t.subsets.filter (fun u => u.atBarT || u.atBarR)) with
          | some b => some (3, a.pc, b.pc - 8)
          | none => none
        else none

/-! ### The ring barrier -/

/-- Every troupe of a ring with its booth. -/
def Ring.allTroupes (r : Ring) : List (Nat × Troupe) := r.booths.flatMap (fun b => b.2.troupes.map (fun t => (b.1, t)))

/-- Apply a function to every resident troupe of a ring. -/
def Ring.mapTroupes (r : Ring) (f : Nat → Troupe → Troupe) : Ring :=
  { r with booths := Assoc.mapVals (fun b (y : Booth) => { y with troupes := y.troupes.map (f b) }) r.booths }

/-- Is the operation of the given troupe of ring `ring`, booth `b`? -/
def TroupeRef.is (w : TroupeRef) (ring b slot : Nat) : Bool := w.ring.val == ring && w.booth.val == b && w.slot.val == slot

/-- The waits of R130 before a converged troupe arrives at the ring barrier: its MX.LDW have written their slots, its MX.DRN with DEST 0
their bytes, its scratchpad stores and atomics are done, and with G its .G stores and atomics are performed. Where subsets of the troupe
wait at BAR.R with different G bits the manual does not say which counts: G holds if any subset has it (DESIGN CHOICE). -/
def Ring.mayArrive (r : Ring) (b : Nat) (t : Troupe) : Bool :=
  let g := t.subsets.any (fun u => match u.wait with | .ringBarrier g => g | _ => false)
  !(r.ldq.any (fun l => l.uid == t.uid)) &&
  !((r.booth b).mq.any (fun o => match o with | .drn d => d.uid == t.uid && (!d.toRegs || d.rowsum) | .run _ => false)) &&
  !(r.sreqs.any (fun q => match q with | .store _ i _ _ => i == t.uid | _ => false)) &&
  !(r.combiner.any (fun c => c.uid == t.uid && (!c.global || g))) && !(r.satoms.any (fun c => c.uid == t.uid)) &&
  (!g || !(r.writes.any (fun w => w.2.uid == t.uid && !w.2.writeBack)))

/-- Arrivals at the ring barrier and its release (R94, R483). -/
def Ring.settleBarrier (r : Ring) : Ring :=
  let r := r.mapTroupes (fun b t => if !t.arrived && t.converged && r.mayArrive b t then { t with arrived := true } else t)
  let open_ := r.groups.filter (fun g =>
    let ts := r.allTroupes.filter (fun p => p.2.group == g.id)
    !ts.isEmpty && ts.all (fun p => p.2.arrived) && decide (ts.length = g.live))
  r.mapTroupes (fun _ t =>
    if open_.any (fun g => g.id == t.group) then { t with arrived := false, subsets := release t.subsets } else t)

/-- Settle the ring barrier of a ring of the state. -/
def State.settleBarrier (s : State) (ring : Nat) : State := s.modRing ring Ring.settleBarrier

/-! ### Requests to home bushels -/

/-- The dirty bytes of an L1 line. -/
def L1Line.dirtyBytes (l : L1Line) : List (Nat × Byte) :=
  ((List.range 64).filter (fun i => l.dirty.getLsbD i)).map (fun i => (i, l.data.getD i 0))

/-- Write a dirty local line back to its home bushel (R80, R178). -/
def State.spill (s : State) (ring : Nat) (l : L1Line) : State :=
  match l.loc with
  | none => s
  | some cmd =>
    if l.dirty = 0 then s
    else
      let op := (s.ring ring).nextOp
      let w : WriteOp := { who := ⟨Fin.ofNat 192 ring, 0, 0⟩, uid := 0, ctx := l.ctx, cmd, threads := [], left := 1, writeBack := true }
      let s := s.modRing ring (fun r => { r with nextOp := op + 1, writes := Assoc.put r.writes op w })
      s.sendBushel { ring, ctx := l.ctx, key := l.key, gen := l.gen, ell := ellOfGrain l.grain, grain := grainInEll l.grain
                     kind := .store op l.dirtyBytes false }

/-- Write back and give up every local line of a dispatch (R178). -/
def State.writeBackLines (s : State) (ring : Nat) (cmd : CmdRef) : State :=
  let mine := (s.ring ring).l1.filter (fun p => p.2.loc == some cmd)
  let s := mine.foldl (fun s p => s.spill ring p.2) s
  s.modRing ring (fun r => { r with l1 := r.l1.filter (fun p => p.2.loc != some cmd) })

/-! ### The end of troupes and ring groups (R48, R178, R323) -/

/-- A ring group has ended: its allocation is free, local lines are written back when no group of the dispatch is left on the ring. -/
def State.endGroup (s : State) (ring : Nat) (g : RingGroup) : State :=
  let s := s.modRing ring (fun r => { r with groups := r.groups.filter (fun x => x.id != g.id) })
  let s := if (s.ring ring).groups.any (fun x => x.cmd == g.cmd) then s else s.writeBackLines ring g.cmd
  s.modCmd g.cmd (fun c => { c with dispatch := c.dispatch.map (fun d => { d with live := d.live - 1 }) })

/-- Do queued matrix instructions of the troupe remain on the booth? -/
def Booth.mxLeft (y : Booth) (uid : Nat) : Bool :=
  y.mq.any (fun o => match o with | .run o => o.uid == uid | .drn o => o.uid == uid) || y.pipe.any (fun p => p.uid == uid)

/-- A troupe has ended or is stopped: its slot, registers, register cache entries and accumulators return to the booth. Matrix instructions that it left queued
still run on the accumulator values it left (DEDUCED). -/
def State.endTroupe (s : State) (ring b : Nat) (t : Troupe) : State :=
  let s := s.modBooth ring b (fun y =>
    { y with troupes := y.troupes.filter (fun x => x.slot != t.slot), ended := if y.mxLeft t.uid then y.ended ++ [t] else y.ended
             regCache := y.regCache.filter (fun e => e.slot != t.slot) })
  let s := s.modRing ring (fun r => { r with groups := r.groups.map (fun g => if g.id = t.group then { g with live := g.live - 1 } else g) })
  let done := (s.ring ring).groups.filter (fun g => g.id == t.group && g.live == 0)
  (done.foldl (fun s g => s.endGroup ring g) s).settleBarrier ring

end Sys2Proof.Machine
end

