-- ==== Sys2Proof/Machine/Port.lean ====
section
/-!
DEFINITION. The scratchpad port of a ring: 512 B of reads and 512 B of writes per a-cycle, and the order in which it serves what asks (R128).

An a-cycle of the port ends with SCRATCHPAD_ARBITRATION. Feeder rows and drain writes, which come before other fresh requests of their
direction, are served when they ask. All others ask, and the arbitration serves them in the order of R128; what it has granted is then used.
-/

namespace Sys2Proof.Machine

/-- The place of a user of the port in the order of R128; vector code, atomics and DMA share the last one. -/
def PortUser.rank (u : PortUser) : Nat :=
  match u with
  | .feeder _ => 2
  | .drain _ => 3
  | .weights => 4
  | .atomic | .dma _ _ => 5

/-- Bytes of a scratchpad request. -/
def ScratchReq.cost (q : ScratchReq) : Nat := match q with | .load _ _ _ _ _ _ _ c => c | .tload _ _ _ _ _ _ c => c | .store _ _ _ c => c
/-- The request with another number of bytes left to pass the port. -/
def ScratchReq.withCost (q : ScratchReq) (n : Nat) : ScratchReq :=
  match q with
  | .load a b c d e f g _ => .load a b c d e f g n
  | .tload a b c d e f _ => .tload a b c d e f n
  | .store a b c _ => .store a b c n
/-- Is it a store? -/
def ScratchReq.isStore (q : ScratchReq) : Bool := match q with | .store _ _ _ _ => true | _ => false
/-- The troupe that made it. -/
def ScratchReq.owner (q : ScratchReq) : Nat := match q with | .load _ u _ _ _ _ _ _ => u | .tload _ u _ _ _ _ _ => u | .store _ u _ _ => u

/-- Bytes of one direction that this a-cycle has served. -/
def Ring.portUsed (r : Ring) (store : Bool) : Nat := if store then r.wrUsed else r.rdUsed

/-- The a-cycle serves `n` bytes of one direction. -/
def Ring.portCount (r : Ring) (store : Bool) (n : Nat) : Ring :=
  if store then { r with wrUsed := r.wrUsed + n } else { r with rdUsed := r.rdUsed + n }

/-! ### Feeder rows and drain writes -/

/-- Bytes of one direction that come before a feeder or drain engine: what was refused in the previous a-cycle and has not been served
since, in the order of R128 when it was refused itself. -/
def Ring.portAhead (r : Ring) (u : PortUser) (store : Bool) : Nat :=
  let late := (r.late ++ r.claims.filter (·.late)).filter (fun c => c.store == store)
  let mine : Bool := late.any (fun c => c.user == u)
  let claims := (late.filter (fun c => c.user != u && (!mine || decide (c.user.rank < u.rank)))).map (fun c => min 512 c.bytes)
  let vector := ((r.sreqs.take r.refused).filter (fun q => q.isStore == store)).map (fun q => min 512 q.cost)
  (claims ++ (if mine then [] else vector)).foldl (· + ·) 0

/-- Bytes of one direction that this a-cycle still has for a feeder or drain engine. -/
def Ring.portLeft (r : Ring) (u : PortUser) (store : Bool) : Nat := 512 - r.portUsed store - r.portAhead u store

/-- Can the port serve its bytes in this a-cycle? A row of more than 512 B takes the whole of one. -/
def Ring.roomFor (r : Ring) (u : PortUser) (store : Bool) (n : Nat) : Bool := decide (min n 512 ≤ r.portLeft u store)

/-- The port serves its bytes. -/
def Ring.portTake (r : Ring) (u : PortUser) (store : Bool) (n : Nat) : Ring :=
  ({ r with late := r.late.filter (fun c => !(c.user == u && c.store == store)) }).portCount store (min n 512)

/-- The port refuses it: it is tried again in the next a-cycle, before others. -/
def Ring.portRefuse (r : Ring) (u : PortUser) (store : Bool) (n : Nat) : Ring :=
  { r with refusing := r.refusing.filter (fun c => !(c.user == u && c.store == store)) ++ [{ user := u, store, bytes := min n 512 }] }

/-! ### The weight port, atomics and DMA engines -/

/-- Has the port granted a user's bytes? -/
def Ring.portHas (r : Ring) (u : PortUser) (store : Bool) : Bool := r.granted.any (fun c => c.user == u && c.store == store)

/-- Does the user wait for the port? -/
def Ring.portAsks (r : Ring) (u : PortUser) (store : Bool) : Bool := r.claims.any (fun c => c.user == u && c.store == store)

/-- A user asks for `n` bytes, unless it has asked or has them. -/
def Ring.portAsk (r : Ring) (u : PortUser) (store : Bool) (n : Nat) : Ring :=
  if r.portHas u store || r.portAsks u store then r else { r with claims := r.claims ++ [{ user := u, store, bytes := n, late := false }] }

/-- A user uses what it was granted. -/
def Ring.portUse (r : Ring) (u : PortUser) (store : Bool) : Ring :=
  { r with granted := r.granted.filter (fun c => !(c.user == u && c.store == store)) }

/-- What asks or was granted is gone. -/
def Ring.portForget (r : Ring) (p : PortUser → Bool) : Ring :=
  { r with claims := r.claims.filter (fun c => !p c.user), granted := r.granted.filter (fun c => !p c.user) }

/-- The arbitration comes to one claim: it is granted when its bytes fit in what is left; one of more than 512 B takes what is left of each
a-cycle until all have passed. -/
def Ring.grantOne (r : Ring) (c : PortClaim) : Ring :=
  let left := 512 - r.portUsed c.store
  if c.bytes ≤ left then { r.portCount c.store c.bytes with granted := r.granted ++ [c] }
  else
    let n := if 512 < c.bytes then left else 0
    { r.portCount c.store n with claims := r.claims ++ [{ c with bytes := c.bytes - n, late := true }] }

/-- The arbitration comes to some claims, in their order. -/
def Ring.grant (r : Ring) (p : PortClaim → Bool) : Ring :=
  (r.claims.filter p).foldl Ring.grantOne { r with claims := r.claims.filter (fun c => !p c) }

/-- The a-cycle of the port ends: what it refused comes first in the next. -/
def Ring.portTurn (r : Ring) : Ring := { r with late := r.refusing, refusing := [], rdUsed := 0, wrUsed := 0 }

end Sys2Proof.Machine
end

