-- ==== Sys2Proof/Machine/Loss.lean ====
section
/-!
DEFINITION. Commands and how they finish (R320, R329, R348), and the loss of a context (R105, R135, R165, R284, R332, R341) or of every
context (R28, R356).
-/

namespace Sys2Proof.Machine

/-! ### Commands -/

/-- The turnstile handle and the increment of a command (R291, R321 to R327, R364, R372); a command that names none gives 0xFFFF_FFFF. -/
def cmdTurn (w : List W64) : W32 × W64 :=
  let lo (i : Nat) : W32 := BitVec.ofNat 32 (cmdWord w i)
  let hi (i : Nat) : W32 := BitVec.ofNat 32 (cmdWord w i >>> 32)
  match cmdOp w with
  | 0x01 => (lo 2, w.getD 3 0)
  | 0x02 => (hi 4, w.getD 5 0)
  | 0x03 => (hi 5, BitVec.ofNat 64 (cmdWord w 5 % 2 ^ 32))
  | 0x06 => (lo 4, w.getD 5 0)
  | 0x07 => (lo 3, w.getD 4 0)
  | 0x08 => (lo 2, w.getD 3 0)
  | 0x09 => (lo 4, w.getD 5 0)
  | 0x0A => (lo 4, w.getD 5 0)
  | 0x0B => (hi 5, w.getD 6 0)
  | 0x0C => (hi 5, w.getD 6 0)
  | _ => (0xFFFFFFFF, 0)

/-- A command as the barker starts it. -/
def newCmd (ctx : Option Nat) (w : List W64) (order accept : Nat) : Cmd :=
  let t := if ctx.isSome then cmdTurn w else (0xFFFFFFFF, 0)
  { ctx, words := w, order, accept, handle := t.1, inc := t.2 }

/-- A command finishes with a status; what remains is R348. A command that was already finished stays as it is. -/
def Cmd.finish (c : Cmd) (status : Nat) (err : Bool) : Cmd :=
  match c.st with
  | .accepted | .running => { c with st := .finished, status, err := c.err || err }
  | _ => c

/-- Finish a command of the state. -/
def State.finishCmd (s : State) (r : CmdRef) (status : Nat) (err : Bool) : State := s.modCmd r (fun c => c.finish status err)

/-- A malformed command: PARTIAL, empty PART_MAP, CAUSE 0x000A, its turnstile signalled with the error bit (R329). -/
def State.malformed (s : State) (r : CmdRef) : State :=
  s.modCmd r (fun c => { c.finish 8 true with cause := 10, partMap := 0 })

/-- Commands fetched and not started complete with CONTEXT_LOST (R341 step 1); a QUERY among them first writes its record, in which the fault
is readable (R334). -/
def State.dropFetched (s : State) (q : Nat) : State :=
  match Assoc.find? s.hub.queues q with
  | none => s
  | some k =>
    let s := s.modHub (fun h => { h with queues := Assoc.put h.queues q { k with fetched := [], tail := none, stopped := true } })
    let s := s.forgetAnswers (fun a => match a with | .slot n _ => n == q | .cmd r => r.queue.val == q && k.fetched.any (·.count == r.count) | _ => false)
    k.fetched.foldl (fun s c =>
      let (s, o) := s.nextOrder
      let m := newCmd (some k.ctx) c.words o 0
      s.setCmd ⟨Fin.ofNat 4096 q, c.count⟩ (if cmdOp c.words = 8 then m else m.finish 1 true)) s

/-! ### The loss of a context (R341 steps 1 to 5) -/

/-- Everything of a lost context's troupes that a ring and its booths still hold is dropped; atomics and reductions on global memory that
have issued, and writes already sent to home bushels, go on until they are acknowledged (R69). -/
def Ring.dropCtx (x : Ring) (ctx : Nat) : Ring :=
  let hit : Bool := x.ctx == some ctx
  let booth (y : Booth) : Booth := if hit then { y with mq := [], feed := [], latches := [], pipe := [], drain := [], ended := [] } else y
  { x with
      combiner := x.combiner.filter (fun c => c.ctx != ctx || c.global), satoms := x.satoms.filter (fun c => c.ctx != ctx)
      loads := x.loads.filter (fun l => l.2.ctx != ctx), allocs := x.allocs.filter (fun a => a.2.ctx != ctx)
      dmaq := x.dmaq.filter (fun d => d.ctx != ctx)
      ldq := x.ldq.filter (fun l => l.ctx != ctx)
      sreqs := if hit then [] else x.sreqs
      booths := Assoc.mapVals (fun _ => booth) x.booths }

/-- Keep the accumulators of a context's troupes, those of ended ones whose matrix instructions were still queued among them, and the weight-buffer slots of its ring for the debugger (R62, R163). -/
def Ring.keepFor (x : Ring) (ctx : Nat) : Ring :=
  let mine := x.allTroupes.filter (fun p => p.2.ctx == ctx)
  { x with
      debug := x.debug || !mine.isEmpty || x.booths.any (fun b => b.2.ended.any (fun t => t.ctx == ctx)) || (x.ctx == some ctx && !x.wslots.isEmpty)
      booths := Assoc.mapVals (fun _ (y : Booth) => { y with kept := y.kept ++ (y.troupes ++ y.ended).filter (fun t => t.ctx == ctx) }) x.booths }

/-- Stop every troupe of the context on a ring; with `keep`, a NONFINITE_TRAP, its state is kept for the debugger (R163). -/
def State.stopTroupes (s : State) (ring ctx : Nat) (keep : Bool) : State :=
  let ts := (s.ring ring).allTroupes.filter (fun p => p.2.ctx == ctx)
  let s := if keep then s.modRing ring (fun x => x.keepFor ctx) else s
  let s := ts.foldl (fun s p => s.endTroupe ring p.1 p.2) s
  s.modRing ring (fun x => (x.dropCtx ctx).portForget (fun u => u == .weights || u == .atomic))

/-- Copies and STAT.W instructions of a context that wait in the tents are dropped; the drain of a FLIP runs to completion (R384). -/
def State.dropQueued (s : State) (ctx : Nat) : State :=
  { s with tents := Assoc.mapVals (fun _ (t : Tent) => { t with
      copyq := t.copyq.filter (fun c => c.ctx != ctx || c.swing.isSome), statq := t.statq.filter (fun q => q.ctx != ctx) }) s.tents }

/-- A DMA.Q copy that has not started on an engine completes with CONTEXT_LOST: its turnstile is incremented, with the error bit (R174, R341
step 2). -/
def State.dmaLost (s : State) (d : DmaReq) : State :=
  s.signalHandle d.ctx (((s.cmd? d.cmd).map (fun c => cmdPhase c.words)).getD 0) d.handle false d.inc true none

/-- The reduction ells, the replays and the page-table walks of a context are dropped. -/
def State.dropReds (s : State) (ctx : Nat) : State :=
  { s with
      tents := Assoc.mapVals (fun _ (t : Tent) => t.filterFrames (fun f => match f.2.kind with
        | .red r => if r.ctx = ctx then none else some f
        | _ => some f)) s.tents
      hub := { s.hub with replays := s.hub.replays.filter (fun r => r.1 / 2 != ctx) } }

/-- The loss steps 1 to 5 of R341. `blame` is the dispatch whose troupe faulted: it completes with the fault's code. -/
def State.lossSteps (s : State) (ctx code : Nat) (blame : Option CmdRef) (keep : Bool) : State :=
  let s := ((s.hub.queues.filter (fun q => !q.2.admin && q.2.ctx == ctx)).map (·.1)).foldl State.dropFetched s
  let dmas := (s.rings.flatMap (fun r => r.2.dmaq)).filter (fun d => d.ctx == ctx)
  let s := (s.rings.map (·.1)).foldl (fun s r => s.stopTroupes r ctx keep) s
  let s := dmas.foldl State.dmaLost s
  let queued := (s.tents.flatMap (fun t => t.2.copyq)).filter (fun c => c.ctx == ctx && c.swing.isNone)
  let s := s.dropQueued ctx
  let s := queued.foldl (fun s c => s.finishCmd c.cmd 1 true) s
  let s := (s.hub.cmds.filter (fun c => c.2.ctx == some ctx)).foldl (fun s p =>
    let r := refOfKey p.1
    match cmdOp p.2.words with
    | 1 => s.finishCmd r (if blame = some r then code else 1) true
    | 3 => s.finishCmd r 1 true
    | _ => s) s
  let s := s.modNet (fun n => { n with colls := n.colls.filter (fun c => c.ctx != ctx) })
  (s.errorTurns ctx).dropReds ctx

/-- A Live context is lost (R332): its first fault is recorded, reported and counted (R369), then the loss steps run. -/
def State.loseCtx (s : State) (ctx : Nat) (f : Option FaultRec) (blame : Option CmdRef) (keep : Bool) : State :=
  match s.ctx? ctx with
  | none => s
  | some c =>
    if c.st ≠ .live then s
    else
      let s := s.setCtx ctx { c with st := .lost, fault := f }
      let s := { s with resil := { s.resil with loss := (s.resil.loss.headD 0 + 1) :: s.resil.loss.tail } }
      let s := match f with | some f => s.event f.words | none => s
      s.lossSteps ctx ((f.map (·.code)).getD 1) blame keep

/-- What a fault record will say of a troupe (R105). -/
def State.originOf (s : State) (t : Troupe) : Origin :=
  { kernelId := t.kernelId, group := t.groupIndex, index := t.index, cmd := t.cmd, accept := ((s.cmd? t.cmd).map (·.accept)).getD 0 }

/-- A fault of R103 raised by an instruction of a troupe that may have ended since: its record names the troupe, and the context is lost
(R104, R105). -/
def State.originFault (s : State) (ring ctx : Nat) (o : Origin) (code reason pc pcB : Nat) (detail : W64) : State :=
  s.loseCtx ctx (some { code, reason, ctx, ring, kernelId := o.kernelId, pc, pcB, group := o.group, troupe := o.index, detail
                        queue := o.cmd.queue.val, accept := o.accept })
    (some o.cmd) (code == 6)

/-- A fault of R103 raised by a resident troupe (R104, R105, R134). -/
def State.troupeFault (s : State) (who : TroupeRef) (t : Troupe) (code reason pc pcB : Nat) (detail : W64) : State :=
  s.originFault who.ring.val t.ctx (s.originOf t) code reason pc pcB detail

/-- A fault that a command of the context raises: it is recorded with the command's queue and accept position. -/
def State.cmdFault (s : State) (r : CmdRef) (code : Nat) (va : Nat) : State :=
  match s.cmd? r with
  | none => s
  | some c =>
    match c.ctx with
    | none => s.finishCmd r code true
    | some ctx =>
      let s := s.loseCtx ctx (some { code, ctx, pcB := va, queue := r.queue.val, accept := c.accept }) none false
      s.finishCmd r code true

/-- A device-fatal fault (R28, R356): every context stops, viral is signalled, cause and detail are recorded. -/
def State.deviceFatal (s : State) (cause : Nat) (detail : W64) : State :=
  let s := { s with resil := { s.resil with fatalCount := s.resil.fatalCount + 1, fatalCause := BitVec.ofNat 32 cause
                                            fatalDetail := detail, viral := true }
                    dict := { s.dict with unsaved := true } }
  let s := s.emit .viral
  (s.hub.ctxs.map (·.1)).foldl (fun s c => s.loseCtx c none none false) s

end Sys2Proof.Machine
end

