-- ==== Sys2Proof/Machine/Flags.lean ====
section
/-!
DEFINITION. The sticky non-finite and DEAD_READ flags, NONFINITE_TRAP and its detail word (R105, R156, R162 to R164, R194, R254).
-/

namespace Sys2Proof.Machine

/-- KIND of R164: 0 NaN; 1 +∞; 2 −∞. -/
def nfKind (x : FVal) : Nat :=
  match x with
  | .nan => 0
  | .inf n => if n then 2 else 1
  | .fin _ _ _ => 0

/-- The detail word of a NONFINITE_TRAP (R164). -/
def nfDetail (source kind : Nat) (inAcc : Bool) (thread unit row col element dfmt : Nat) : W64 :=
  BitVec.ofNat 64 (source * 2 ^ 56 + kind * 2 ^ 54 + inAcc.toNat * 2 ^ 53 + thread % 256 * 2 ^ 40 + unit % 16 * 2 ^ 36
    + row % 128 * 2 ^ 24 + col % 32 * 2 ^ 16 + element % 256 * 2 ^ 8 + dfmt % 16 * 2 ^ 4)

/-- Set the sticky non-finite flag and the step non-finite flag of a context (R162, R254). -/
def State.setNf (s : State) (ctx : Nat) : State := s.modCtx ctx (fun c => { c with nf := true, stepNf := true })

/-- Set the flags; the answer tells whether the event raises NONFINITE_TRAP: the trap is enabled and the context Live (R163). -/
def State.noteNf (s : State) (ctx : Nat) : State × Bool :=
  (s.setNf ctx, match s.ctx? ctx with
    | some c => c.nfTrap && c.st == .live
    | none => false)

/-- An event of an instruction whose writes are all made sets the flags; with the trap enabled it raises NONFINITE_TRAP (R163). -/
def State.nfEventOf (s : State) (ring ctx : Nat) (o : Origin) (pc : Nat) (detail : W64) : State :=
  match s.noteNf ctx with
  | (s, true) => s.originFault ring ctx o 6 0 pc 0 detail
  | (s, false) => s

/-- The same for an instruction of a resident troupe. -/
def State.nfEvent (s : State) (who : TroupeRef) (t : Troupe) (pc : Nat) (detail : W64) : State :=
  s.nfEventOf who.ring.val t.ctx (s.originOf t) pc detail

/-- Add to the saturation count of a context, which stops at its largest value (R156). -/
def State.addSat (s : State) (ctx n : Nat) : State := s.modCtx ctx (fun c => { c with satCount := BitVec.ofNat 64 (satAdd 64 c.satCount.toNat n) })

/-- Set the sticky DEAD_READ flag (R194). -/
def State.setDeadRead (s : State) (ctx : Nat) : State := s.modCtx ctx (fun c => { c with deadRead := true })

end Sys2Proof.Machine
end

