-- ==== Sys2Proof/Machine/Issue.lean ====
section
/-!
DEFINITION. How one Alasha instruction issues (R34 to R45, R53, R54, R70, R104, R133, R134): the choice of the subset, readiness, the
tests made at issue, refusal, the advance of the PC, the slots it takes, and its effect. Every instruction is given as a record of what it
needs, tests and does.
-/

namespace Sys2Proof.Machine

/-- What the tests made at issue find. -/
inductive Verdict where
  | go
  /-- reasons of R104 -/
  | refused (reasons : List Nat)
  /-- PAGE_FAULT at a virtual address -/
  | fault (va : Nat)
  /-- a page-table grain has not come yet: the instruction stays unissued -/
  | held
deriving DecidableEq, Repr

/-- The reasons for refusal that the tests give. -/
def Verdict.reasons (v : Verdict) : List Nat := match v with | .refused l => l | _ => []

/-- An Alasha instruction as the booth meets it. -/
structure AlOp where
  guard : BitVec 5 := 0
  /-- 64-bit words of the instruction (R70) -/
  words : Nat := 1
  /-- issue a-cycles per 32 threads (R37, R78) -/
  cost : Nat := 1
  fp64 : Bool := false
  /-- a troupe-wide matrix instruction (R133) -/
  matrix : Bool := false
  /-- registers, and the reasons that its fields give -/
  need : Troupe → Need
  /-- a wait of R40 or R129 that keeps it from issuing -/
  hold : State → TroupeRef → Troupe → Subset → Bool := fun _ _ _ _ => false
  /-- the tests on operands, for the participants -/
  test : State → TroupeRef → Troupe → Subset → List Nat → State × Verdict := fun s _ _ _ _ => (s, .go)
  /-- extra a-cycles that its addresses cost (R168) -/
  extra : State → TroupeRef → Troupe → List Nat → Nat := fun _ _ _ _ => 0
  /-- the results of the instruction have a latency (R37) -/
  latency : Bool := true
  /-- a branch: the next instruction of the troupe waits for its outcome (R37) -/
  branch : Bool := false
  /-- the effect, on the state, the troupe with its PC advanced, the issuing subset before, the participants and the issue slot -/
  act : State → TroupeRef → Troupe → Subset → List Nat → Nat → State

/-- An effect on the troupe alone. -/
def pureAct (f : Troupe → List Nat → Troupe) : State → TroupeRef → Troupe → Subset → List Nat → Nat → State :=
  fun s who t _ ps _ => s.setTroupe who (f t ps)

/-- Is the context Live? -/
def State.ctxLive (s : State) (c : Nat) : Bool := match s.ctx? c with | some x => x.st == .live | none => false

/-- The operands and results that the instruction names are available to the subset's threads (R40). -/
def Troupe.available (t : Troupe) (u : Subset) (n : Need) : Bool :=
  !(t.pending.any (fun p => p.threads.any (fun th => u.threads.contains th) &&
    p.regs.any (fun r => n.reads.contains r || n.writes.contains r)))

/-- Is the subset, which has threads, ready to issue the instruction (R40)? -/
def AlOp.ready (op : AlOp) (s : State) (who : TroupeRef) (t : Troupe) (u : Subset) : Bool :=
  decide (u.wait = .none) && !u.threads.isEmpty && t.available u (op.need t) && !op.hold s who t u

/-! ### Issue cost (R35, R53, R54) -/

/-- Distinct elements of a list. -/
def distinct (l : List Nat) : List Nat := l.foldl (fun a x => if a.contains x then a else a ++ [x]) []

/-- Extra a-cycles of one 32-thread part: the largest number of registers read from one bank, less 1 (R53). -/
def bankExtra (regs : List Nat) : Nat :=
  maxZ ((List.range 4).map (fun b => (regs.filter (fun r => r % 4 == b)).length)) - 1

/-- The a-cycles that an instruction takes for a troupe (R35, R53). The extra a-cycles of bank conflicts count as part of the instruction,
so that they are doubled with it for FP64 (DESIGN CHOICE: R35 and R53 do not say). -/
def Booth.issueCost (y : Booth) (t : Troupe) (op : AlOp) (n : Need) : Nat :=
  let files := distinct n.files
  let parts := List.range (t.width / 32)
  let one (part : Nat) : Nat :=
    let read := files.filter (fun r => !y.regCache.any (fun e => e.slot == t.slot && e.reg == r && e.part == part))
    (op.cost + bankExtra read) * (if op.fp64 then 2 else 1)
  if op.matrix then 1 else (parts.map one).foldl (· + ·) 0

/-- Keep a hinted operand in the register cache, in place of the entry with the fewest slots left when all 32 are in use (R54); of several
such, the one kept longest (DESIGN CHOICE: R54 does not say which). -/
def cachePut (l : List RegCacheEnt) (e : RegCacheEnt) : List RegCacheEnt :=
  let l := l.filter (fun x => !(x.slot == e.slot && x.reg == e.reg && x.part == e.part))
  if l.length < 32 then l ++ [e]
  else
    let least := minD 0 (l.map (·.left))
    l.eraseP (fun x => x.left == least) ++ [e]

/-- The register cache after an instruction of `cost` slots (R54). The 8 slots of every part of a hinted operand count from the end of the
instruction (DESIGN CHOICE: the parts of a wide troupe are read in different a-cycles). -/
def Booth.cacheAfter (y : Booth) (t : Troupe) (n : Need) (cost : Nat) : List RegCacheEnt :=
  let aged := (y.regCache.map (fun e => { e with left := e.left - cost })).filter (fun e => decide (0 < e.left))
  (distinct n.hints).foldl (fun l r => (List.range (t.width / 32)).foldl (fun l part => cachePut l ⟨t.slot, r, part, 8⟩) l) aged

/-- A troupe instruction has taken its slots: the booth's count, the register cache, and the counts of R343 and R395. -/
def State.takeSlots (s : State) (who : TroupeRef) (t : Troupe) (n : Need) (cost : Nat) : State :=
  let s := s.modBooth who.ring.val who.booth.val (fun y => { y with slots := y.slots + cost, regCache := y.cacheAfter t n cost })
  let s := s.modCtx t.ctx (fun c =>
    let p := Assoc.get {} c.phases t.phase
    { c with phases := Assoc.put c.phases t.phase { p with slots := satAdd 64 p.slots cost } })
  let k := tentOfRing who.ring.val * 5 + t.phase
  s.modYard (fun y => { y with mix := Assoc.put y.mix k (Assoc.get 0 y.mix k + cost) })

/-! ### Issue -/

/-- A subset enters a wait state: its run ends, and its stamp is the slot of the last instruction of that run (R44). -/
def Troupe.enterWait (t : Troupe) (low : Nat) (w : Wait) : Troupe :=
  match t.subset? low with
  | none => t
  | some u =>
    let ran := t.running = some low ∧ 0 < t.runCount
    { t.setSubset low { u with wait := w, stamp := if ran then t.lastSlot else u.stamp } with
        running := if t.running = some low then none else t.running }

/-- The name under which a branch holds the next instruction of its troupe, beside the registers of its own results (R37). -/
def nextInstr : Nat := 328

/-- Does the next instruction of the troupe still wait for the outcome of a branch (R37)? No wait state of R40: no run ends by it. -/
def Troupe.inBranch (t : Troupe) : Bool := t.pending.any (fun p => p.regs.contains nextInstr)

/-- Is the troupe diverged at a matrix instruction? Then it faults (R134). -/
def State.checkDiverged (s : State) (who : TroupeRef) : State :=
  match s.troupe? who with
  | none => s
  | some t =>
    match t.diverged? with
    | some (reason, a, b) => s.troupeFault who t 4 reason a b 0
    | none => s

/-- Registers that a result makes unavailable until its latency has elapsed or its data has come. -/
def Troupe.addPending (t : Troupe) (regs threads : List Nat) (memory : Bool) : Troupe :=
  if regs.isEmpty || threads.isEmpty then t
  else { t with pending := t.pending ++ [⟨t.nextId, regs, threads, memory⟩], nextId := t.nextId + 1 }

/-- The troupe after an instruction has issued in a booth issue slot: its subset at the next PC (R70), its run one longer (R44), the
registers of its results unavailable, and after a branch its next instruction held (R37). -/
def Troupe.advance (t : Troupe) (u : Subset) (op : AlOp) (n : Need) (ps : List Nat) (slot : Nat) : Troupe :=
  let t := t.setSubset u.low { u with pc := (u.pc + 8 * op.words) % 2 ^ 57 }
  let t := { t with runCount := t.runCount + 1, lastSlot := slot }
  if op.branch then t.addPending (n.writes ++ [nextInstr]) u.threads false
  else if op.latency then t.addPending n.writes ps false
  else t

/-- The booth issue slots that an instruction takes (R35, R53, R54): those of `issueCost`, and the further a-cycles of its own row. -/
def State.issueSlots (s : State) (who : TroupeRef) (t : Troupe) (op : AlOp) (n : Need) (ps : List Nat) : Nat :=
  ((s.ring who.ring.val).booth who.booth.val).issueCost t op n + op.extra s who t ps

/-- An instruction that passed its tests takes its slots and has its effect. -/
def State.perform (s : State) (who : TroupeRef) (t : Troupe) (u : Subset) (op : AlOp) (n : Need) (ps : List Nat) : State :=
  let y := (s.ring who.ring.val).booth who.booth.val
  let t' := t.advance u op n ps y.slots
  let s := (s.takeSlots who t' n (s.issueSlots who t op n ps)).setTroupe who t'
  (op.act s who t' u ps y.slots).checkDiverged who

/-- Issue an instruction for a chosen subset (R104): refused, held, or done. While a translation that it needs is walked, the chosen troupe
issues nothing, no other troupe takes the slot, and its count of R39 starts again (DESIGN CHOICE: R40 names no such wait). -/
def State.issue (s : State) (who : TroupeRef) (t : Troupe) (u : Subset) (op : AlOp) : State :=
  let n := op.need t
  let ps := participants t u op.guard
  let r := op.test s who t u ps
  let s := r.1.setTroupe who t
  let reasons := n.reasons ++ r.2.reasons
  if !reasons.isEmpty then s.troupeFault who t 10 (minD 0 reasons) u.pc 0 0
  else match r.2 with
    | .held => s
    | .fault va => s.troupeFault who t 3 0 u.pc va 0
    | _ => s.perform who t u op n ps

/-- Every thread of the troupe waits at a matrix instruction of one PC: the merged subset, with the smallest stamp (R133). -/
def Troupe.matrixReady? (t : Troupe) : Option Subset :=
  match t.subsets with
  | [] => none
  | u :: rest =>
    if u.atMatrix && rest.all (fun x => x.atMatrix && x.pc == u.pc) && t.exited.isEmpty then
      some { rest.foldl Subset.join u with wait := .none }
    else none

/-- A matrix instruction whose threads have all arrived issues once for the troupe, unless a queue it needs is full. -/
def State.issueMatrix (s : State) (who : TroupeRef) (op : AlOp) : State :=
  match s.troupe? who with
  | none => s
  | some t =>
    match t.matrixReady? with
    | none => s
    | some u =>
      if t.available u (op.need t) && !op.hold s who t u then
        s.issue who { t with subsets := [u], running := some u.low, runCount := 0 } u op
      else s

/-- A subset arrives at a matrix instruction; the instruction issues when it was the last (R133, R134). -/
def State.runMatrix (s : State) (who : TroupeRef) (t : Troupe) (op : AlOp) : State :=
  let (t, u) := t.choose (fun u => decide (u.wait = .none))
  let t := match u with | some u => t.enterWait u.low .matrix | none => t
  let s := (s.setTroupe who t).checkDiverged who
  s.issueMatrix who op

/-- Is the scratchpad allocation of the troupe's ring group cleared (R63, R64)? -/
def Ring.groupCleared (r : Ring) (t : Troupe) : Bool :=
  match r.groups.find? (fun g => g.id == t.group) with
  | some g => g.cleared
  | none => false

/-- May the troupe issue at all: its clears are done, its context is Live, and no branch outcome is awaited (R37, R40, R64, R69)? -/
def State.mayIssue (s : State) (who : TroupeRef) (t : Troupe) : Bool :=
  t.cleared && (s.ring who.ring.val).groupCleared t && s.ctxLive t.ctx && !t.inBranch

/-- One Alasha instruction is issued for a troupe: for its running subset, else for the subset that R45 chooses. A troupe that is not
resident, not cleared, of a context that is not Live, or without a ready subset issues nothing. -/
def State.runOp (s : State) (who : TroupeRef) (op : AlOp) : State :=
  match s.troupe? who with
  | none => s
  | some t =>
    if !s.mayIssue who t then s
    else if op.matrix then s.runMatrix who t op
    else
      let (t, u) := t.choose (op.ready s who t)
      match u with
      | none => s.setTroupe who t
      | some u => s.issue who t u op

end Sys2Proof.Machine
end

