-- ==== Sys2Proof/Machine/Vector.lean ====
section
/-!
DEFINITION. Vector and uniform integer, logic, predicate, move and lane-exchange instructions (R72 to R75, R84 to R86, R481, R482).
-/

namespace Sys2Proof.Machine

/-! ### Shared shapes -/

/-- Write a result of `k` registers: per participant, or with UDST once as for the lowest-numbered participant (R482). `val` gives the
value of a thread, read before anything is written. -/
def Troupe.writeAll (t : Troupe) (udst : Bool) (dst : Byte) (k : Nat) (ps : List Nat) (val : Nat → Nat) : Troupe :=
  if udst then
    match ps with
    | [] => t
    | p :: _ => t.putWords true 0 dst k (val p)
  else ps.foldl (fun t' th => t'.putWords false th dst k (val th)) t

/-- The sources of an R form for a thread, each of `k` registers. -/
def Troupe.srcR (t : Troupe) (f : RForm) (k th : Nat) : Nat × Nat × Nat :=
  (t.srcWords (uA f) th f.srcA k, t.srcWords (uB f) th f.srcB k, t.srcWords (uC f) th f.srcC k)

/-- An R-form instruction that computes DST from one, two or three sources. -/
def arithR (f : RForm) (sources : Nat) (types : List Nat) (negOk subOk : Bool) (cost : Nat) (fp64 : Bool)
    (val : Nat → Nat → Nat → Nat) : AlOp :=
  { guard := f.guard, cost, fp64
    need := fun t => needR t.regs f sources types negOk subOk (condFree f)
    act := pureAct (fun t ps =>
      t.writeAll f.udst f.dst (typeRegs f.type) ps (fun th =>
        let x := t.srcR f (typeRegs f.type) th
        val x.1 x.2.1 x.2.2)) }

/-- An I-form instruction, with vector or uniform SRC_A and DST (R74). -/
def arithI (uniform : Bool) (f : IForm) (usesA : Bool) (val : Nat → Nat → Nat) : AlOp :=
  { guard := f.guard
    need := fun t => needI t.regs uniform f usesA
    act := pureAct (fun t ps =>
      t.writeAll uniform f.dst 1 ps (fun th => val (t.srcWords uniform th f.srcA 1) f.imm.toNat)) }

/-- The operand width of an I-form integer instruction is 32 bits (R74). -/
def immWidth : Nat := 32

/-- A mnemonic with an R form and the two I forms, over integers: `val width a b`. -/
def intOp (f : VForm) (val : Nat → Nat → Nat → Nat) : AlOp :=
  match f with
  | .r f => arithR f 2 [0, 1, 2, 3] (negFree f) (subFree f) 1 false (fun a b _ => val (typeWidth f.type) a b)
  | .i f => arithI false f true (val immWidth)
  | .u f => arithI true f true (val immWidth)

/-- TYPE is signed (R72). -/
def typeSigned (type : BitVec 3) : Bool := decide (type = 1 ∨ type = 3)

/-- The integer of an operand under TYPE. -/
def typeInt (type : BitVec 3) (x : Nat) : Int := if typeSigned type then signed (typeWidth type) x else (x % 2 ^ typeWidth type : Nat)

/-! ### Moves -/

/-- NEG on the sign bits of a moved value of a floating-point TYPE (R72). -/
def negBits (type : BitVec 3) (neg : Bool) (x : Nat) : Nat :=
  if !neg then x
  else match type.toNat with
    | 4 => x ^^^ 0x80000000
    | 5 => x ^^^ 0x8000000000000000
    | _ => x ^^^ 0x80008000

/-- NEG is accepted on floating-point types only (R72). -/
def negTyped (f : RForm) : Bool := negFree f || decide (4 ≤ f.type.toNat)

/-- MOV: DST ← SRC_A, or IMM32 in the I form (R74, R84). -/
def opMov (f : VForm) : AlOp :=
  match f with
  | .r f => arithR f 1 [0, 1, 2, 3, 4, 5, 6, 7] (negTyped f) (subFree f) 1 false (fun a _ _ => negBits f.type (f.neg.getLsbD 1) a)
  | .i f => arithI false f false (fun _ i => i)
  | .u f => arithI true f false (fun _ i => i)

/-- SEL: SRC_A when the predicate in SRC_C is true, else SRC_B (R84, R86). -/
def opSel (f : RForm) : AlOp :=
  let k := typeRegs f.type
  { guard := f.guard
    need := fun t =>
      (((needGuard f.guard).and (needDst t.regs f.udst f.dst k)).and
        ((needSrc t.regs (uA f) (hA f) f.srcA k).and (needSrc t.regs (uB f) (hB f) f.srcB k))).and
      ((needPSrc f.srcC).and (((udstCheck f.udst (uA f) f.srcA).and (udstCheck f.udst (uB f) f.srcB)).and
        (reasonIf (uC f || !negTyped f || !condFree f || !subFree f) 1)))
    act := pureAct (fun t ps =>
      t.writeAll f.udst f.dst k ps (fun th =>
        let x := t.srcR f k th
        if t.getP th (f.srcC.toNat % 8) then negBits f.type (f.neg.getLsbD 1) x.1 else negBits f.type (f.neg.getLsbD 0) x.2.1)) }

/-! ### Integer and logic -/

/-- IADD (R84). -/
def opIadd (f : VForm) : AlOp := intOp f (fun w a b => (a + b) % 2 ^ w)
/-- ISUB (R84). -/
def opIsub (f : RForm) : AlOp :=
  arithR f 2 [0, 1, 2, 3] (negFree f) (subFree f) 1 false (fun a b _ => (a + 2 ^ typeWidth f.type - b % 2 ^ typeWidth f.type) % 2 ^ typeWidth f.type)

/-- Low or high half of a product of two operands of TYPE (R84). -/
def mulHalf (type : BitVec 3) (high : Bool) (a b : Nat) : Nat :=
  let w := typeWidth type
  let p := typeInt type a * typeInt type b
  if high then wrapInt w (p / 2 ^ w) else wrapInt w p

/-- IMUL: the low half, or the high half with SUB 1 (R84). -/
def opImul (f : VForm) : AlOp :=
  match f with
  | .r f => arithR f 2 [0, 1, 2, 3] (negFree f) (decide (f.sub.toNat ≤ 1)) 1 false (fun a b _ => mulHalf f.type (f.sub == 1) a b)
  | .i f => arithI false f true (mulHalf 0 false)
  | .u f => arithI true f true (mulHalf 0 false)

/-- IMAD: A × B + C, low half (R84). -/
def opImad (f : RForm) : AlOp :=
  arithR f 3 [0, 1, 2, 3] (negFree f) (subFree f) 1 false (fun a b c => (a * b + c) % 2 ^ typeWidth f.type)

/-- IMIN (R84). -/
def opImin (f : RForm) : AlOp :=
  arithR f 2 [0, 1, 2, 3] (negFree f) (subFree f) 1 false (fun a b _ => if typeInt f.type a ≤ typeInt f.type b then a else b)
/-- IMAX (R84). -/
def opImax (f : RForm) : AlOp :=
  arithR f 2 [0, 1, 2, 3] (negFree f) (subFree f) 1 false (fun a b _ => if typeInt f.type a ≤ typeInt f.type b then b else a)

/-- AND (R84). -/
def opAnd (f : VForm) : AlOp := intOp f (fun _ a b => a &&& b)
/-- OR (R84). -/
def opOr (f : VForm) : AlOp := intOp f (fun _ a b => a ||| b)
/-- XOR (R84). -/
def opXor (f : VForm) : AlOp := intOp f (fun _ a b => a ^^^ b)
/-- SHL: by B mod the width (R84). -/
def opShl (f : VForm) : AlOp := intOp f (fun w a b => (a <<< (b % w)) % 2 ^ w)
/-- SHR: fills with 0 (R84). -/
def opShr (f : VForm) : AlOp := intOp f (fun w a b => a >>> (b % w))
/-- SAR: fills with the sign (R84). -/
def opSar (f : VForm) : AlOp := intOp f (fun w a b => wrapInt w (signed w a / 2 ^ (b % w)))

/-- Leading 0 bits of a number of `w` bits. -/
def leadingZeros (w x : Nat) : Nat := if x = 0 then w else w - 1 - Nat.log2 x

/-- POPC: the count of 1 bits (R84). -/
def opPopc (f : RForm) : AlOp :=
  arithR f 1 [0, 1, 2, 3] (negFree f) (subFree f) 1 false (fun a _ _ => popCount (typeWidth f.type) a)
/-- CLZ: the count of leading 0 bits (R84). -/
def opClz (f : RForm) : AlOp :=
  arithR f 1 [0, 1, 2, 3] (negFree f) (subFree f) 1 false (fun a _ _ => leadingZeros (typeWidth f.type) a)

/-! ### Predicates and lane exchange -/

/-- A floating-point operand, negated where NEG says so; of a 16-bit TYPE element 0 (R72, R481). -/
def fpOperand (type : BitVec 3) (neg : Bool) (x : Nat) : FVal :=
  let v := decodeFmt (typeFmt type) (if 6 ≤ type.toNat then x % 65536 else x)
  if neg then v.negate else v

/-- A COND B (R72, R481). -/
def compare (f : RForm) (a b : Nat) : Bool :=
  if f.type.toNat < 4 then
    let x := typeInt f.type a
    let y := typeInt f.type b
    match f.cond.toNat with
    | 0 => decide (x = y)
    | 1 => decide (x ≠ y)
    | 2 => decide (x < y)
    | 3 => decide (x ≤ y)
    | 4 => decide (y < x)
    | _ => decide (y ≤ x)
  else
    let x := fpOperand f.type (f.neg.getLsbD 1) a
    let y := fpOperand f.type (f.neg.getLsbD 0) b
    match f.cond.toNat with
    | 0 => FVal.eq x y
    | 1 => !FVal.eq x y
    | 2 => FVal.lt x y
    | 3 => FVal.lt x y || FVal.eq x y
    | 4 => FVal.lt y x
    | 5 => FVal.lt y x || FVal.eq x y
    | 6 => x.isNan || y.isNan
    | _ => !x.isFinite

/-- SETP: predicate DST ← A COND B (R84, R86, R481). With TYPE F64 it counts as an FP64 instruction, since it decodes its operands as
FP64; MOV and SEL, which only move 64 bits, do not (DESIGN CHOICE: R35 does not name the instructions). -/
def opSetp (f : RForm) : AlOp :=
  let k := typeRegs f.type
  { guard := f.guard, fp64 := f.type == 5
    need := fun t =>
      (((needGuard f.guard).and (needPDst f.dst)).and
        ((needSrc t.regs (uA f) (hA f) f.srcA k).and (needSrc t.regs (uB f) (hB f) f.srcB k))).and
      ((needUnused f.srcC).and (reasonIf (uC f || f.udst || !negTyped f || !subFree f || (decide (f.type.toNat < 4) && decide (5 < f.cond.toNat))) 1))
    act := pureAct (fun t ps =>
      ps.foldl (fun t' th =>
        let x := t.srcR f k th
        t'.setPred [th] (f.dst.toNat % 8) (compare f x.1 x.2.1)) t) }

/-- VOTE (R84, R86): any, all, or the mask of the thread's own 32-thread part. -/
def opVote (f : RForm) : AlOp :=
  { guard := f.guard
    need := fun t =>
      (((needGuard f.guard).and (if f.sub = 2 then needDst t.regs false f.dst 1 else needPDst f.dst)).and (needPSrc f.srcA)).and
      (((needUnused f.srcB).and (needUnused f.srcC)).and
        (reasonIf (decide (f.usel ≠ 0) || f.udst || decide (f.type ≠ 0) || !negFree f || !condFree f || decide (2 < f.sub.toNat)) 1))
    act := pureAct (fun t ps =>
      let yes := ps.filter (fun th => t.getP th (f.srcA.toNat % 8))
      if f.sub = 2 then
        t.writeAll false f.dst 1 ps (fun th =>
          (yes.filter (fun x => x / 32 == th / 32)).foldl (fun m x => m ||| (1 <<< (x % 32))) 0)
      else t.setPred ps (f.dst.toNat % 8) (if f.sub = 0 then !yes.isEmpty else yes.length == ps.length)) }

/-- SHFL: SRC_A of thread (B mod 32) of the same 32-thread part; 0 if that thread takes no part (R84, R86). -/
def opShfl (f : RForm) : AlOp :=
  { guard := f.guard
    need := fun t => needR t.regs f 2 [0] (negFree f) (subFree f) (condFree f)
    act := pureAct (fun t ps =>
      t.writeAll f.udst f.dst 1 ps (fun th =>
        let from_ := th / 32 * 32 + t.srcWords (uB f) th f.srcB 1 % 32
        if ps.contains from_ then t.srcWords (uA f) from_ f.srcA 1 else 0)) }

/-! ### The meanings -/

/-- MOV (R84). -/
def execMov (who : TroupeRef) (f : VForm) (s : State) : Host.Outcome State Fault Refusal := .next (s.runOp who (opMov f))
/-- SEL (R84). -/
def execSel (who : TroupeRef) (f : RForm) (s : State) : Host.Outcome State Fault Refusal := .next (s.runOp who (opSel f))
/-- IADD (R84). -/
def execIadd (who : TroupeRef) (f : VForm) (s : State) : Host.Outcome State Fault Refusal := .next (s.runOp who (opIadd f))
/-- ISUB (R84). -/
def execIsub (who : TroupeRef) (f : RForm) (s : State) : Host.Outcome State Fault Refusal := .next (s.runOp who (opIsub f))
/-- IMUL (R84). -/
def execImul (who : TroupeRef) (f : VForm) (s : State) : Host.Outcome State Fault Refusal := .next (s.runOp who (opImul f))
/-- IMAD (R84). -/
def execImad (who : TroupeRef) (f : RForm) (s : State) : Host.Outcome State Fault Refusal := .next (s.runOp who (opImad f))
/-- IMIN (R84). -/
def execImin (who : TroupeRef) (f : RForm) (s : State) : Host.Outcome State Fault Refusal := .next (s.runOp who (opImin f))
/-- IMAX (R84). -/
def execImax (who : TroupeRef) (f : RForm) (s : State) : Host.Outcome State Fault Refusal := .next (s.runOp who (opImax f))
/-- AND (R84). -/
def execAndOp (who : TroupeRef) (f : VForm) (s : State) : Host.Outcome State Fault Refusal := .next (s.runOp who (opAnd f))
/-- OR (R84). -/
def execOrOp (who : TroupeRef) (f : VForm) (s : State) : Host.Outcome State Fault Refusal := .next (s.runOp who (opOr f))
/-- XOR (R84). -/
def execXorOp (who : TroupeRef) (f : VForm) (s : State) : Host.Outcome State Fault Refusal := .next (s.runOp who (opXor f))
/-- SHL (R84). -/
def execShl (who : TroupeRef) (f : VForm) (s : State) : Host.Outcome State Fault Refusal := .next (s.runOp who (opShl f))
/-- SHR (R84). -/
def execShr (who : TroupeRef) (f : VForm) (s : State) : Host.Outcome State Fault Refusal := .next (s.runOp who (opShr f))
/-- SAR (R84). -/
def execSar (who : TroupeRef) (f : VForm) (s : State) : Host.Outcome State Fault Refusal := .next (s.runOp who (opSar f))
/-- POPC (R84). -/
def execPopc (who : TroupeRef) (f : RForm) (s : State) : Host.Outcome State Fault Refusal := .next (s.runOp who (opPopc f))
/-- CLZ (R84). -/
def execClz (who : TroupeRef) (f : RForm) (s : State) : Host.Outcome State Fault Refusal := .next (s.runOp who (opClz f))
/-- SETP (R84). -/
def execSetp (who : TroupeRef) (f : RForm) (s : State) : Host.Outcome State Fault Refusal := .next (s.runOp who (opSetp f))
/-- VOTE (R84). -/
def execVote (who : TroupeRef) (f : RForm) (s : State) : Host.Outcome State Fault Refusal := .next (s.runOp who (opVote f))
/-- SHFL (R84). -/
def execShfl (who : TroupeRef) (f : RForm) (s : State) : Host.Outcome State Fault Refusal := .next (s.runOp who (opShfl f))

end Sys2Proof.Machine
end

