-- ==== Sys2Proof/Machine/Float.lean ====
section
/-!
DEFINITION. Vector floating point, transcendental instructions and CVT (R75 to R78, R84, R151 to R158, R162, R481, R482).
-/

namespace Sys2Proof.Machine

/-! ### Vector arithmetic -/

/-- Apply an operation on exact values to the elements of TYPE: one F32 or F64, or both 16-bit elements of a register (R481); the result is
rounded to nearest even (R77). -/
def fpApply (f : RForm) (op : FVal → FVal → FVal → FVal) (a b c : Nat) : Nat :=
  let fmt := typeFmt f.type
  let x (v : Nat) : FVal := if f.neg.getLsbD 1 then (decodeFmt fmt v).negate else decodeFmt fmt v
  let y (v : Nat) : FVal := if f.neg.getLsbD 0 then (decodeFmt fmt v).negate else decodeFmt fmt v
  if 6 ≤ f.type.toNat then
    roundFmt fmt (op (x (a % 65536)) (y (b % 65536)) (decodeFmt fmt (c % 65536)))
      + 65536 * roundFmt fmt (op (x (a / 65536 % 65536)) (y (b / 65536 % 65536)) (decodeFmt fmt (c / 65536 % 65536)))
  else roundFmt fmt (op (x a) (y b) (decodeFmt fmt c))

/-- An R-form floating-point instruction. -/
def fpR (f : RForm) (sources : Nat) (op : FVal → FVal → FVal → FVal) : AlOp :=
  arithR f sources [4, 5, 6, 7] true (subFree f) 1 (f.type == 5) (fpApply f op)

/-- A mnemonic with an R form and the two I forms on F32 (R74). -/
def fpV (f : VForm) (op : FVal → FVal → FVal) : AlOp :=
  let imm (a i : Nat) : Nat := roundFmt 1 (op (decodeFmt 1 a) (decodeFmt 1 i))
  match f with
  | .r f => fpR f 2 (fun x y _ => op x y)
  | .i f => arithI false f true imm
  | .u f => arithI true f true imm

/-- IEEE 754 minimumNumber, −0 below +0 (R57, R84). -/
def FVal.minNum (x y : FVal) : FVal :=
  if x.isNan then y else if y.isNan then x else if FVal.ltTotal y x then y else x
/-- IEEE 754 maximumNumber, −0 below +0. -/
def FVal.maxNum (x y : FVal) : FVal :=
  if x.isNan then y else if y.isNan then x else if FVal.ltTotal x y then y else x

/-- FADD (R84). -/
def opFadd (f : VForm) : AlOp := fpV f FVal.add
/-- FMUL (R84). -/
def opFmul (f : VForm) : AlOp := fpV f FVal.mul
/-- FFMA: A × B + C with one rounding (R84). -/
def opFfma (f : RForm) : AlOp := fpR f 3 (fun x y z => FVal.add (FVal.mul x y) z)
/-- FMIN (R84). -/
def opFmin (f : RForm) : AlOp := fpR f 2 (fun x y _ => FVal.minNum x y)
/-- FMAX (R84). -/
def opFmax (f : RForm) : AlOp := fpR f 2 (fun x y _ => FVal.maxNum x y)

/-- A transcendental instruction: F32 only, 4 a-cycles per 32 threads (R78, R481). -/
def opTranscend (opcode : Nat) (f : RForm) : AlOp :=
  arithR f 1 [4] true (subFree f) 4 false (fun a _ _ =>
    (transcend opcode (BitVec.ofNat 32 (if f.neg.getLsbD 1 then a ^^^ 0x80000000 else a))).toNat)

/-- FADD (R84). -/
def execFadd (who : TroupeRef) (f : VForm) (s : State) : Host.Outcome State Fault Refusal := .next (s.runOp who (opFadd f))
/-- FMUL (R84). -/
def execFmul (who : TroupeRef) (f : VForm) (s : State) : Host.Outcome State Fault Refusal := .next (s.runOp who (opFmul f))
/-- FFMA (R84). -/
def execFfma (who : TroupeRef) (f : RForm) (s : State) : Host.Outcome State Fault Refusal := .next (s.runOp who (opFfma f))
/-- FMIN (R84). -/
def execFmin (who : TroupeRef) (f : RForm) (s : State) : Host.Outcome State Fault Refusal := .next (s.runOp who (opFmin f))
/-- FMAX (R84). -/
def execFmax (who : TroupeRef) (f : RForm) (s : State) : Host.Outcome State Fault Refusal := .next (s.runOp who (opFmax f))
/-- FRCP (R78, R84). -/
def execFrcp (who : TroupeRef) (f : RForm) (s : State) : Host.Outcome State Fault Refusal := .next (s.runOp who (opTranscend 0x71 f))
/-- FRSQ (R78, R84). -/
def execFrsq (who : TroupeRef) (f : RForm) (s : State) : Host.Outcome State Fault Refusal := .next (s.runOp who (opTranscend 0x72 f))
/-- FEXP2 (R78, R84). -/
def execFexp2 (who : TroupeRef) (f : RForm) (s : State) : Host.Outcome State Fault Refusal := .next (s.runOp who (opTranscend 0x73 f))
/-- FLOG2 (R78, R84). -/
def execFlog2 (who : TroupeRef) (f : RForm) (s : State) : Host.Outcome State Fault Refusal := .next (s.runOp who (opTranscend 0x74 f))

/-! ### CVT (R151 to R158) -/

/-- Registers of an operand of `n` elements (R152). -/
def cvtRegs (fmt n : Nat) : Nat :=
  match fmt with
  | 0 => 2 * n
  | 15 => 4 * n
  | 2 => n
  | _ => ceilDiv (n * fmtWidth fmt) 32

/-- Bits from one element to the next in the packed string. -/
def cvtStride (fmt : Nat) : Nat := if fmt = 2 then 32 else fmtWidth fmt

/-- Element j of a packed operand (R75, R152). -/
def cvtElem (fmt w j : Nat) : Nat :=
  let x := (w >>> (cvtStride fmt * j)) % 2 ^ cvtStride fmt
  if fmt = 2 then x >>> 8 else x

/-- Put element j into a packed result. -/
def cvtPut (fmt w j x : Nat) : Nat := w + ((if fmt = 2 then x <<< 8 else x) <<< (cvtStride fmt * j))

/-- Coordinates of a stochastic CVT (R158). -/
def cvtCoords (t : Troupe) (thread count elem : Nat) : W64 × W64 :=
  (BitVec.ofNat 64 (t.kernelId % 65536 * 2 ^ 48 + t.groupIndex % 65536 * 2 ^ 32 + t.index % 256 * 2 ^ 24 + thread % 256 * 2 ^ 16),
   BitVec.ofNat 64 (count % 2 ^ 32 * 2 ^ 32 + elem * 2 ^ 8))

/-- What one CVT of a thread gives: the packed result, the saturations, and the first non-finite element with its kind. -/
structure CvtOut where
  word : Nat := 0
  sat : Nat := 0
  first : Option (Nat × Nat) := none
deriving DecidableEq, Repr

/-- Convert the elements of one thread (R153, R154, R162). -/
def cvtThread (t : Troupe) (f : CvtForm) (th : Nat) : CvtOut :=
  let sf := f.srcFmt.toNat
  let df := f.dstFmt.toNat
  let n := 2 ^ f.count.toNat
  let w := t.srcWords (f.usel.getLsbD 2) th f.srcA (cvtRegs sf n)
  (List.range n).foldl (fun o j =>
    let x := decodeFmt sf (cvtElem sf w j)
    let r : Rnd := match f.rnd.toNat with
      | 0 => .nearest
      | 1 => .zero
      | _ => let c := cvtCoords t th (Assoc.get 0 t.cvtCount th) j; .stochastic (stochV t.seed c.1 c.2)
    let c := convertFmt df r x
    let y := decodeFmt df c.enc
    let nf : Option (Nat × Nat) := if !x.isFinite then some (j, nfKind x) else if !y.isFinite then some (j, nfKind y) else none
    { word := cvtPut df o.word j c.enc, sat := o.sat + c.counted.toNat, first := o.first.or nf }) {}

/-- CVT: packed conversion, saturation count, NF (R84, R151 to R158, R162 to R164). Of several non-finite elements a trap names the lowest
participant's lowest, and its KIND is the source's where the source is not finite (DESIGN CHOICE: R164 leaves both open). -/
def opCvt (f : CvtForm) : AlOp :=
  let sf := f.srcFmt.toNat
  let df := f.dstFmt.toNat
  let n := 2 ^ f.count.toNat
  let gs := cvtRegs sf n
  let gd := cvtRegs df n
  let uniform := f.usel.getLsbD 2
  { guard := f.guard
    need := fun t =>
      (((needGuard f.guard).and (needDst t.regs f.udst f.dst gd)).and (needSrc t.regs uniform (f.reuse.getLsbD 2) f.srcA gs)).and
      (((needUnused f.srcB).and (needUnused f.srcC)).and
        (((udstCheck f.udst uniform f.srcA).and (reasonIf (f.reuse.getLsbD 1 || f.reuse.getLsbD 0) 2)).and
          (reasonIf (f.usel.getLsbD 1 || f.usel.getLsbD 0 || decide (f.rnd = 3) || decide (4 < gs) || decide (4 < gd)
            || (decide (sf = 0 ∨ sf = 15 ∨ df = 0 ∨ df = 15) && decide (f.count ≠ 0)) || decide (sf = df)) 1)))
    act := fun s who t u ps _ =>
      let ps := if f.udst then ps.take 1 else ps
      let outs := ps.map (fun th => (th, cvtThread t f th))
      let t' := outs.foldl (fun t' o => t'.putWords f.udst o.1 f.dst gd o.2.word) t
      let t' := if f.rnd = 2 then
          { t' with cvtCount := ps.foldl (fun m th => Assoc.put m th (Assoc.get 0 m th + 1)) t'.cvtCount }
        else t'
      let s := (s.setTroupe who t').addSat t.ctx ((outs.map (fun o => o.2.sat)).foldl (· + ·) 0)
      match outs.findSome? (fun o => o.2.first.map (fun e => (o.1, e.1, e.2))) with
      | none => s
      | some (th, elem, kind) => s.nfEvent who t' u.pc (nfDetail 2 kind false th 0 0 0 elem df) }

/-- CVT (R84, R153). -/
def execCvt (who : TroupeRef) (f : CvtForm) (s : State) : Host.Outcome State Fault Refusal := .next (s.runOp who (opCvt f))

end Sys2Proof.Machine
end

