-- ==== Sys2Proof/Machine/Control.lean ====
section
/-!
DEFINITION. BRA, CALL, RET, EXIT, the barriers, TURN.SIG, TURN.WAIT, FENCE.G and NF.CHK (R43, R47, R48, R74, R83, R84, R86, R91 to R94,
R99, R106, R346, R483).
-/

namespace Sys2Proof.Machine

/-! ### Branches -/

/-- The target of BRA and CALL: the next PC plus the signed IMM32, within 57 bits (R74). -/
def branchTarget (pc : Nat) (imm : W32) : Nat := (((pc : Int) + imm.toInt) % (2 ^ 57 : Int)).toNat

/-- The common tests of BRA and CALL: IMM32 bits [2:0] must be 0; unused fields hold 0xFF (R74, R86). Bits [2:0] not 0 give reason 0x01, a
refused value in a field (DESIGN CHOICE: R104 names reason 0x06 for RET alone); REUSE [49:48] not 0 as in `needI`. -/
def needBranch (f : IForm) : Need :=
  ((needGuard f.guard).and (needUnused f.srcA)).and
    ((reasonIf (decide (f.imm.toNat % 8 ≠ 0)) 1).and (reasonIf (f.reuse.getLsbD 1 || f.reuse.getLsbD 0) 2))

/-- BRA: PC ← next PC + IMM32 (R43, R84). -/
def opBra (f : IForm) : AlOp :=
  { guard := f.guard, latency := false, branch := true
    need := fun _ => (needBranch f).and (needUnused f.dst)
    act := fun s who t u ps slot =>
      let next := (u.pc + 8) % 2 ^ 57
      s.setTroupe who ((t.split u.low slot (fun th => if ps.contains th then branchTarget next f.imm else next))) }

/-- CALL: DST pair ← next PC; PC ← next PC + IMM32 (R84, R86). -/
def opCall (c : CallForm) : AlOp :=
  let f := c.f
  { guard := f.guard, branch := true
    need := fun t => (needBranch f).and (needDst t.regs c.uniform f.dst 2)
    act := fun s who t u ps slot =>
      let next := (u.pc + 8) % 2 ^ 57
      let t := t.writeAll c.uniform f.dst 2 ps (fun _ => next)
      s.setTroupe who (t.split u.low slot (fun th => if ps.contains th then branchTarget next f.imm else next)) }

/-- RET: PC ← the SRC_A pair, whose bits [2:0] must be 0 (R43, R84, R86). Bits [63:57] of the pair are dropped: a PC has 57 bits
(DESIGN CHOICE: the spec does not say what a target above them does). -/
def opRet (f : RForm) : AlOp :=
  let target (t : Troupe) (th : Nat) : Nat := (t.srcPair (uA f) th f.srcA).toNat
  { guard := f.guard, latency := false, branch := true
    need := fun t =>
      (((needGuard f.guard).and (needUnused f.dst)).and (needSrc t.regs (uA f) (hA f) f.srcA 2)).and
      (((needUnused f.srcB).and (needUnused f.srcC)).and
        (reasonIf (uB f || uC f || f.udst || decide (f.type ≠ 0) || !subFree f || !negFree f || !condFree f) 1))
    test := fun s _ t _ ps => (s, if ps.any (fun th => decide (target t th % 8 ≠ 0)) then .refused [6] else .go)
    act := fun s who t u ps slot =>
      let next := (u.pc + 8) % 2 ^ 57
      s.setTroupe who (t.split u.low slot (fun th => if ps.contains th then target t th % 2 ^ 57 else next)) }

/-- The fields of EXIT and FENCE.G (R86). -/
def needBare (f : RForm) : Need :=
  ((((needGuard f.guard).and (needUnused f.dst)).and (needUnused f.srcA)).and (needUnused f.srcB)).and
  ((needUnused f.srcC).and
    (reasonIf (decide (f.usel ≠ 0) || f.udst || decide (f.type ≠ 0) || !subFree f || !negFree f || !condFree f) 1))

/-- Threads of the issuing subset exit (R48). -/
def Troupe.exitThreads (t : Troupe) (u : Subset) (ps : List Nat) : Troupe :=
  let rest := u.threads.filter (fun th => !ps.contains th)
  let subs := t.subsets.flatMap (fun x =>
    if x.low = u.low then (if rest.isEmpty then [] else [{ x with threads := rest }]) else [x])
  { t with subsets := subs
           running := if rest.isEmpty then none else some (minD 0 rest)
           exited := ps.foldl (fun l th => Assoc.put l th u.pc) t.exited }

/-- EXIT: the thread ends; the troupe ends with its last thread (R48). -/
def opExit (f : RForm) : AlOp :=
  { guard := f.guard, latency := false
    need := fun _ => needBare f
    act := fun s who t u ps _ =>
      let t := (t.exitThreads u ps).settleBarT
      let s := s.setTroupe who t
      if t.subsets.isEmpty then s.endTroupe who.ring.val who.booth.val t else s.settleBarrier who.ring.val }

/-! ### Barriers -/

/-- The fields of BAR.T and BAR.R (R93). -/
def needBar (f : BarForm) (gOk : Bool) : Need :=
  ((needNoGuard f.guard).and (reasonIf (decide (f.reserved ≠ 0)) 2)).and (reasonIf (f.g && !gOk) 1)

/-- A subset arrives at BAR.T; when it does not wait, the next instruction of the troupe is held as after a branch (R37, R47). -/
def Troupe.arriveBarT (t : Troupe) (low : Nat) : Troupe :=
  let t := (t.enterWait low .convergence).settleBarT
  if t.subsets.any Subset.atBarT then t else t.addPending [nextInstr] t.live false

/-- BAR.T (R47). -/
def opBarT (f : BarForm) : AlOp :=
  { guard := 0, latency := false
    need := fun _ => needBar f false
    act := fun s who t u _ _ => (s.setTroupe who (t.arriveBarT u.low)).settleBarrier who.ring.val }

/-- BAR.R: convergence, then the ring barrier (R94, R483). -/
def opBarR (f : BarForm) : AlOp :=
  { guard := 0, latency := false
    need := fun _ => needBar f true
    act := fun s who t u _ _ =>
      (s.setTroupe who (t.enterWait u.low (.ringBarrier f.g)).settleBarT).settleBarrier who.ring.val }

/-! ### FENCE.G and turnstiles -/

/-- Is a .G store or atomic of one of the threads not yet acknowledged (R83, R346)? -/
def Ring.fenceHolds (r : Ring) (uid : Nat) (threads : List Nat) : Bool :=
  r.writes.any (fun w => !w.2.writeBack && w.2.uid == uid && w.2.threads.any (fun th => threads.contains th))

/-- FENCE.G issues once the participants' earlier .G stores and atomics have reached their home bushel (R84, R346). -/
def opFenceG (f : RForm) : AlOp :=
  { guard := f.guard, latency := false
    need := fun _ => needBare f
    hold := fun s who t u => (s.ring who.ring.val).fenceHolds t.uid (participants t u f.guard)
    act := pureAct (fun t _ => t) }

/-- Value of TURN.SIG and TURN.WAIT: IMM zero-extended, or the uniform pair (R91). -/
def turnValue (t : Troupe) (f : TurnForm) : W64 :=
  if f.valImm then f.imm.setWidth 64 else (t.getU (f.valU.toNat + 1) ++ t.getU f.valU.toNat : BitVec 64)

/-- The common field tests of TURN.SIG and TURN.WAIT (R91). -/
def needTurn (f : TurnForm) : Need :=
  ((needGuard f.guard).and (reasonIf (decide (f.reservedA ≠ 0) || decide (f.reservedB ≠ 0)) 2)).and
    (({ reads := [256 + f.handleU.toNat] } : Need).and
      (if f.valImm then {} else
        { reads := [256 + f.valU.toNat, 256 + (f.valU.toNat + 1) % 64], reasons := if f.valU.toNat % 2 ≠ 0 then [4] else [] }))

/-- TURN.SIG: waits as FENCE.G does, then signals once for the subset (R92). -/
def opTurnSig (f : TurnForm) : AlOp :=
  { guard := f.guard, latency := false
    need := fun _ => needTurn f
    hold := fun s who t u => (s.ring who.ring.val).fenceHolds t.uid (participants t u f.guard)
    test := fun s _ t _ ps =>
      (s, if !ps.isEmpty && !s.canSignal t.ctx (t.getU f.handleU.toNat) then .refused [10] else .go)
    act := fun s who t _ ps _ =>
      let s := s.setTroupe who t
      if ps.isEmpty then s else s.signalHandle t.ctx t.phase (t.getU f.handleU.toNat) f.mode (turnValue t f) false none }

/-- TURN.WAIT: holds the subset until the turnstile reaches the value or carries its error bit; PDST tells which (R91, R92, R106). -/
def opTurnWait (f : TurnForm) : AlOp :=
  { guard := f.guard, latency := false
    need := fun _ =>
      ((needTurn f).and (reasonIf f.mode 1)).and (if f.pdstEn then { writes := [320 + f.pdst.toNat] } else {})
    test := fun s _ t _ ps =>
      (s, if !ps.isEmpty && !s.canWait t.ctx (t.getU f.handleU.toNat) then .refused [10] else .go)
    act := fun s who t u ps _ =>
      let h := (t.getU f.handleU.toNat).toNat
      if ps.isEmpty then s.setTroupe who t
      else match s.waitEnd t.ctx h (turnValue t f) with
        | some e => s.setTroupe who (if f.pdstEn then t.setPred ps f.pdst.toNat e else t)
        | none =>
          s.setTroupe who (t.enterWait u.low (.turnstile h (turnValue t f) (if f.pdstEn then some f.pdst.toNat else none) ps)) }

/-! ### The meanings -/

/-- BRA (R43). -/
def execBra (who : TroupeRef) (f : IForm) (s : State) : Host.Outcome State Fault Refusal := .next (s.runOp who (opBra f))
/-- CALL (R84). -/
def execCall (who : TroupeRef) (f : CallForm) (s : State) : Host.Outcome State Fault Refusal := .next (s.runOp who (opCall f))
/-- RET (R84). -/
def execRet (who : TroupeRef) (f : RForm) (s : State) : Host.Outcome State Fault Refusal := .next (s.runOp who (opRet f))
/-- EXIT (R48). -/
def execExit (who : TroupeRef) (f : RForm) (s : State) : Host.Outcome State Fault Refusal := .next (s.runOp who (opExit f))
/-- FENCE.G (R346). -/
def execFenceG (who : TroupeRef) (f : RForm) (s : State) : Host.Outcome State Fault Refusal := .next (s.runOp who (opFenceG f))
/-- TURN.SIG (R92). -/
def execTurnSig (who : TroupeRef) (f : TurnForm) (s : State) : Host.Outcome State Fault Refusal := .next (s.runOp who (opTurnSig f))
/-- TURN.WAIT (R92). -/
def execTurnWait (who : TroupeRef) (f : TurnForm) (s : State) : Host.Outcome State Fault Refusal := .next (s.runOp who (opTurnWait f))
/-- BAR.T (R47). -/
def execBarT (who : TroupeRef) (f : BarForm) (s : State) : Host.Outcome State Fault Refusal := .next (s.runOp who (opBarT f))
/-- BAR.R (R94). -/
def execBarR (who : TroupeRef) (f : BarForm) (s : State) : Host.Outcome State Fault Refusal := .next (s.runOp who (opBarR f))
end Sys2Proof.Machine
end

