-- ==== Sys2Proof/Machine/MxShape.lean ====
section
/-!
DEFINITION. Shapes of matrix operands in scratchpad and the 64-byte blocks that matrix instructions still have to read or write (R98 to
R99, R110 to R113, R126, R127, R129).
-/

namespace Sys2Proof.Machine

/-- K of a format (R110). -/
def mxK (fmt : Nat) : Nat :=
  match fmt with
  | 2 => 16
  | 5 | 6 | 10 => 64
  | 7 | 8 | 9 | 11 => 128
  | _ => 32

/-- Bytes of a row of `n` elements (R111). -/
def rowBytes (fmt n : Nat) : Nat := n * fmtWidth fmt / 8

/-- Bytes of an activation row (R110). -/
def actBytes (fmt : Nat) : Nat := rowBytes fmt (mxK fmt)

/-- Bytes of an activation row that the feeder reads: at PASSES 1 the high plane alone (R121, R123). -/
def feedBytes (c : MxCfg) : Nat := if c.afmt = 1 ∧ c.passes = 1 then 64 else actBytes c.afmt

/-- Elements per block scale, or 0 without scales (R113). -/
def scaleBlock (scale : Nat) : Nat := match scale with | 0 => 0 | 2 => 16 | _ => 32

/-- Scale bytes of one row or column (R113). -/
def scaleBytes (fmt scale : Nat) : Nat := if scaleBlock scale = 0 then 0 else mxK fmt / scaleBlock scale

/-- A tile of the format takes a slot pair (R114). -/
def pairTile (fmt : Nat) : Bool := fmt == 7 || fmt == 8 || fmt == 1

/-- Rows of a weight source, and the bytes of one (R111). -/
def ldwRows (fmt : Nat) (t : Bool) : Nat × Nat := if t then (32, actBytes fmt) else (mxK fmt, rowBytes fmt 32)

/-- Byte offset of row i (R111). -/
def rowAt (pitch bytes i : Nat) : Nat := i * (if pitch = 0 then bytes else pitch * 64)

/-- Bytes that a drain writes per row (R126). -/
def drainBytes (dfmt : Nat) : Nat := if dfmt = 15 then 512 else rowBytes dfmt 32

/-- ROWS as encoded (R98). -/
def rowsOf (rows : BitVec 7) : Nat := if rows = 0 then 128 else rows.toNat

/-- 64-byte blocks of a byte range. -/
def blocksOf (addr len : Nat) : List Nat :=
  if len = 0 then [] else (List.range ((addr + len - 1) / 64 + 1 - addr / 64)).map (fun i => addr / 64 + i)

/-- Source bytes of an MX.LDW, in the order of the tile's bytes: (address, length) of its rows, then its scales. -/
def Ldw.ranges (l : Ldw) : List (Nat × Nat) :=
  let r := ldwRows l.cfg.wfmt l.transposed
  (List.range r.1).map (fun i => (l.addr + rowAt l.pitch r.2 i, r.2))
    ++ (if l.cfg.scale = 0 then [] else [(l.scaleAddr, 32 * scaleBytes l.cfg.wfmt l.cfg.scale)])

/-- Bytes of one activation row of an MX.RUN with its scales. -/
def MxRunOp.rowRanges (o : MxRunOp) (i : Nat) : List (Nat × Nat) :=
  let k := scaleBytes o.cfg.afmt o.cfg.scale
  (o.addr + rowAt o.pitch (actBytes o.cfg.afmt) i, feedBytes o.cfg) :: (if o.cfg.scale = 0 then [] else [(o.scaleAddr + k * i, k)])

/-- Scratchpad bytes that an MX.DRN writes for row i. -/
def MxDrnOp.rowRanges (o : MxDrnOp) (i : Nat) : List (Nat × Nat) :=
  (if o.toRegs then [] else [(o.addr + rowAt o.pitch (drainBytes o.dfmt) i, drainBytes o.dfmt)])
    ++ (if o.rowsum then [(o.rowsumAddr + 4 * i, 4)] else [])

/-- Blocks of a list of ranges. -/
def blocksOfRanges (l : List (Nat × Nat)) : List Nat := l.flatMap (fun p => blocksOf p.1 p.2)

/-- Blocks that queued matrix instructions of a troupe still have to read (R129). -/
def Ring.mxReads (r : Ring) (uid : Nat) : List Nat :=
  ((r.ldq.filter (fun l => l.uid == uid)).flatMap (fun l => blocksOfRanges l.ranges)) ++
  (r.booths.flatMap (fun b => b.2.mq.flatMap (fun o => match o with
    | .run o => if o.uid = uid then (List.range (o.rows - o.rowsRead)).flatMap (fun i => blocksOfRanges (o.rowRanges (o.rowsRead + i))) else []
    | .drn _ => [])))

/-- Blocks that queued matrix instructions of a troupe still have to write (R129). -/
def Ring.mxWrites (r : Ring) (uid : Nat) : List Nat :=
  r.booths.flatMap (fun b => b.2.mq.flatMap (fun o => match o with
    | .drn o => if o.uid = uid then (List.range (o.rows - o.rowsWritten)).flatMap (fun i => blocksOfRanges (o.rowRanges (o.rowsWritten + i))) else []
    | .run _ => []))

/-- Blocks of a troupe's scratchpad stores and atomics not yet done (R129). -/
def Ring.storeBlocks (r : Ring) (uid : Nat) : List Nat :=
  (r.sreqs.flatMap (fun q => match q with
    | .store _ i bytes _ => if i = uid then bytes.map (fun p => p.1 / 64) else []
    | _ => [])) ++
  ((r.combiner ++ r.satoms).flatMap (fun c => if c.uid = uid ∧ !c.global then c.parts.map (fun p => p.addr / 64) else []))

/-- Two block lists meet. -/
def meets (a b : List Nat) : Bool := a.any (fun x => b.contains x)

/-- The ring group of a troupe. -/
def Ring.groupOf? (r : Ring) (t : Troupe) : Option RingGroup := r.groups.find? (fun g => g.id == t.group)
/-- Base of the scratchpad allocation of a troupe's ring group. -/
def Ring.baseOf (r : Ring) (t : Troupe) : Nat := ((r.groupOf? t).map (·.base)).getD 0
/-- u5 of a troupe's ring group (R63). -/
def Ring.sizeOf (r : Ring) (t : Troupe) : Nat := ((r.groupOf? t).map (·.size)).getD 0

/-- Rows of an MX.RUN of the troupe into the unit are still to be written (R129). -/
def Ring.unitBusy (r : Ring) (uid unit : Nat) : Bool :=
  r.booths.any (fun b =>
    b.2.mq.any (fun o => match o with
      | .run o => o.uid == uid && decide (o.acc ≤ unit) && decide (unit < o.acc + ceilDiv o.rows 8) &&
          (List.range o.rows).any (fun i => decide (o.rowsIn ≤ i) && decide (o.acc + i / 8 = unit))
      | .drn _ => false) ||
    b.2.pipe.any (fun p => p.uid == uid && p.accRow / 8 == unit))

end Sys2Proof.Machine
end

