-- ==== Sys2Proof/Machine/LoadStore.lean ====
section
/-!
DEFINITION. LD and ST (R79 to R83, R167, R168, R175, R176, R191, R194), the return of load data and the acknowledgement of writes (R40,
R346).
-/

namespace Sys2Proof.Machine

/-! ### Operand forms (R79, R81, R82) -/

/-- Bytes of SIZE. -/
def memSize (f : MemForm) : Nat := 2 ^ f.size.toNat
/-- Registers of the data. -/
def memRegs (f : MemForm) : Nat := if f.size.toNat ≤ 2 then 1 else if f.size.toNat = 3 then 2 else 4
/-- Element size of a transposing read (R82). -/
def tElem (f : MemForm) : Nat := if f.signed then 4 else 2
/-- Row pitch of a transposing read in bytes, and its byte offset (R79). -/
def tPitch (f : MemForm) : Nat := bits f.offset.toNat 21 14 * 64
/-- Byte offset of a transposing read. -/
def tOffset (f : MemForm) : Nat := bits f.offset.toNat 13 0

/-- The byte offset of a .S access (R79). -/
def scratchAddr (t : Troupe) (f : MemForm) (th : Nat) : Int :=
  if f.transpose then ((t.src f.baseU th f.base).toNat : Int) + tOffset f else (t.src f.baseU th f.base).toNat + f.offset.toInt

/-- The virtual address of a .G or .L access (R79), modulo 2^64. -/
def globalAddr (t : Troupe) (f : MemForm) (th : Nat) : Nat :=
  (((t.srcPair f.baseU th f.base).toNat + f.offset.toInt) % (2 ^ 64 : Int)).toNat

/-- The tests that the fields of LD (or ST) alone decide (R79, R82, R104). REUSE [48], and [50] on LD, must be 0 and give reason 0x02, as
Reserved bits do (DESIGN CHOICE: R79 names no reason). -/
def needMem (regs : Nat) (f : MemForm) (load : Bool) : Need :=
  let data := if load then needDst regs false f.data (memRegs f) else needSrc regs false (f.reuse.getLsbD 2) f.data (memRegs f)
  let base := needSrc regs f.baseU (f.reuse.getLsbD 1) f.base (if f.space = 0 then 1 else 2)
  let hintOk : Bool := match f.hint.toNat with
    | 0 => true
    | 1 => f.space == 1
    | 2 => load && (f.space == 1 || f.space == 2)
    | _ => true
  let tOk : Bool := !f.transpose || (load && f.space == 0 && f.size == 4 && f.baseU)
  let signOk : Bool := !f.signed || (load && (decide (f.size.toNat ≤ 1) || (f.transpose && f.space == 0)))
  (((needGuard f.guard).and data).and base).and
    ((((reasonIf (f.reuse.getLsbD 0 || (load && f.reuse.getLsbD 2)) 2).and
      (reasonIf (decide (f.space = 3) || decide (f.hint = 3) || decide (5 ≤ f.size.toNat) || !signOk
        || (f.transpose && decide (tPitch f = 0))) 1))).and (reasonIf (!hintOk || !tOk) 9))

/-- Bytes that one participant touches of scratchpad, as ring addresses. -/
def scratchBytes (r : Ring) (t : Troupe) (f : MemForm) (th : Nat) : List (Nat × Nat) :=
  let a := r.baseOf t + (scratchAddr t f th).toNat
  if f.transpose then (List.range (16 / tElem f)).map (fun k => (a + k * tPitch f, 32 * tElem f)) else [(a, memSize f)]

/-- The tests of a .S access (R81, R82, R104). -/
def testScratch (s : State) (who : TroupeRef) (t : Troupe) (f : MemForm) (ps : List Nat) : Verdict :=
  let u5 := (s.ring who.ring.val).sizeOf t
  let mis := ps.any (fun th => decide (scratchAddr t f th % (memSize f : Int) ≠ 0))
  let last (th : Nat) : Int :=
    if f.transpose then scratchAddr t f th + (16 / tElem f - 1) * tPitch f + 32 * tElem f else scratchAddr t f th + memSize f
  let out := ps.any (fun th => decide (scratchAddr t f th < 0) || decide ((u5 : Int) < last th))
  let l := (if mis then [6] else []) ++ (if out then [11] else [])
  if l.isEmpty then .go else .refused l

/-- Translate the address of every participant; the first fault in lane order, or a wait, ends it (R103). -/
def translateAll (s : State) (tent ctx : Nat) (write : Bool) (vas : List (Nat × Nat)) : State × List (Nat × Phys) × Verdict :=
  vas.foldl (fun (acc : State × List (Nat × Phys) × Verdict) p =>
    match acc.2.2 with
    | .fault _ => acc
    | v =>
      match acc.1.translate tent ctx p.2 write with
      | (s, .ok ph) => (s, acc.2.1 ++ [(p.1, ph)], v)
      | (s, .held) => (s, acc.2.1, .held)
      | (s, .fault) => (s, acc.2.1, .fault p.2)) (s, [], .go)

/-- The tests of a .G or .L access. -/
def testGlobal (s : State) (who : TroupeRef) (t : Troupe) (f : MemForm) (write : Bool) (ps : List Nat) : State × Verdict :=
  if ps.any (fun th => decide (globalAddr t f th % memSize f ≠ 0)) then (s, .refused [6])
  else
    let r := translateAll s (tentOfRing who.ring.val) t.ctx write (ps.map (fun th => (th, globalAddr t f th)))
    (r.1, r.2.2)

/-- An atomic of the same threads still lies in the combiner: a later access of theirs waits behind it (R83). -/
def Ring.atomAhead (r : Ring) (uid : Nat) (global : Bool) (ths : List Nat) : Bool :=
  (r.combiner ++ r.satoms).any (fun c => c.uid == uid && c.global == global && c.parts.any (fun p => ths.contains p.thread))

/-- The waits of R83 and R129 of a load or store. -/
def holdMem (load : Bool) (f : MemForm) (s : State) (who : TroupeRef) (t : Troupe) (u : Subset) : Bool :=
  let r := s.ring who.ring.val
  let ps := participants t u f.guard
  r.atomAhead t.uid (f.space ≠ 0) ps ||
  (f.space == 0 &&
    (let b := ps.flatMap (fun th => blocksOfRanges (scratchBytes r t f th))
     meets b (r.mxWrites t.uid) || (!load && meets b (r.mxReads t.uid))))

/-- The distinct 16-byte words of some byte ranges. -/
def wordsOf (ranges : List (Nat × Nat)) : List Nat :=
  distinct (ranges.flatMap (fun p => (List.range ((p.1 + p.2 - 1) / 16 + 1 - p.1 / 16)).map (fun i => p.1 / 16 + i)))

/-- a-cycles of a .S access of the threads of one 32-thread part: the most distinct 16-byte words in one bank, at least 1 (R168). -/
def bankCycles (ranges : List (Nat × Nat)) : Nat :=
  let words := wordsOf ranges
  max 1 (maxZ ((List.range 32).map (fun b => (words.filter (fun w => w % 32 == b)).length)))

/-- Extra a-cycles of a .S access over all parts (R168); a transposing read has none. -/
def extraScratch (f : MemForm) (s : State) (who : TroupeRef) (t : Troupe) (ps : List Nat) : Nat :=
  if f.space ≠ 0 || f.transpose then 0
  else
    let r := s.ring who.ring.val
    ((List.range (t.width / 32)).map (fun part =>
      bankCycles ((ps.filter (fun th => th / 32 == part)).flatMap (scratchBytes r t f)) - 1)).foldl (· + ·) 0

/-! ### Ring L1 (R175 to R177, R191) -/

/-- Sets of the L1. -/
def Ring.l1Sets (r : Ring) : Nat := r.l1Units * 128
/-- Keys of the ways that a grain may use: its set is the grain number modulo the number of sets (DESIGN CHOICE). -/
def Ring.l1Ways (r : Ring) (g : Nat) : List Nat := (List.range 8).map (fun w => g % r.l1Sets * 8 + w)
/-- The line of a grain, as .G data or as .L data of a dispatch. -/
def Ring.l1Find? (r : Ring) (g : Nat) (loc : Option CmdRef) : Option (Nat × L1Line) :=
  (r.l1Ways g).findSome? (fun k => match Assoc.find? r.l1 k with
    | some l => if l.grain = g ∧ l.loc = loc then some (k, l) else none
    | none => none)
/-- Put a line as the most recently used. -/
def Ring.l1Put (r : Ring) (k : Nat) (l : L1Line) : Ring :=
  { r with l1 := Assoc.put r.l1 k { l with used := r.tick }, tick := r.tick + 1 }
/-- Drop the lines of a grain that a predicate picks. -/
def Ring.l1Drop (r : Ring) (g : Nat) (p : L1Line → Bool) : Ring :=
  { r with l1 := r.l1.filter (fun x => !(x.2.grain == g && p x.2)) }

/-- Allocate a line: a free way, else the least recently used line of the set, written back if dirty (R80, R175). -/
def State.l1Alloc (s : State) (ring : Nat) (l : L1Line) : State :=
  let r := s.ring ring
  let ways := r.l1Ways l.grain
  match ways.find? (fun k => (Assoc.find? r.l1 k).isNone) with
  | some k => s.setRing ring (r.l1Put k l)
  | none =>
    let old := ways.foldl (fun (b : Option (Nat × L1Line)) k =>
      match b, Assoc.find? r.l1 k with
      | none, some x => some (k, x)
      | some y, some x => if x.used < y.2.used then some (k, x) else b
      | _, none => b) none
    match old with
    | some (k, x) => (s.spill ring x).modRing ring (fun r => r.l1Put k l)
    | none => s

/-- Does a miss to an ell continue the entry, in its direction or, with none known yet, in either? -/
def StreamEnt.follows (e : StreamEnt) (ell : Nat) : Bool :=
  decide ((ell : Int) = e.ell + 1 ∧ e.dir ≠ -1) || decide ((ell : Int) = (e.ell : Int) - 1 ∧ e.dir ≠ 1)

/-- One LD.G miss of the stream detector: the ring, and whether the miss is marked to bypass the bushel. Only a miss that continues a stream
is marked; a miss to the current ell leaves its entry as it is; a stream that the miss neither continues nor hits ends (R191, R192). -/
def Ring.streamMiss (r : Ring) (ell : Nat) : Ring × Bool :=
  let next := r.streams.find? (fun e => e.follows ell)
  let hit := next.or (r.streams.find? (fun e => e.ell == ell))
  let marked : Bool := next.any (fun e => decide (4 ≤ e.run))
  let broken (e : StreamEnt) : StreamEnt := if 4 ≤ e.run ∧ !e.follows ell ∧ e.ell ≠ ell then { e with run := 1 } else e
  let l := match hit with
    | some e => r.streams.map (fun x =>
        if x = e then
          (if x.ell = ell then { x with used := r.tick }
           else { ell, dir := (ell : Int) - x.ell, run := x.run + 1, used := r.tick })
        else broken x)
    | none =>
      let old := r.streams.map broken
      let old := if old.length < 16 then old else
        let least := minD 0 (old.map (·.used))
        old.eraseP (fun e => e.used == least)
      old ++ [{ ell, dir := 0, run := 1, used := r.tick }]
  ({ r with streams := l, tick := r.tick + 1 }, marked)

/-! ### LD -/

/-- The bytes of a grain that the given destinations read. -/
def neededMask (dsts : List LoadDst) (g size : Nat) : W64 :=
  (dsts.filter (fun d => d.grain == g)).foldl (fun m d =>
    (List.range size).foldl (fun m i => m ||| (1#64 <<< (d.off + i))) m) 0

/-- What the L1 lookup of one grain of a load gives: its bytes when they are served there, whether a line is to be allocated when they come
from the home, and the valid bytes of a .L line that they are merged under. -/
structure Looked where
  data : Option (List Byte) := none
  alloc : Bool := false
  under : Option (W64 × List Byte) := none

/-- Look one grain of a load up in L1 and, when it is not served there, send the request to its home (R176). -/
def State.loadGrain (s : State) (ring op ctx : Nat) (f : MemForm) (cmd : CmdRef) (g key gen : Nat) (mask : W64) : State × Looked :=
  let isLocal : Bool := f.space == 2
  let dead : Bool := f.hint == 2
  let strm : Bool := f.hint == 1
  let loc : Option CmdRef := if isLocal then some cmd else none
  let req (op : Nat) (alloc : LoadAlloc) : BReq :=
    { ring, ctx, key, gen, ell := ellOfGrain g, grain := grainInEll g, kind := .load op dead alloc }
  let found := (s.ring ring).l1Find? g loc
  if strm then (s.sendBushel (req op .hint), {})
  else if dead && !isLocal then ((s.modRing ring (fun r => r.l1Drop g (fun l => l.loc.isNone))).sendBushel (req op .frame), {})
  else
    match found with
    | some (k, l) =>
      if mask &&& ~~~l.valid = 0 then
        if dead then
          -- served; the line is dropped without write-back and the grain is marked at its home
          let s := s.modRing ring (fun r => { r with l1 := Assoc.del r.l1 k, nextOp := r.nextOp + 1 })
          (s.sendBushel (req (s.ring ring).nextOp .frame), { data := some l.data })
        else (s.modRing ring (fun r => r.l1Put k l), { data := some l.data })
      else
        -- bytes outside the mask: the grain is fetched and merged
        let s := s.modRing ring (fun r => if dead then { r with l1 := Assoc.del r.l1 k } else r.l1Put k l)
        (s.sendBushel (req op .frame), { alloc := !dead, under := some (l.valid, l.data) })
    | none =>
      if isLocal then (s.sendBushel (req op .frame), { alloc := !dead })
      else
        let (r, marked) := (s.ring ring).streamMiss (ellOfGrain g)
        ((s.setRing ring r).sendBushel (req op (if marked then .stream else .frame)), { alloc := !marked })

/-- The destinations of a load: thread, grain key and offset, in lane order; with the key slot and generation of each grain. -/
def loadDsts (s : State) (phys : List (Nat × Phys)) : List LoadDst × FMap (Nat × Nat) :=
  (phys.map (fun p => ⟨p.1, p.2.grain, p.2.addr % 64⟩),
   phys.foldl (fun m p => Assoc.put m p.2.grain (p.2.key, p.2.gen s)) [])

/-- A load operation with what the lookup of one grain gave. -/
def LoadOp.looked (o : LoadOp) (g : Nat) (x : Looked) : LoadOp :=
  { o with got := match x.data with | some b => Assoc.put o.got g (.data b) | none => o.got
           l1 := if x.alloc then o.l1 ++ [g] else o.l1
           under := match x.under with | some v => Assoc.put o.under g v | none => o.under }

/-- The effect of LD.G and LD.L: one request per distinct grain (R176). -/
def State.issueLoad (s : State) (who : TroupeRef) (t : Troupe) (f : MemForm) (pc : Nat) (ps : List Nat) : State :=
  let ring := who.ring.val
  let tr := translateAll s (tentOfRing ring) t.ctx false (ps.map (fun th => (th, globalAddr t f th)))
  let s := tr.1
  let (dsts, keys) := loadDsts s tr.2.1
  if dsts.isEmpty then s.setTroupe who t
  else
    let op := (s.ring ring).nextOp
    let pend := t.nextId
    let regs := if f.data = 0xFF then [] else (List.range (memRegs f)).map (f.data.toNat + ·)
    let t := { t with pending := t.pending ++ [⟨pend, regs, ps, true⟩], nextId := pend + 1 }
    let s := (s.setTroupe who t).modRing ring (fun r => { r with nextOp := op + 1 })
    let grains := distinct (dsts.map (·.grain))
    let (s, o) := grains.foldl (fun (acc : State × LoadOp) g =>
      let k := Assoc.get (0, 0) keys g
      let (s, x) := acc.1.loadGrain ring op t.ctx f t.cmd g k.1 k.2 (neededMask dsts g (memSize f))
      (s, acc.2.looked g x)) (s,
        { who, ctx := t.ctx, pend, pc, reg := f.data.toNat, size := memSize f, signed := f.signed, dsts, l1 := []
          loc := if f.space = 2 then some t.cmd else none, keys, org := s.originOf t })
    s.modRing ring (fun r => { r with loads := Assoc.put r.loads op o })

/-- The effect of LD.S: a request to the scratchpad (R128). -/
def State.issueScratchLoad (s : State) (who : TroupeRef) (t : Troupe) (f : MemForm) (ps : List Nat) : State :=
  let ring := who.ring.val
  let r := s.ring ring
  if ps.isEmpty then s.setTroupe who t
  else
    let pend := t.nextId
    let regs := if f.data = 0xFF then [] else (List.range (memRegs f)).map (f.data.toNat + ·)
    let t := { t with pending := t.pending ++ [⟨pend, regs, ps, true⟩], nextId := pend + 1 }
    let s := s.setTroupe who t
    let cost := (wordsOf (ps.flatMap (scratchBytes r t f))).length
    let q : ScratchReq :=
      if f.transpose then
        .tload who t.uid pend f.data.toNat (tElem f)
          (ps.map (fun th => (th, (List.range (16 / tElem f)).map (fun k =>
            r.baseOf t + (scratchAddr t f th).toNat + k * tPitch f + th % 32 * tElem f)))) (16 * cost)
      else .load who t.uid pend f.data.toNat (memSize f) f.signed (ps.map (fun th => (th, r.baseOf t + (scratchAddr t f th).toNat))) (16 * cost)
    s.modRing ring (fun r => { r with sreqs := r.sreqs ++ [q] })

/-- LD (R79 to R82). -/
def opLd (f : MemForm) : AlOp :=
  { guard := f.guard, latency := false
    need := fun t => needMem t.regs f true
    hold := holdMem true f
    test := fun s who t _ ps =>
      if f.space = 0 then (s, testScratch s who t f ps) else testGlobal s who t f false ps
    extra := extraScratch f
    act := fun s who t u ps _ => if f.space = 0 then s.issueScratchLoad who t f ps else s.issueLoad who t f u.pc ps }

/-! ### ST -/

/-- The data bytes of a store of one thread. -/
def storeBytes (t : Troupe) (f : MemForm) (th : Nat) : List Byte := leBytes (memSize f) (t.srcWords false th f.data (memRegs f))

/-- The bytes that a store of several threads puts into each grain, lane by lane. -/
def storeGrains (t : Troupe) (f : MemForm) (phys : List (Nat × Phys)) : List (Nat × List (Nat × Byte)) :=
  (distinct (phys.map (fun p => p.2.grain))).map (fun g =>
    (g, phys.flatMap (fun p => if p.2.grain = g then
      ((List.range (memSize f)).zip (storeBytes t f p.1)).map (fun x => (p.2.addr % 64 + x.1, x.2)) else [])))

/-- The byte mask of stored bytes. -/
def maskOf (bs : List (Nat × Byte)) : W64 := bs.foldl (fun m p => m ||| (1#64 <<< p.1)) 0

/-- ST.L of bytes of one grain: the line is updated, or allocated with a byte mask (R176). -/
def State.storeLocal (s : State) (ring ctx : Nat) (cmd : CmdRef) (g key gen : Nat) (bs : List (Nat × Byte)) : State :=
  match (s.ring ring).l1Find? g (some cmd) with
  | some (k, l) =>
    s.modRing ring (fun r => r.l1Put k { l with data := mergeGrain l.data bs, valid := l.valid ||| maskOf bs, dirty := l.dirty ||| maskOf bs })
  | none =>
    s.l1Alloc ring { grain := g, loc := some cmd, ctx, key, gen, data := mergeGrain zeroGrain bs, valid := maskOf bs, dirty := maskOf bs, used := 0 }

/-- A .G line of the grain takes the bytes of a store of this ring (R176); a load of the grain in flight no longer allocates its line
(DESIGN CHOICE: R176 does not speak of a line whose load is in flight). -/
def Ring.l1Store (r : Ring) (g : Nat) (bs : List (Nat × Byte)) : Ring :=
  let r := match r.l1Find? g none with
    | some (k, l) => r.l1Put k { l with data := mergeGrain l.data bs }
    | none => r
  { r with loads := Assoc.mapVals (fun _ (o : LoadOp) => if o.loc.isNone then { o with l1 := o.l1.filter (fun x => x != g) } else o) r.loads }

/-- The effect of ST.G: written through to the home (R80, R176); the ring waits for the acknowledgements (R346). -/
def State.issueStore (s : State) (who : TroupeRef) (t : Troupe) (f : MemForm) (pc : Nat) (ps : List Nat) : State :=
  let ring := who.ring.val
  let s := s.setTroupe who t
  let tr := translateAll s (tentOfRing ring) t.ctx true (ps.map (fun th => (th, globalAddr t f th)))
  let s := tr.1
  let keys := (loadDsts s tr.2.1).2
  let gs := storeGrains t f tr.2.1
  if gs.isEmpty then s
  else if f.space = 2 then
    gs.foldl (fun s p => let k := Assoc.get (0, 0) keys p.1; s.storeLocal ring t.ctx t.cmd p.1 k.1 k.2 p.2) s
  else
    let op := (s.ring ring).nextOp
    let w : WriteOp := { who, uid := t.uid, ctx := t.ctx, cmd := t.cmd, pc, threads := ps, left := gs.length, org := s.originOf t }
    let s := s.modRing ring (fun r => { r with nextOp := op + 1, writes := Assoc.put r.writes op w })
    gs.foldl (fun s p =>
      let k := Assoc.get (0, 0) keys p.1
      (s.modRing ring (fun r => r.l1Store p.1 p.2)).sendBushel
        { ring, ctx := t.ctx, key := k.1, gen := k.2, ell := ellOfGrain p.1, grain := grainInEll p.1, kind := .store op p.2 (f.hint == 1) }) s

/-- The effect of ST.S: a request to the scratchpad (R128). -/
def State.issueScratchStore (s : State) (who : TroupeRef) (t : Troupe) (f : MemForm) (ps : List Nat) : State :=
  let ring := who.ring.val
  let r := s.ring ring
  let s := s.setTroupe who t
  if ps.isEmpty then s
  else
    let bytes := ps.flatMap (fun th =>
      ((List.range (memSize f)).zip (storeBytes t f th)).map (fun x => (r.baseOf t + (scratchAddr t f th).toNat + x.1, x.2)))
    let words := distinct (bytes.map (fun p => p.1 / 16))
    s.modRing ring (fun r => { r with sreqs := r.sreqs ++ [.store who t.uid bytes (16 * words.length)] })

/-- ST (R79 to R82). -/
def opSt (f : MemForm) : AlOp :=
  { guard := f.guard, latency := false
    need := fun t => needMem t.regs f false
    hold := holdMem false f
    test := fun s who t _ ps =>
      if f.space = 0 then (s, testScratch s who t f ps) else testGlobal s who t f true ps
    extra := extraScratch f
    act := fun s who t u ps _ => if f.space = 0 then s.issueScratchStore who t f ps else s.issueStore who t f u.pc ps }

/-- LD (R79). -/
def execLd (who : TroupeRef) (f : MemForm) (s : State) : Host.Outcome State Fault Refusal := .next (s.runOp who (opLd f))
/-- ST (R79). -/
def execSt (who : TroupeRef) (f : MemForm) (s : State) : Host.Outcome State Fault Refusal := .next (s.runOp who (opSt f))

/-! ### Results of loads -/

/-- The registers of one loaded value: sign-extended, zero-extended, or up to 16 bytes (R79). -/
def loadWords (size : Nat) (signExt : Bool) (bs : List Byte) : Nat :=
  let x := leNat bs
  if signExt && decide (size ≤ 2) then wrapInt 32 (signed (8 * size) x) else x

/-- Write the result of a load into the registers of one thread. -/
def Troupe.putLoad (t : Troupe) (thread reg size : Nat) (signExt : Bool) (bs : List Byte) : Troupe :=
  t.putWords false thread (BitVec.ofNat 8 reg) (if size ≤ 4 then 1 else size / 4) (loadWords size signExt bs)

/-- A pending result has come. -/
def Troupe.dropPending (t : Troupe) (id : Nat) : Troupe := { t with pending := t.pending.filter (fun p => p.id != id) }

/-- The resident troupe that still waits for the pending result. -/
def State.waiting? (s : State) (who : TroupeRef) (pend : Nat) : Option Troupe :=
  (s.troupe? who).filter (fun t => t.pending.any (fun p => p.id == pend))

/-- Bytes of a grain merged under the valid bytes of a line. -/
def underMask (under : Option (W64 × List Byte)) (bs : List Byte) : List Byte :=
  match under with
  | some (m, old) => (List.range 64).map (fun i => if m.getLsbD i then old.getD i 0 else bs.getD i 0)
  | none => bs

/-- Allocate the L1 lines of a load that came back (R176). -/
def State.fillLines (s : State) (ring : Nat) (o : LoadOp) : State :=
  (o.got.filter (fun p => o.l1.contains p.1)).foldl (fun s p =>
    match p.2 with
    | .data bs =>
      match (s.ring ring).l1Find? p.1 o.loc with
      | some (k, l) =>
        -- bytes already valid stay
        s.modRing ring (fun r => r.l1Put k { l with data := underMask (some (l.valid, l.data)) bs, valid := 0xFFFFFFFFFFFFFFFF })
      | none =>
        let k := Assoc.get (0, 0) o.keys p.1
        s.l1Alloc ring { grain := p.1, loc := o.loc, ctx := o.ctx, key := k.1, gen := k.2, data := bs, valid := 0xFFFFFFFFFFFFFFFF, used := 0 }
    | _ => s) s

/-- Does a ring group of the dispatch whose .L lines a load brings still stand on the ring? Else none are allocated (R178). -/
def Ring.takesLines (r : Ring) (o : LoadOp) : Bool := o.loc.all (fun c => r.groups.any (fun g => g.cmd == c))

/-- The values of a load or of fetched atomics, written into a troupe's registers. -/
def Troupe.putValues (t : Troupe) (o : LoadOp) : Troupe :=
  if o.atom then o.vals.foldl (fun t v => t.putWords false v.1 (BitVec.ofNat 8 o.reg) (o.size / 4) v.2.toNat) t
  else o.dsts.foldl (fun t d =>
    let g := match Assoc.find? o.got d.grain with | some (.data b) => underMask (Assoc.find? o.under d.grain) b | _ => zeroGrain
    t.putLoad d.thread o.reg o.size o.signed ((g.drop d.off).take o.size)) t

/-- Has everything that a load operation waits for come? -/
def LoadOp.complete (o : LoadOp) : Bool :=
  if o.atom then decide (o.need ≤ o.vals.length) || o.bad.isSome else o.dsts.all (fun d => (Assoc.find? o.got d.grain).isSome)

/-- The fault that the grains of a load raise: INTEGRITY, else DEAD_READ where the context enables it (R103, R194). -/
def LoadOp.fault? (o : LoadOp) (deadFault : Bool) : Option (Nat × Nat) :=
  match o.bad, o.got.findSome? (fun p => match p.2 with | .integrity r => some r | _ => none) with
  | some f, _ => some f
  | none, some r => some (7, r)
  | none, none => if deadFault && o.got.any (fun p => decide (p.2 = .dead)) then some (5, 0) else none

/-- Load data or fetched atomic values have come back whole: they are written and the memory wait ends; faults and the DEAD_READ flag come
of them whether or not the troupe still runs (R40, R103, R105, R194). -/
def State.deliverLoad (s : State) (ring op : Nat) : State :=
  match Assoc.find? (s.ring ring).loads op with
  | none => s
  | some o =>
    if !o.complete then s
    else
      let s := s.modRing ring (fun r => { r with loads := Assoc.del r.loads op })
      match o.fault? (((s.ctx? o.ctx).map (·.deadFault)).getD false) with
      | some (code, reason) => s.originFault ring o.ctx o.org code reason o.pc 0 0
      | none =>
        let s := if o.got.any (fun p => decide (p.2 = .dead)) then s.setDeadRead o.ctx else s
        let s := if (s.ring ring).takesLines o then s.fillLines ring o else s
        match s.waiting? o.who o.pend with
        | none => s
        | some t => s.setTroupe o.who ((t.putValues o).dropPending o.pend)

/-- LOAD_RESPONSE (R40). -/
def execLoadResponse (ring : RingId) (op : Nat) (s : State) : Host.Outcome State Fault Refusal := .next (s.deliverLoad ring.val op)

/-- One acknowledgement of a performed write reaches the ring (R346). -/
def State.takeAck (s : State) (ring op : Nat) : State :=
  match Assoc.find? (s.ring ring).writes op with
  | none => s
  | some w =>
    if w.acked = 0 then s
    else
      let left := w.left - 1
      let rest (m : FMap WriteOp) : FMap WriteOp :=
        if left = 0 then Assoc.del m op else Assoc.put m op { w with left, acked := w.acked - 1 }
      let s := s.modRing ring (fun r => { r with writes := rest r.writes })
      s.settleBarrier ring

/-- WRITE_ACK (R346). -/
def execWriteAck (ring : RingId) (op : Nat) (s : State) : Host.Outcome State Fault Refusal := .next (s.takeAck ring.val op)

end Sys2Proof.Machine
end

