-- ==== Sys2Proof/Machine/Atomics.lean ====
section
/-!
DEFINITION. Atomic and reduction instructions up to the combiner (R56 to R60, R87 to R90, R195, R282), and how one combined request
changes memory (R57).
-/

namespace Sys2Proof.Machine

/-! ### One combined request (R57) -/

/-- Operand width in bytes of an atomic TYPE (R87). -/
def atomWidth (type : Nat) : Nat := if type = 2 ∨ type = 3 ∨ type = 5 then 8 else 4
/-- A floating-point TYPE. -/
def atomFloat (type : Nat) : Bool := type == 4 || type == 5
/-- Its format code. -/
def atomFmt (type : Nat) : Nat := if type = 5 then 0 else 1

/-- One participant applied to the value in memory (R57): add, extremum, compare-and-swap, exchange. -/
def atomStep (op : AtomOp) (type m x n : Nat) : Nat :=
  let w := 8 * atomWidth type
  match op with
  | .add => if atomFloat type then roundFmt (atomFmt type) (FVal.add (decodeFmt (atomFmt type) m) (decodeFmt (atomFmt type) x)) else (m + x) % 2 ^ w
  | .max =>
    if atomFloat type then roundFmt (atomFmt type) (FVal.maxNum (decodeFmt (atomFmt type) m) (decodeFmt (atomFmt type) x))
    else if type = 1 ∨ type = 3 then (if signed w m < signed w x then x else m) else max m x
  | .min =>
    if atomFloat type then roundFmt (atomFmt type) (FVal.minNum (decodeFmt (atomFmt type) m) (decodeFmt (atomFmt type) x))
    else if type = 1 ∨ type = 3 then (if signed w x < signed w m then x else m) else min m x
  | .cas => if m = x then n else m
  | .exch => x

/-- The entries that a request carries (R57): the sum, the extremum, or the ordered list. -/
def atomEntries (op : AtomOp) (type : Nat) (fetch : Bool) (ps : List (Nat × Nat)) : List (Nat × Nat) :=
  let combine : Bool := match op with
    | .add => !(atomFloat type && fetch)
    | .max | .min => true
    | .cas | .exch => false
  if combine then
    match ps with
    | [] => []
    | p :: rest => [rest.foldl (fun a q => (atomStep op type a.1 q.1 0, 0)) p]
  else ps

/-- Apply the entries to memory in order: the final value, and the value just before each entry. -/
def atomRun (op : AtomOp) (type : Nat) (entries : List (Nat × Nat)) (m : Nat) : Nat × List Nat :=
  entries.foldl (fun acc e => (atomStep op type acc.1 e.1 e.2, acc.2 ++ [acc.1])) (m, [])

/-- The values returned to the participants in lane order (R57), from the values that came back. -/
def atomReturns (op : AtomOp) (type : Nat) (xs : List Nat) (befores : List Nat) : List Nat :=
  if befores.length = xs.length ∧ xs.length ≠ 1 then befores
  else
    -- one entry for all: the memory value combined with the operands of lower lanes
    (xs.foldl (fun (acc : Nat × List Nat) x => (atomStep op type acc.1 x 0, acc.2 ++ [acc.1])) (befores.headD 0, [])).2

/-- Non-finite result of a floating-point ATOM.ADD: the participant and its kind (R162, R164). -/
def atomNf (op : AtomOp) (type : Nat) (entries : List (Nat × Nat)) (m : Nat) : Option (Nat × Nat) :=
  match op with
  | .add =>
    if !atomFloat type then none
    else
      let vals := ((atomRun op type entries m).2.drop 1) ++ [(atomRun op type entries m).1]
      let k := decodeFmt (atomFmt type) (vals.getLastD 0)
      if k.isFinite then none
      else
        let i := ((List.range vals.length).find? (fun i => !(decodeFmt (atomFmt type) (vals.getD i 0)).isFinite)).getD 0
        some (i, nfKind k)
  | _ => none

/-! ### ATOM at issue (R59, R60, R87, R88) -/

/-- The base address of an atomic: a scratchpad offset, or a 64-bit global or remote address (R87, R282). -/
def atomAddr (t : Troupe) (f : AtomForm) (th : Nat) : Int :=
  let off : Int := f.offset.toInt * atomWidth f.type.toNat
  if f.global then (((t.srcPair f.addrU th f.addr).toNat : Int) + off) % (2 ^ 64 : Int) else ((t.src f.addrU th f.addr).toNat : Int) + off

/-- Bit 62 of an atomic's address marks a remote one (R282). -/
def isRemote (a : Nat) : Bool := bitN a 62 && !bitN a 63

/-- SOURCE of R376 for a troupe of a ring. -/
def sourceOf (ring : Nat) (t : Troupe) : Nat :=
  (ring * 2 ^ 39 + t.kernelId % 65536 * 2 ^ 23 + t.groupIndex % 65536 * 2 ^ 7 + t.index % 128) * 65536

/-- The tests of the fields of ATOM (R87, R88). -/
def needAtom (regs : Nat) (op : AtomOp) (f : AtomForm) : Need :=
  let k := atomWidth f.type.toNat / 4
  let isCas : Bool := op == .cas
  ((((needGuard f.guard).and (needDst regs false f.dst k)).and
    (needSrc regs f.addrU (f.reuse.getLsbD 2) f.addr (if f.global then 2 else 1))).and
    (needSrc regs false (f.reuse.getLsbD 1) f.srcB k)).and
    ((if isCas then needSrc regs false (f.reuse.getLsbD 0) f.srcC k else needUnused f.srcC).and
      (reasonIf (decide (6 ≤ f.type.toNat) || (isCas && f.dst == 0xFF)) 1))

/-- The tests on the addresses of an atomic (R59, R104). -/
def testAtom (s : State) (who : TroupeRef) (t : Troupe) (f : AtomForm) (ps : List Nat) : State × Verdict :=
  let w : Int := atomWidth f.type.toNat
  let mis := ps.any (fun th => decide (atomAddr t f th % w ≠ 0))
  if !f.global then
    let u5 : Int := (s.ring who.ring.val).sizeOf t
    let out := ps.any (fun th => decide (atomAddr t f th < 0) || decide (u5 < atomAddr t f th + w))
    let l := (if mis then [6] else []) ++ (if out then [11] else [])
    (s, if l.isEmpty then .go else .refused l)
  else if mis then (s, .refused [6])
  else
    let mine := (ps.map (fun th => (th, (atomAddr t f th).toNat))).filter (fun p => !isRemote p.2)
    let r := translateAll s (tentOfRing who.ring.val) t.ctx true mine
    (r.1, r.2.2)

/-- The combiner is full, or an earlier scratchpad access of the troupe has not been served (R40, R83, R129). -/
def holdAtom (f : AtomForm) (s : State) (who : TroupeRef) (t : Troupe) (u : Subset) : Bool :=
  let r := s.ring who.ring.val
  let ps := participants t u f.guard
  decide (32 ≤ r.combiner.length) ||
  (!f.global &&
    (r.sreqs.any (fun q => match q with | .load _ i _ _ _ _ _ _ => i == t.uid | .tload _ i _ _ _ _ _ => i == t.uid | .store _ i _ _ => i == t.uid) ||
     (let b := ps.map (fun th => (r.baseOf t + (atomAddr t f th).toNat) / 64)
      meets b (r.mxWrites t.uid) || meets b (r.mxReads t.uid))))

/-- Ring L1 lines of grains that an atomic of the ring touches are dropped (R176). -/
def Ring.dropGrains (r : Ring) (gs : List Nat) : Ring :=
  { r with l1 := r.l1.filter (fun l => !(l.2.loc.isNone && gs.contains l.2.grain))
           loads := Assoc.mapVals (fun _ (o : LoadOp) =>
             if o.loc.isNone then { o with l1 := o.l1.filter (fun g => !gs.contains g) } else o) r.loads }

/-- Addresses of global participants: a physical byte address is grain key × 64 + offset; a remote one is 2^64 + its value. -/
def remoteBase : Nat := 2 ^ 64

/-- The participants of a global atomic or reduction with their physical addresses and keys. -/
def globalParts (s : State) (phys : List (Nat × Phys)) (remote : List (Nat × Nat)) (x n : Nat → W64) (ps : List Nat) : List Part :=
  ps.filterMap (fun th =>
    match phys.find? (fun p => p.1 == th) with
    | some p => some { thread := th, addr := p.2.grain * 64 + p.2.addr % 64, x := x th, n := n th, key := p.2.key, gen := p.2.gen s }
    | none =>
      match remote.find? (fun p => p.1 == th) with
      | some p => some { thread := th, addr := remoteBase + p.2, x := x th, n := n th }
      | none => none)

/-- Distinct addresses of participants. -/
def partAddrs (ps : List Part) : List Nat := distinct (ps.map (·.addr))

/-- Queue an atomic or reduction in the combiner; `requests` acknowledgements are awaited for a global one (R346), and a fetch form waits
for its values (R40). -/
def State.queueComb (s : State) (who : TroupeRef) (t : Troupe) (pc : Nat) (kind : CombKind) (global fetch : Bool) (parts : List Part)
    (requests : Nat) (dst width : Nat) : State :=
  let ring := who.ring.val
  if parts.isEmpty then s.setTroupe who t
  else
    let op := (s.ring ring).nextOp
    let ths := parts.map (·.thread)
    let pend := t.nextId
    let t' := if fetch then
        { t with pending := t.pending ++ [⟨pend, (List.range (width / 4)).map (dst + ·), ths, true⟩], nextId := pend + 1 }
      else t
    let s := s.setTroupe who t'
    let org := s.originOf t
    let o : LoadOp := { who, ctx := t.ctx, pend, pc, reg := dst, size := width, signed := false, dsts := [], l1 := [], atom := true
                        need := parts.length, org }
    let w : WriteOp := { who, uid := t.uid, ctx := t.ctx, cmd := t.cmd, pc, threads := ths, left := requests, org
                         load := if fetch then some op else none }
    let c : CombOp := { who, uid := t.uid, ctx := t.ctx, cmd := t.cmd, kind, global, fetch, pc, load := op, write := op + 1, parts
                        source := sourceOf ring t, org }
    s.modRing ring (fun r =>
      { r.dropGrains (if global then parts.map (fun p => p.addr / 64) else []) with
          nextOp := op + 2, combiner := r.combiner ++ [c]
          loads := if fetch then Assoc.put (r.dropGrains (if global then parts.map (fun p => p.addr / 64) else [])).loads op o
                   else (r.dropGrains (if global then parts.map (fun p => p.addr / 64) else [])).loads
          writes := if global then Assoc.put r.writes (op + 1) w else r.writes })

/-- ATOM (R56 to R60, R87, R88). -/
def opAtom (op : AtomOp) (f : AtomForm) : AlOp :=
  let type := f.type.toNat
  let w := atomWidth type
  { guard := f.guard, latency := false
    need := fun t => needAtom t.regs op f
    hold := holdAtom f
    test := fun s who t _ ps => testAtom s who t f ps
    extra := fun s who t ps =>
      if f.global then 0
      else
        let r := s.ring who.ring.val
        ((List.range (t.width / 32)).map (fun part =>
          bankCycles ((ps.filter (fun th => th / 32 == part)).map (fun th => (r.baseOf t + (atomAddr t f th).toNat, w))) - 1)).foldl (· + ·) 0
    act := fun s who t u ps _ =>
      let x (th : Nat) : W64 := BitVec.ofNat 64 (t.srcWords false th f.srcB (w / 4))
      let n (th : Nat) : W64 := BitVec.ofNat 64 (t.srcWords false th f.srcC (w / 4))
      let fetch : Bool := f.dst != 0xFF
      if !f.global then
        let base := (s.ring who.ring.val).baseOf t
        let parts : List Part := ps.map (fun th => { thread := th, addr := base + (atomAddr t f th).toNat, x := x th, n := n th })
        s.queueComb who t u.pc (.atom op type) false fetch parts 0 f.dst.toNat w
      else
        let all := ps.map (fun th => (th, (atomAddr t f th).toNat))
        let tr := translateAll s (tentOfRing who.ring.val) t.ctx true (all.filter (fun p => !isRemote p.2))
        let parts := globalParts s tr.2.1 (all.filter (fun p => isRemote p.2)) x n ps
        tr.1.queueComb who t u.pc (.atom op type) true fetch parts (partAddrs parts).length f.dst.toNat w }

/-! ### RED.ADD and RED.FOLD at issue (R89, R90, R195) -/

/-- The address of a reduction: the base pair plus OFFSET × 4 B. -/
def redAddr (t : Troupe) (f : RedForm) (th : Nat) : Nat :=
  (((t.srcPair f.addrU th f.addr).toNat + f.offset.toInt * 4) % (2 ^ 64 : Int)).toNat

/-- The common field tests of RED.ADD and RED.FOLD. The map of R89 gives bit [48] of both and bit [9] of RED.ADD the value 0; that another
value is refused with reason 0x02 is this model's choice (DESIGN CHOICE: R104 leaves the reason open). The SRC_B hint [49] of a RED.FOLD,
which has no SRC_B, keeps nothing. -/
def needRed (regs : Nat) (f : RedForm) : Need :=
  ((needGuard f.guard).and (needSrc regs f.addrU (f.reuse.getLsbD 2) f.addr 2)).and
    (reasonIf (decide (f.reservedA ≠ 0xFF) || decide (f.reservedB ≠ 0xFF) || f.reservedC || f.reuse.getLsbD 0) 2)

/-- The tests on the addresses of a reduction: aligned to `align` bytes (R104, R195). -/
def testRed (s : State) (who : TroupeRef) (t : Troupe) (f : RedForm) (align : Nat) (ps : List Nat) : State × Verdict :=
  if ps.any (fun th => decide (redAddr t f th % align ≠ 0)) then (s, .refused [6])
  else
    let r := translateAll s (tentOfRing who.ring.val) t.ctx true (ps.map (fun th => (th, redAddr t f th)))
    (r.1, r.2.2)

/-- Queue a reduction in the combiner. -/
def State.queueRed (s : State) (who : TroupeRef) (t : Troupe) (u : Subset) (f : RedForm) (kind : CombKind) (x : Nat → W64) (ps : List Nat)
    (byEll : Bool) : State :=
  let tr := translateAll s (tentOfRing who.ring.val) t.ctx true (ps.map (fun th => (th, redAddr t f th)))
  let parts := globalParts s tr.2.1 [] x (fun _ => 0) ps
  let n := if byEll then (distinct (parts.map (fun p => ellOfGrain (p.addr / 64)))).length else (partAddrs parts).length
  tr.1.queueComb who t u.pc kind true false parts n 255 4

/-- RED.ADD (R89, R90). -/
def opRedAdd (f : RedForm) : AlOp :=
  let w96 : Bool := f.accRnd.getLsbD 1
  let fmt := f.fmt.toNat
  { guard := f.guard, latency := false
    need := fun t =>
      ((needRed t.regs f).and (needSrc t.regs false (f.reuse.getLsbD 1) f.srcB 1)).and
        ((reasonIf (f.accRnd.getLsbD 0) 2).and (reasonIf (!([1, 4, 3, 2].contains fmt)) 1))
    hold := fun s who _ _ => decide (32 ≤ (s.ring who.ring.val).combiner.length)
    test := fun s who t _ ps => testRed s who t f (if w96 then 16 else 4) ps
    act := fun s who t u ps _ =>
      s.queueRed who t u f (.redAdd fmt w96) (fun th => BitVec.ofNat 64 (t.srcWords false th f.srcB 1)) ps false }

/-- RED.FOLD (R89, R90). A participant's address selects only the ell, so no alignment is asked of it. -/
def opRedFold (f : RedForm) : AlOp :=
  let fmt := f.fmt.toNat
  { guard := f.guard, latency := false
    need := fun t =>
      ((needRed t.regs f).and (needUnused f.srcB)).and
        (reasonIf (!([1, 2, 3, 15].contains fmt) || decide (2 ≤ f.accRnd.toNat)) 1)
    hold := fun s who _ _ => decide (32 ≤ (s.ring who.ring.val).combiner.length)
    test := fun s who t _ ps => testRed s who t f 1 ps
    act := fun s who t u ps _ => s.queueRed who t u f (.redFold fmt f.accRnd.toNat) (fun _ => 0) ps true }

/-! ### The combiner (R56, R60) -/

/-- The ATOMIC packet of one remote request (R57, R273, R274, R282). -/
def atomicPacket (op : AtomOp) (type : Nat) (fetch : Bool) (c : CombOp) : Packet :=
  let a := (c.parts.headD { thread := 0, addr := 0, x := 0 }).addr - remoteBase
  let w := atomWidth type
  let code : Nat := match op with | .add => 0 | .max => 1 | .min => 2 | .cas => 3 | .exch => 4
  let entries := atomEntries op type fetch (c.parts.map (fun p => (p.x.toNat, p.n.toNat)))
  let bytes := entries.flatMap (fun e => leBytes w e.1 ++ (if op = .cas then leBytes w e.2 else []))
  { op := 2, vc := 0, dstId := Fin.ofNat 4096 (bits a 61 50), srcId := 0, dstDom := false, srcDom := false
    len := BitVec.ofNat 13 bytes.length, sel := BitVec.ofNat 16 (bits a 49 40), addr := BitVec.ofNat 64 (bits a 39 0)
    aux := BitVec.ofNat 64 (code * 2 ^ 61 + type * 2 ^ 58), payload := bytes }

/-- Send one request that the combiner has formed to its memory unit. -/
def State.sendComb (s : State) (ring : Nat) (c : CombOp) : State :=
  let p := c.parts.headD { thread := 0, addr := 0, x := 0 }
  let g := p.addr / 64
  let req (k : ReqKind) : BReq := { ring, ctx := c.ctx, key := p.key, gen := p.gen, ell := ellOfGrain g, grain := grainInEll g, kind := k }
  if !c.global then s.modRing ring (fun r => { r with satoms := r.satoms ++ [c] })
  else match c.kind with
    | .atom op type =>
      if remoteBase ≤ p.addr then s.request (atomicPacket op type c.fetch c) (.atom ring c)
      else s.sendBushel (req (.atom c))
    | .redAdd _ _ => s.sendBushel (req (.redAdd c))
    | .redFold _ _ => s.sendBushel (req (.redFold c))

/-- Group the participants by address, or for RED.FOLD by ell, in ascending order of their lowest participant (R56, R90). -/
def CombOp.requests (c : CombOp) : List CombOp :=
  let key (p : Part) : Nat := match c.kind with
    | .redFold _ _ => ellOfGrain (p.addr / 64)
    | _ => p.addr
  (distinct (c.parts.map key)).map (fun k => { c with parts := c.parts.filter (fun p => key p == k) })

/-- The combiner takes its oldest troupe instruction and sends its requests (R56, R60). -/
def State.combine (s : State) (ring : Nat) : State :=
  match (s.ring ring).combiner with
  | [] => s
  | c :: rest =>
    let s := s.modRing ring (fun r => { r with combiner := rest })
    c.requests.foldl (fun s q => s.sendComb ring q) s

/-! ### The meanings -/

/-- ATOM.ADD (R57). -/
def execAtomAdd (who : TroupeRef) (f : AtomForm) (s : State) : Host.Outcome State Fault Refusal := .next (s.runOp who (opAtom .add f))
/-- ATOM.MAX (R57). -/
def execAtomMax (who : TroupeRef) (f : AtomForm) (s : State) : Host.Outcome State Fault Refusal := .next (s.runOp who (opAtom .max f))
/-- ATOM.MIN (R57). -/
def execAtomMin (who : TroupeRef) (f : AtomForm) (s : State) : Host.Outcome State Fault Refusal := .next (s.runOp who (opAtom .min f))
/-- ATOM.CAS (R57). -/
def execAtomCas (who : TroupeRef) (f : AtomForm) (s : State) : Host.Outcome State Fault Refusal := .next (s.runOp who (opAtom .cas f))
/-- ATOM.EXCH (R57). -/
def execAtomExch (who : TroupeRef) (f : AtomForm) (s : State) : Host.Outcome State Fault Refusal := .next (s.runOp who (opAtom .exch f))
/-- RED.ADD (R90). -/
def execRedAdd (who : TroupeRef) (f : RedForm) (s : State) : Host.Outcome State Fault Refusal := .next (s.runOp who (opRedAdd f))
/-- RED.FOLD (R90). -/
def execRedFold (who : TroupeRef) (f : RedForm) (s : State) : Host.Outcome State Fault Refusal := .next (s.runOp who (opRedFold f))
/-- COMBINER_ACCEPT (R60). -/
def execCombinerAccept (ring : RingId) (s : State) : Host.Outcome State Fault Refusal := .next (s.combine ring.val)

end Sys2Proof.Machine
end

