-- ==== Sys2Proof/Machine/Bushel.lean ====
section
/-!
DEFINITION. Requests at the banks of a bushel: hits, misses, joins, refusals (R179 to R194, R201 to R203), combined atomics (R57),
reduction ells with their folds and releases (R195 to R200), and scratchpad atomics.
-/

namespace Sys2Proof.Machine

/-! ### Answers to the ring -/

/-- A grain comes back to a load operation of a ring. -/
def State.replyLoad (s : State) (ring op g : Nat) (r : GrainRes) : State :=
  s.modRing ring (fun x => match Assoc.find? x.loads op with
    | some o => { x with loads := Assoc.put x.loads op { o with got := Assoc.put o.got g r } }
    | none => x)

/-- A fault found at a memory unit after the instruction has issued: the troupe stops at its next instruction boundary (R104). -/
def CombOp.fault (c : CombOp) (s : State) (code reason : Nat) : State := s.originFault c.who.ring.val c.ctx c.org code reason c.pc 0 0

/-- A NONFINITE_TRAP that waits for its instruction's writes is raised once all of its requests have been performed; a fetch form has its
values returned first (R163, R165). -/
def State.settleTrap (s : State) (ring write : Nat) : State :=
  match Assoc.find? (s.ring ring).writes write with
  | none => s
  | some w =>
    match w.trap with
    | none => s
    | some d =>
      if w.acked < w.left then s
      else
        let s := s.modRing ring (fun r => { r with writes := Assoc.put r.writes write { w with trap := none } })
        let s := match w.load with | some l => s.deliverLoad ring l | none => s
        s.originFault ring w.ctx w.org 6 0 w.pc 0 d

/-- One request of an atomic or a reduction on global memory has set NF (R162): with the trap enabled, its detail word is kept for the time
when the instruction has made all of its writes. The first request performed stays, THREAD being the participant after which memory is not
finite, the lowest one for a reduction (DESIGN CHOICE: R164 does not say which of several is named). -/
def State.requestNf (s : State) (c : CombOp) (detail : W64) : State :=
  match s.noteNf c.ctx with
  | (s, false) => s
  | (s, true) => s.modRing c.who.ring.val (fun r => match Assoc.find? r.writes c.write with
    | some w => { r with writes := Assoc.put r.writes c.write { w with trap := w.trap.or (some detail) } }
    | none => r)

/-- Values of a fetch form go back to the ring; the request is acknowledged (R57, R346). -/
def State.replyAtom (s : State) (ring : Nat) (c : CombOp) (op : AtomOp) (type : Nat) (befores : List Nat) : State :=
  let vals := (c.parts.map (·.thread)).zip (atomReturns op type (c.parts.map (fun p => p.x.toNat)) befores)
  let s := if c.fetch then
      s.modRing ring (fun x => match Assoc.find? x.loads c.load with
        | some o => { x with loads := Assoc.put x.loads c.load { o with vals := vals.foldl (fun m v => Assoc.put m v.1 (BitVec.ofNat 64 v.2)) o.vals } }
        | none => x)
    else s
  if c.global then s.performed (.ring (Fin.ofNat 192 ring) c.write) else s

/-- The detail word of a NaN or infinity that an ATOM.ADD request stores on memory holding `m` (R162, R164): the thread is that of the
entry after which memory is non-finite. -/
def CombOp.nfDetail? (c : CombOp) (op : AtomOp) (type m : Nat) : Option W64 :=
  (atomNf op type (atomEntries op type c.fetch (c.parts.map (fun p => (p.x.toNat, p.n.toNat)))) m).map (fun x =>
    nfDetail 3 x.2 false (c.parts.getD x.1 { thread := 0, addr := 0, x := 0 }).thread 0 0 0 0 (atomFmt type))

/-- A request of a global ATOM has been performed on memory holding `m`: NF, and the trap when it was the last (R162, R163). -/
def State.atomNfEvent (s : State) (c : CombOp) (op : AtomOp) (type m : Nat) : State :=
  (match c.nfDetail? op type m with
    | none => s
    | some d => s.requestNf c d).settleTrap c.who.ring.val c.write

/-- A request of a scratchpad ATOM has been performed on memory holding `m`: NF, and the trap with the last request of the instruction;
until then the other requests keep the detail word (R162, R163). -/
def State.scratchNfEvent (s : State) (ring : Nat) (c : CombOp) (op : AtomOp) (type m : Nat) : State :=
  let (s, own) : State × Option W64 := match c.nfDetail? op type m with
    | none => (s, none)
    | some d => match s.noteNf c.ctx with
      | (s, true) => (s, some d)
      | (s, false) => (s, none)
  match c.trap.or own with
  | none => s
  | some d =>
    if (s.ring ring).satoms.any (fun x => x.write == c.write) then
      s.modRing ring (fun r => { r with satoms := r.satoms.map (fun x => if x.write = c.write then { x with trap := some d } else x) })
    else
      let s := if c.fetch then s.deliverLoad ring c.load else s
      s.originFault c.who.ring.val c.ctx c.org 6 0 c.pc 0 d

/-- Requests that the journal does not record: store-form integer add, maximum and minimum (R376). -/
def unrecorded (op : AtomOp) (type : Nat) (fetch : Bool) : Bool :=
  !fetch && !atomFloat type && (match op with | .add | .max | .min => true | _ => false)

/-- A write has been performed; a ring's instruction whose last request it was may raise its trap (R163). -/
def State.performedBy (s : State) (who : WrWho) : State :=
  match who with
  | .ring r op => (s.performed who).settleTrap r op
  | _ => s.performed who

/-! ### Scratchpad atomics -/

/-- The oldest scratchpad atomic of a ring is performed (R57, R58), in the recorded order during replay (R381), once the port serves its
read and its write (R128). -/
def State.scratchAtomic (s : State) (ring : Nat) : State :=
  match (s.ring ring).satoms with
  | [] => s
  | c :: rest =>
    match c.kind with
    | .atom op type =>
      let a := (c.parts.headD { thread := 0, addr := 0, x := 0 }).addr
      let key := scratchRunKey ring a
      let rec_ : Bool := !unrecorded op type c.fetch
      let k := s.stepKey c.ctx c.cmd
      match (if rec_ then s.forced k key c.source else .go) with
      | .wait => s
      | v =>
        let w := atomWidth type
        let x := s.ring ring
        if !(x.portHas .atomic false && x.portHas .atomic true) then
          s.setRing ring ((x.portAsk .atomic false w).portAsk .atomic true w)
        else
        let s := s.setRing ring ((x.portUse .atomic false).portUse .atomic true)
        let s := if v = .diverged then s.diverge k 1 else s
        let s := if rec_ then (s.takeForced k key).jrnRequest k 0 key c.source else s
        let m := leNat (Mem.readBytes (s.ring ring).scratch a w)
        let r := atomRun op type (atomEntries op type c.fetch (c.parts.map (fun p => (p.x.toNat, p.n.toNat)))) m
        let s := s.modRing ring (fun x => { x with satoms := rest, scratch := Mem.writeBytes x.scratch a (leBytes w r.1) })
        ((s.replyAtom ring c op type r.2).scratchNfEvent ring c op type m).settleBarrier ring
    | _ => s.modRing ring (fun x => { x with satoms := rest })

/-! ### One request on a copy that holds its grain -/

/-- A copy of a host ell is always clean: its stores go through the CXL port (R185). -/
def EllCopy.hostClean (c : EllCopy) : EllCopy := if isHostEll c.ell then { c with dirty := 0 } else c

/-! ### Reduction ells (R195 to R198) -/

/-- The frame of a ring's reduction ell on an ell. -/
def Tent.redOf? (t : Tent) (ell ring : Nat) : Option (Nat × RedEll) :=
  (waysOf (bushelSet ell)).findSome? (fun k => match Assoc.find? t.frames k with
    | some ⟨.red r, _⟩ => if r.ell = ell ∧ r.ring = ring then some (k, r) else none
    | _ => none)

/-- The reduction frames of a set. -/
def Tent.redFrames (t : Tent) (set : Nat) : List Nat :=
  (waysOf set).filter (fun k => match Assoc.find? t.frames k with | some ⟨.red _, _⟩ => true | _ => false)

/-- What adding the accumulators to an image element gives (R197, R198): the bytes, a saturation, a non-finite result. -/
structure RedOut where
  bytes : List Byte
  sat : Nat := 0
  nf : Option Nat := none
deriving DecidableEq, Repr

/-- The 4-byte word of a converted result (R75, R198): S24 in bits [31:8], BF16 in bits [31:16]. -/
def placeResult (fmt enc : Nat) : Nat := if fmt = 2 then enc <<< 8 else if fmt = 3 then enc <<< 16 else enc

/-- Convert an exact value to FMT of a RED.FOLD and place it in an element of `size` bytes. -/
def redConvert (fmt rnd size : Nat) (x : FVal) : RedOut :=
  let c := convertFmt fmt (if rnd = 1 then .zero else .nearest) x
  let y := decodeFmt fmt c.enc
  { bytes := leBytes 4 (placeResult fmt c.enc) ++ List.replicate (size - 4) 0, sat := c.counted.toNat
    nf := if y.isFinite then none else some (nfKind y) }

/-- One image element of an ell with its accumulator: `out` is FMT and RND of a release, none for a fold. -/
def redElement (r : Option RedEll) (w96 : Bool) (out : Option (Nat × Nat)) (i : Nat) (img : Nat) : RedOut :=
  if w96 then
    let el := AccEl.decode img
    let el := match r with
      | some r => let a : AccEl := Assoc.get AccEl.zero r.acc i; if a.special || !a.val.isZero then accStep el [a.val] else el
      | none => el
    match out with
    | some (fmt, rnd) =>
      if fmt = 15 then { bytes := leBytes 16 el.encode, nf := if el.special then some (nfKind el.val) else none }
      else
        let exact := match r with | some r => FVal.add (AccEl.decode img).val (Assoc.get AccEl.zero r.acc i).val | none => el.val
        redConvert fmt rnd 16 exact
    | none => { bytes := leBytes 16 el.encode }
  else
    let x := decodeFmt 1 img
    match r with
    | some r =>
      let a := decodeFmt 1 (Assoc.get 0 r.f32 i).toNat
      match out with
      | some (fmt, rnd) => redConvert fmt rnd 4 (FVal.add x a)
      | none => { bytes := leBytes 4 (roundFmt 1 (FVal.add x a)) }
    | none =>
      match out with
      | some (fmt, rnd) => redConvert fmt rnd 4 x
      | none => { bytes := leBytes 4 img }

/-- Outcome of a fold or release on an image: saturations, the first non-finite element's kind, the reason of a poisoned grain. -/
structure RedDone where
  sat : Nat := 0
  nf : Option Nat := none
  bad : Option Nat := none
deriving DecidableEq, Repr

/-- Add accumulators into the image of an ell, grain by grain, under the ring's key; poisoned grains stay (R197, R198, R239). -/
def redImage (c : EllCopy) (key gen : Nat) (r : Option RedEll) (w96 : Bool) (out : Option (Nat × Nat)) : EllCopy × RedDone × Nat :=
  let c := c.taken key gen
  let fold := c.fold
  let size := if w96 then 16 else 4
  let per := 64 / size
  let step (acc : EllCopy × RedDone × Nat) (g : Nat) : EllCopy × RedDone × Nat :=
    let (c, d, lost) := acc
    match Assoc.find? c.bad g with
    | some reason => (c, { d with bad := d.bad.or (some reason) }, lost + per)
    | none =>
      let old := c.base g
      let outs := (List.range per).map (fun i => redElement r w96 out (g * per + i) (leNat ((old.drop (size * i)).take size)))
      let new := outs.flatMap (·.bytes)
      (c.write key gen g ((List.range 64).zip new),
       { d with sat := d.sat + (outs.map (·.sat)).foldl (· + ·) 0, nf := d.nf.or (outs.findSome? (·.nf)) }, lost)
  let r := (List.range 16).foldl step (c, {}, 0)
  ({ r.1 with fold }, r.2.1, r.2.2)

/-! ### Performing a request on a copy -/

/-- The result of a fold or release on a host ell is written through the CXL port, grain by grain, but for poisoned ones (R185, R358). The
answer counts the writes. -/
def State.writeImage (s : State) (new : EllCopy) (who : WrWho) : State × Nat :=
  let gs := (List.range 16).filter (fun g => (Assoc.find? new.bad g).isNone)
  (gs.foldl (fun (s : State) g => s.hostWrite (grainOfEll new.ell g) ((List.range 64).zip (new.grain g)) who) s, gs.length)

/-- Add a reduction ell into the image that a copy holds, or convert the image alone (R197, R198, R230, R239): `out` is FMT and RND of a
release. A fold sets FOLD. -/
def State.intoImage (s : State) (c : EllCopy) (key gen : Nat) (r : Option RedEll) (w96 : Bool) (out : Option (Nat × Nat)) :
    State × EllCopy × RedDone :=
  let s := if isHostEll c.ell then s else s.countTakeover c key gen
  let x := redImage c key gen r w96 out
  let c' := if out.isNone then { x.1 with fold := true } else x.1
  let s := if r.isSome then s.modTentCounters (homeTent c.ell) (fun k => { k with poisonedFolds := bump k.poisonedFolds x.2.2 }) else s
  (s, c'.hostClean, x.2.1)

/-- The ring's reduction ell on an ell is folded into the image that a copy holds: its frame is free and the entry is journalled (R197). -/
def State.applyFold (s : State) (c : EllCopy) (q : BReq) : State × EllCopy :=
  let tent := homeTent q.ell
  match (s.tent tent).redOf? q.ell q.ring with
  | none => (s, c)
  | some (k, r) =>
    let (s, c', _) := s.intoImage c r.key r.gen (some r) r.w96 none
    let s := if isHostEll c.ell then (s.writeImage c' .none).1 else s
    let s := (s.dropFrame tent k).modTentCounters tent (fun x => { x with folds := bump x.folds 1 })
    ((s.takeForced (2 * r.ctx) (ellRunKey 3 r.ell)).jrnFold (2 * r.ctx) 3 r.ell r.ring, c')

/-- A RED.FOLD request is performed on the image that a copy holds: the ring's reduction ell, if the request is releasing one, is added and
ends; the image is converted (R198, R203). -/
def State.applyRelease (s : State) (c : EllCopy) (q : BReq) (o : CombOp) (fmt rnd : Nat) : State × EllCopy :=
  let tent := homeTent q.ell
  let who : WrWho := .ring (Fin.ofNat 192 q.ring) o.write
  if !s.ctxLive q.ctx then (s.performed who, c)
  else
    let found := ((s.tent tent).redOf? q.ell q.ring).filter (fun p => p.2.st == .releasing)
    let w96 : Bool := match found with | some (_, r) => r.w96 | none => fmt == 15
    let key := match found with | some (_, r) => (r.key, r.gen) | none => (q.key, q.gen)
    let (s, c', d) := s.intoImage c key.1 key.2 (found.map (·.2)) w96 (some (fmt, rnd))
    let s := match found with
      | some (k, _) =>
        ((s.dropFrame tent k).takeForced (s.stepKey q.ctx o.cmd) (ellRunKey 4 q.ell)).jrnFold (s.stepKey q.ctx o.cmd) 4 q.ell q.ring
      | none => s
    -- the request is acknowledged once every grain it changes in host memory is written
    let (s, n) := if isHostEll c.ell then s.writeImage c' who else (s, 0)
    let s := if n = 0 then s.performed who
      else s.modRing q.ring (fun x => match Assoc.find? x.writes o.write with
        | some w => { x with writes := Assoc.put x.writes o.write { w with left := w.left + (n - 1) } }
        | none => x)
    let s := s.addSat o.ctx d.sat
    let th := (o.parts.headD { thread := 0, addr := 0, x := 0 }).thread
    let s := match d.nf with
      | some kind => s.requestNf o (nfDetail 5 kind false th 0 0 0 0 fmt)
      | none => s
    (match d.bad with
      | some r => o.fault s 7 r
      | none => s.settleTrap o.who.ring.val o.write, c')

/-- An atomic on a grain of a copy: what memory held, the bytes written and the values before each entry (R57, R194, R230). -/
def EllCopy.atomic (c : EllCopy) (key gen g off : Nat) (op : AtomOp) (type : Nat) (entries : List (Nat × Nat)) :
    EllCopy × Nat × List (Nat × Byte) × List Nat :=
  let c := c.taken key gen
  let w := atomWidth type
  let m := leNat (((c.base g).drop off).take w)
  let r := atomRun op type entries m
  let bs := ((List.range w).map (off + ·)).zip (leBytes w r.1)
  ((c.write key gen g bs).hostClean, m, bs, r.2)

/-- The reason of a poisoned grain, for a requester that owns the ell (R222, R230). -/
def EllCopy.poison? (c : EllCopy) (q : BReq) : Option Nat := if c.owned q.key q.gen then Assoc.find? c.bad q.grain else none

/-- A store of a ring is performed on the copy, or through the port (R185, R239). -/
def State.applyStore (s : State) (c : EllCopy) (q : BReq) (op : Nat) (bs : List (Nat × Byte)) : State × EllCopy :=
  let ring : RingId := Fin.ofNat 192 q.ring
  let bad : Bool := !q.kind.whole && (c.poison? q).isSome
  let s := s.countTakeover c q.key q.gen
  let c := (c.write q.key q.gen q.grain bs).hostClean
  let w := Assoc.find? (s.ring q.ring).writes op
  let s := if isHostEll q.ell then s.hostWrite (grainOfEll q.ell q.grain) bs (.ring ring op) else s.performed (.ring ring op)
  match bad, w with
  | true, some w => (s.originFault q.ring w.ctx w.org 7 2 w.pc 0 0, c)
  | _, _ => (s, c)

/-- A combined atomic of a ring is performed on the copy (R57, R163, R376). -/
def State.applyAtom (s : State) (c : EllCopy) (q : BReq) (o : CombOp) (op : AtomOp) (type : Nat) : State × EllCopy :=
  match c.poison? q with
  | some r => (o.fault (s.performed (.ring (Fin.ofNat 192 q.ring) o.write)) 7 r, c)
  | none =>
    let key := ellRunKey 1 q.ell
    let k := s.stepKey q.ctx o.cmd
    let s := if unrecorded op type o.fetch then s else (s.takeForced k key).jrnRequest k 1 key o.source
    let s := s.countTakeover c q.key q.gen
    let off := (o.parts.headD { thread := 0, addr := 0, x := 0 }).addr % 64
    let (c, m, bs, befores) := c.atomic q.key q.gen q.grain off op type
      (atomEntries op type o.fetch (o.parts.map (fun p => (p.x.toNat, p.n.toNat))))
    let s := if isHostEll q.ell then
        (s.replyAtom q.ring { o with global := false } op type befores).hostWrite (grainOfEll q.ell q.grain) bs
          (.ring (Fin.ofNat 192 q.ring) o.write)
      else s.replyAtom q.ring o op type befores
    (s.atomNfEvent o op type m, c)

/-- An ATOMIC of another device is performed on the copy; its values go into the response (R57, R283, R376). -/
def State.applyRemote (s : State) (c : EllCopy) (q : BReq) (id ctx source : Nat) (op : AtomOp) (type off : Nat) (entries : List (Nat × Nat)) :
    State × EllCopy :=
  match c.poison? q with
  | some _ => (s.performed (.remote id) true, c)
  | none =>
    let key := ellRunKey 1 q.ell
    let s := ((s.takeForced (2 * ctx) key).jrnRequest (2 * ctx) 1 key source).countTakeover c q.key q.gen
    let (c, _, bs, befores) := c.atomic q.key q.gen q.grain off op type entries
    let s := s.modServing id (fun v => { v with payload := befores.flatMap (leBytes (atomWidth type)) })
    (if isHostEll q.ell then s.hostWrite (grainOfEll q.ell q.grain) bs (.remote id) else s, c)

/-- Perform one request on a copy in which what it reads is held or dead; the answer goes to who asked. -/
def State.performReq : Perform := fun s c q =>
  match q.kind with
  | .load op dead _ =>
    let (s, r) := s.readCopy c q
    let res : GrainRes := match r with | .ok b => .data b | .dead => .dead | .bad x => .integrity x
    (s.replyLoad q.ring op (grainOfEll q.ell q.grain) res,
     if dead && c.owned q.key q.gen then { c with dead := setBit c.dead q.grain } else c)
  | .store op bs _ => s.applyStore c q op bs
  | .atom o => (match o.kind with
    | .atom op type => s.applyAtom c q o op type
    | _ => (s, c))
  | .redFold o => (match o.kind with
    | .redFold fmt rnd => s.applyRelease c q o fmt rnd
    | _ => (s, c))
  | .fold => s.applyFold c q
  | .modify id ctx source op type off entries => s.applyRemote c q id ctx source op type off entries
  | .read _ | .write _ _ => s.performAgent c q
  | .redAdd _ | .fill => (s, c)

/-! ### Folds (R197, R200, R203) -/

/-- Change the state of a ring's reduction ell on an ell. -/
def State.setRed (s : State) (ell ring : Nat) (st : RedSt) : State :=
  let tent := homeTent ell
  s.modTent tent (fun t => match t.redOf? ell ring with
    | some (k, r) => { t with frames := Assoc.mapVals (fun i (f : Frame) => if i = k then { f with kind := .red { r with st } } else f) t.frames }
    | none => t)

/-- Fold a reduction ell (R197): at once when its image is held, else once the atomic unit of the home memory controller has read it, for
which it waits as a fetch does (R203). A fold that replay does not ask for next makes it diverge (R381). The answer tells whether it has been
folded. -/
def State.fold (s : State) (tent : Nat) (r : RedEll) : State × Bool :=
  if r.st != .pinned then (s, false)
  else
    let q : BReq := { ring := r.ring, ctx := r.ctx, key := r.key, gen := r.gen, ell := r.ell, grain := 0, kind := .fold }
    match s.mayServe q with
    | (s, false) => (s, false)
    | (s, true) =>
      match s.serveAgain State.performReq tent q with
      | (s, false) => (s, false)
      | (s', true) =>
        let s' := if s.forcedFold? (2 * r.ctx) r.ell = some r.ring then s' else s'.diverge (2 * r.ctx) 1
        if (s'.tent tent).waiting q then (s'.setRed r.ell r.ring .folding, false) else (s', true)

/-- The reduction ells of a set. -/
def Tent.redsOf (t : Tent) (set : Nat) : List (Nat × RedEll) :=
  (t.redFrames set).filterMap (fun k => match Assoc.find? t.frames k with | some ⟨.red r, _⟩ => some (k, r) | _ => none)

/-- Does replay ask for a fold of the reduction ell next? -/
def State.foldNext (s : State) (r : RedEll) : Bool := s.forcedFold? (2 * r.ctx) r.ell == some r.ring
/-- Does replay ask for a fold of the reduction ell, but not yet? -/
def State.foldLater (s : State) (r : RedEll) : Bool := !s.foldNext r && s.foldRecorded (2 * r.ctx) r.ell r.ring

/-- A full set makes room for one more reduction ell: it folds the one that replay asks for, else waits for one that replay asks for later,
else the least recently used; one that is being folded or released already is waited for (R196, R381). -/
def State.foldOldest (s : State) (tent set : Nat) : State × Bool :=
  let t := s.tent tent
  let reds := t.redsOf set
  if reds.any (fun p => p.2.st != .pinned) then (s, false)
  else
    let next := reds.filter (fun p => s.foldNext p.2)
    if next.isEmpty && reds.any (fun p => s.foldLater p.2) then (s, false)
    else
      let l := if next.isEmpty then reds else next
      match (t.oldest? (l.map (·.1))).bind (fun k => (l.find? (fun p => p.1 == k))) with
      | some (_, r) => s.fold tent r
      | none => (s, true)

/-- Fold every reduction ell of a ring: it passes to another context (R200). -/
def State.foldRing (s : State) (ring : Nat) : State × Bool :=
  s.tents.foldl (fun acc t =>
    t.2.frames.foldl (fun (acc : State × Bool) f =>
      match f.2.kind with
      | .red r => if r.ring = ring then let (s, ok) := acc.1.fold t.1 r; (s, acc.2 && ok) else acc
      | _ => acc) acc) (s, true)

/-- Make the folds that replay asks for next on the reduction ells of a context that `sel` names, as long as there are any (R381). The answer
is false while one has to wait. -/
def State.foldsDue (s : State) (fuel ctx : Nat) (sel : RedEll → Bool) : State × Bool :=
  match fuel with
  | 0 => (s, true)
  | n + 1 =>
    let due := s.tents.flatMap (fun t => t.2.frames.filterMap (fun f => match f.2.kind with
      | .red r => if r.ctx = ctx ∧ sel r ∧ s.foldNext r then some (t.1, r) else none
      | _ => none))
    match due with
    | [] => (s, true)
    | (tent, r) :: _ =>
      match s.fold tent r with
      | (s, true) => s.foldsDue n ctx sel
      | (s, false) => (s, false)

/-- The number of reduction ells, which bounds the folds that follow one another. -/
def State.redCount (s : State) : Nat :=
  (s.tents.map (fun t => (t.2.frames.filter (fun f => match f.2.kind with | .red _ => true | _ => false)).length)).foldl (· + ·) 0

/-- The folds that replay asks for on an ell before a request to it is served (R381, R382). -/
def State.foldForced (s : State) (ctx ell : Nat) : State × Bool :=
  if (s.replay? (2 * ctx)).isNone then (s, true) else s.foldsDue s.redCount ctx (fun r => r.ell == ell)

/-! ### RED.ADD and RED.FOLD (R90, R195 to R198, R203) -/

/-- The value of an addend (R89): FP32, FP16, BF16 or S24 in its register. -/
def addend (fmt : Nat) (x : W64) : FVal := decodeFmt fmt (if fmt = 2 then bits x.toNat 31 8 else x.toNat % 2 ^ fmtWidth fmt)

/-- Does a fold or release of the ring's reduction ell on an ell wait at the bank or to be sent again (R203)? -/
def Tent.foldWaits (t : Tent) (bank ell ring : Nat) : Bool :=
  ((t.bank bank).overflow ++ t.refused.map (·.req)).any (fun x => x.ell == ell && x.ring == ring && x.kind.onImage)

/-- Must a RED.ADD make a reduction ell of a set that holds 12? -/
def Tent.redFull (t : Tent) (q : BReq) : Bool :=
  (t.redOf? q.ell q.ring).isNone && decide (12 ≤ (t.redFrames (bushelSet q.ell)).length)

/-- A RED.ADD request is added into its reduction ell, made on first use (R90, R147, R196). It waits for a fold or release of that reduction
ell which is in progress, or which waits in the bank before it (R203). -/
def State.addRed (s : State) (q : BReq) (c : CombOp) (fmt : Nat) (w96 : Bool) : State × Bool :=
  let tent := homeTent q.ell
  if (s.tent tent).foldWaits (bushelBank q.ell) q.ell q.ring then (s, false)
  else
    match (s.tent tent).redOf? q.ell q.ring with
    | some (_, r) =>
      if r.st ≠ .pinned then (s, false)
      else if r.w96 ≠ w96 then (c.fault (s.performed (.ring (Fin.ofNat 192 q.ring) c.write)) 10 12, true)
      else finish s tent
    | none =>
      let set := bushelSet q.ell
      let (s, ok) := if (s.tent tent).redFull q then s.foldOldest tent set else (s, true)
      if !ok then (s, false)
      else
        let (s, k) := s.freeFrame tent set []
        match k with
        | none => (s, false)
        | some k => finish (s.putFrame tent k (.red { ell := q.ell, ring := q.ring, ctx := q.ctx, key := q.key, gen := q.gen, w96 })) tent
where
  /-- add into the reduction ell that stands -/
  finish (s : State) (tent : Nat) : State × Bool :=
    match (s.tent tent).redOf? q.ell q.ring with
    | none => (s, false)
    | some (k, r) =>
      let key := ellRunKey 2 q.ell
      let s := (s.takeForced (s.stepKey q.ctx c.cmd) key).jrnRequest (s.stepKey q.ctx c.cmd) 2 key c.source
      let off := (c.parts.headD { thread := 0, addr := 0, x := 0 }).addr % 64 + 64 * q.grain
      let xs := c.parts.map (fun p => addend fmt p.x)
      let first := c.parts.headD { thread := 0, addr := 0, x := 0 }
      let (r', y) :=
        if w96 then
          let i := off / 16
          let el := xs.foldl (fun e x => accStep e [x]) (Assoc.get AccEl.zero r.acc i)
          ({ r with acc := Assoc.put r.acc i el }, el.val)
        else
          let i := off / 4
          let sum := match xs with
            | [] => FVal.zero
            | x :: rest => rest.foldl (fun a b => decodeFmt 1 (roundFmt 1 (FVal.add a b))) x
          let v := roundFmt 1 (FVal.add (decodeFmt 1 (Assoc.get 0 r.f32 i).toNat) sum)
          ({ r with f32 := Assoc.put r.f32 i (BitVec.ofNat 32 v) }, decodeFmt 1 v)
      let s := s.putFrame tent k (.red r')
      let s := s.performed (.ring (Fin.ofNat 192 q.ring) c.write)
      let s := if y.isFinite then s else s.requestNf c (nfDetail 4 (nfKind y) false first.thread 0 0 0 0 fmt)
      (s.settleTrap c.who.ring.val c.write, true)

/-- The reduction ell that a RED.FOLD releases. -/
def Tent.pinned? (t : Tent) (q : BReq) : Option RedEll := ((t.redOf? q.ell q.ring).filter (fun p => p.2.st == .pinned)).map (·.2)

/-- A RED.FOLD request releases the ring's reduction ell, or converts the image alone when none is pinned (R90, R198, R203). `serve` is how
the bank serves it. -/
def State.foldRed (serve : State → BReq → State × Bool) (s : State) (tent : Nat) (q : BReq) (c : CombOp) (fmt : Nat) : State × Bool :=
  let pinned := (s.tent tent).pinned? q
  if pinned.any (fun r => fmt == 15 && !r.w96) then (c.fault (s.performed (.ring (Fin.ofNat 192 q.ring) c.write)) 10 12, true)
  else
    let (s', left) := serve (if pinned.isSome then s.setRed q.ell q.ring .releasing else s) q
    -- a request that could neither be served nor wait for the image has begun no release
    if pinned.isSome && !(s'.tent tent).waiting q && ((s'.tent tent).redOf? q.ell q.ring).isSome then (s'.setRed q.ell q.ring .pinned, left)
    else (s', left)

/-! ### The bank serves a request (R189) -/

/-- The step that a request belongs to. -/
def BReq.stepKey (q : BReq) (s : State) : Nat :=
  match q.kind with
  | .atom c | .redAdd c | .redFold c => s.stepKey q.ctx c.cmd
  | .modify _ ctx _ _ _ _ _ => 2 * ctx
  | _ => 2 * q.ctx

/-- What the journal records of a request: its word 0 and its source (R376). A RED.FOLD that releases nothing is not recorded. -/
def State.record? (s : State) (q : BReq) : Option (W64 × Nat) :=
  match q.kind with
  | .atom c => (match c.kind with
    | .atom op type => if unrecorded op type c.fetch then none else some (ellRunKey 1 q.ell, c.source)
    | _ => none)
  | .modify _ _ source _ _ _ _ => some (ellRunKey 1 q.ell, source)
  | .redAdd c => some (ellRunKey 2 q.ell, c.source)
  | .redFold _ => if ((s.tent (homeTent q.ell)).pinned? q).isSome then some (ellRunKey 4 q.ell, foldSource q.ring) else none
  | _ => none

/-- What replay says of a request (R381). -/
def State.forcedReq (s : State) (q : BReq) : Forced :=
  match s.record? q with
  | some (w0, source) => s.forced (q.stepKey s) w0 source
  | none => .go

/-- Does replay hold the request back, by its order or because it needs a reduction ell whose room comes with a later fold (R381)? -/
def State.replayHolds (s : State) (q : BReq) : Bool :=
  s.forcedReq q == .wait ||
  (match q.kind with
   | .redAdd _ =>
     let t := s.tent (homeTent q.ell)
     let reds := t.redsOf (bushelSet q.ell)
     t.redFull q && !reds.any (fun p => s.foldNext p.2) && reds.any (fun p => s.foldLater p.2)
   | _ => false)

/-- Serve one request; the answer tells whether it has left its queue. `again`: it comes from the overflow queue, where it stays unless it can
go on. A request whose ell an earlier one waits for there, or to be sent again, goes behind that one (R29, R203). -/
def State.serve (s : State) (tent bank : Nat) (q : BReq) (again : Bool) : State × Bool :=
  let lost : Bool := !s.ctxLive q.ctx
  let image (s : State) (q : BReq) : State × Bool :=
    if again then s.serveAgain State.performReq tent q else s.serveEll State.performReq tent bank q
  let inOrder (s : State) (f : State → State × Bool) : State × Bool :=
    match s.foldForced (q.stepKey s / 2) q.ell with
    | (s, false) => (s, false)
    | (s, true) =>
      match s.forcedReq q with
      | .wait => (s, false)
      | v =>
        match s.mayServe q with
        | (s, false) => (s, false)
        | (s, true) => f (if v = .diverged then s.diverge (q.stepKey s) 1 else s)
  match q.kind with
  | .redAdd c =>
    if lost then (s.performed (.ring (Fin.ofNat 192 q.ring) c.write), true)
    else match c.kind with
      | .redAdd fmt w96 => inOrder s (fun s => s.addRed q c fmt w96)
      | _ => (s, true)
  | .redFold c =>
    if lost then (s.performed (.ring (Fin.ofNat 192 q.ring) c.write), true)
    else if !again && (s.tent tent).behind bank q.ell then (s.goBehind tent bank q, true)
    else match c.kind with
      | .redFold fmt _ => inOrder s (fun s => s.foldRed image tent q c fmt)
      | _ => (s, true)
  | _ =>
    if !again && (s.tent tent).behind bank q.ell then (s.goBehind tent bank q, true)
    else inOrder s (fun s => image s q)

/-- The request that a bank serves next: the first of its queue, but for those that replay holds back; what it does not order stays behind
them for their ells (R189, R381). -/
def State.nextReq? (s : State) (held : List Nat) (l : List BReq) : Option BReq :=
  match l with
  | [] => none
  | q :: rest =>
    if s.replayHolds q then s.nextReq? (q.ell :: held) rest
    else if held.contains q.ell && (s.record? q).isNone then s.nextReq? held rest
    else some q

/-- Requests of a bank that hit frames which wait for them to be written back (R203). -/
def Tent.chosenHits (t : Tent) (bank : Nat) : List BReq :=
  (t.chosen.filter (fun c => bankOfSet c.1 == bank)).flatMap (fun c => c.2.hits.filter (fun q => (t.bank bank).queue.contains q))

/-- A request is served, if it is of the kind asked for, and leaves the queue. -/
def State.serveIf (s : State) (tent bank : Nat) (pick : ReqKind → Bool) (q : BReq) : State :=
  if !pick q.kind then s
  else
    let (s, left) := s.serve tent bank q false
    if left then s.modTent tent (fun t => t.modBank bank (fun b => b.pop q)) else s

/-- The bank serves its next request, if it is of the kind asked for. When that one has to wait, a request that hits a frame which is to be
written back for it is served first (R203). -/
def State.serveFront (s : State) (tent bank : Nat) (pick : ReqKind → Bool) : State :=
  let b := (s.tent tent).bank bank
  match s.nextReq? [] (b.queue ++ b.coming) with
  | none => s
  | some q =>
    let (s', left) := s.serve tent bank q false
    if left then (if pick q.kind then s'.modTent tent (fun t => t.modBank bank (fun b => b.pop q)) else s)
    else
      match (s'.tent tent).chosenHits bank with
      | hit :: _ => s'.serveIf tent bank pick hit
      | [] => s'

/-- The first request of the overflow queue that can go on goes first; requests for one ell keep their order (R187, R203). The answer tells
whether there was one. -/
def State.serveOverflow (s : State) (tent bank : Nat) : State × Bool :=
  let l := ((s.tent tent).bank bank).overflow
  let firsts := (List.range l.length).filterMap (fun i => (l[i]?).bind (fun q => if (l.take i).any (fun x => x.ell == q.ell) then none else some q))
  firsts.foldl (fun (acc : State × Bool) q =>
    if acc.2 then acc
    else
      match acc.1.serve tent bank q true with
      | (s, true) => (s.modTent tent (fun t => t.modBank bank (fun b => { b with overflow := b.overflow.erase q })), true)
      | (s, false) => (s, false)) (s, false)

/-- Requests that BUSHEL_REQUEST serves: loads, stores, and the reads and writes of other agents. -/
def ReqKind.plain (k : ReqKind) : Bool := match k with | .load _ _ _ | .store _ _ _ | .read _ | .write _ _ => true | _ => false
/-- Requests that ATOMIC_REQUEST serves. -/
def ReqKind.atomic (k : ReqKind) : Bool := match k with | .atom _ | .modify _ _ _ _ _ _ _ => true | _ => false

/-- A refused request is sent again: only the first of its DRAM bank is accepted, into the bank's queue or, for want of a miss register, its
overflow queue (R187). -/
def State.resend (s : State) (tent id : Nat) : State :=
  let t := s.tent tent
  match t.refused.find? (fun r => r.num == id) with
  | none => s
  | some r =>
    if t.refused.any (fun x => x.bank == r.bank && decide (x.num < r.num)) then s
    else
      let bank := bushelBank r.req.ell
      let took (s : State) : State := s.modTent tent (fun t => { t with refused := t.refused.filter (fun x => x.num != id) })
      if t.bankRegs (bankKey r.req.ell) < 512 || t.fetching r.req.ell || (t.frameOf? r.req.ell).isSome then
        (took s).modTent tent (fun t => t.modBank bank (fun b => b.pushAgain r.req))
      else if (t.bank bank).overflow.length < 64 then (took s).overflowMiss tent bank r.req
      else s.modTentCounters tent (fun c => { c with refusedSends := bump c.refusedSends 1 })

/-- REQUEST_RESEND (R187). -/
def execRequestResend (tent : TentId) (id : Nat) (s : State) : Host.Outcome State Fault Refusal := .next (s.resend tent.val id)

end Sys2Proof.Machine
end

