-- ==== Sys2Proof/Machine/HostAccess.lean ====
section
/-!
DEFINITION. Host accesses to device memory through CXL.mem (R234, R309, R311, R351, R355, R361, R366).
-/

namespace Sys2Proof.Machine

/-- The host window that a DPA lies in. -/
def Hub.hostWindow? (h : Hub) (dpa : Nat) : Option HostWindow :=
  (h.hostWindows.find? (fun w => decide (w.2.base ≤ dpa) && decide (dpa < w.2.base + w.2.len))).map (·.2)

/-- A refused host access is counted (R309). -/
def State.refuseHost (s : State) : State := s.modHub (fun h => { h with hostRefused := h.hostRefused + 1 })

/-- Entries of the host-caching filter (R311). -/
def filterSize : Nat := 1048576

/-- Host accesses that will enter a grain into the filter once their banks serve them. -/
def State.filterComing (s : State) : Nat :=
  ((s.tents.flatMap (fun t => t.2.requests)).filter (fun q => match q.kind with
    | .read (.mem _ want _ _ _) => want != .noCopy
    | .write (.mem _ keep _ _) _ => keep
    | _ => false)).length

/-- May the grain be entered into the filter? When it is full, the oldest entry is invalidated first (R311). -/
def State.filterRoom (s : State) (g : Nat) : State × Bool :=
  if (s.hub.entry? g).isSome && !s.hub.snoops.any (fun x => x.grain == g) then (s, true)
  else if s.hub.filter.length + s.filterComing < filterSize then (s, true)
  else
    match s.hub.filter with
    | e :: _ => (s.snoop e.grain true, false)
    | [] => (s, false)

/-- A host access goes to the home bushel of its grain (R234); `false`: it has to wait at the hub, for room in the filter or for the end of a
snoop (R311, R361). The host's write of a whole grain that it holds for itself is the write-back of its copy: it goes before the device-side
accesses that wait for that copy (R361). -/
def State.serveHost (s : State) (r : HostReq) : State × Bool :=
  match r with
  | .read dpa want tag =>
    let g := dpa / 64
    match s.hub.hostWindow? dpa with
    | none => (s.refuseHost.emit (.memData tag dpa zeroGrain true), true)
    | some w =>
      let gen := s.keyGen w.key
      let blocked : Bool := s.hub.snoops.any (fun x => x.grain == g) && decide (s.hub.filter.length < filterSize)
      let (s, room) := if want = .noCopy then (s, true) else s.filterRoom g
      if blocked || !room then (s, false)
      else (s.arriveWith State.serveAgent (agentReq w.key gen g (.read (.mem dpa want tag w.key gen))), true)
  | .write dpa bytes keep =>
    let g := dpa / 64
    match s.hub.hostWindow? dpa with
    | none => (s.refuseHost.emit (.memCmp dpa), true)
    | some w =>
      if w.readOnly then (s.refuseHost.emit (.memCmp dpa), true)
      else
        let gen := s.keyGen w.key
        let who : WrWho := .mem dpa keep w.key gen
        let (s, room) := if keep then s.filterRoom g else (s, true)
        if !room then (s, false)
        else if (s.hub.entry? g).any (·.exclusive) && wholeGrain bytes then
          let (s, held) := s.drainHeld (g / 16)
          if held || s.hub.backPending g then (s, false)
          else
            match s.putBack w.key gen g bytes with
            | (s, true) => (s.performed who, true)
            | (s, false) => (s, false)
        else (s.homeWrite w.key gen g bytes who, true)

/-- The grain that a host access names. -/
def HostReq.grain (r : HostReq) : Nat := match r with | .read a _ _ => a / 64 | .write a _ _ => a / 64

/-- A host access arrives: it goes on, or waits behind what holds it and behind earlier accesses to its grain. -/
def State.hostAccess (s : State) (r : HostReq) : State :=
  if s.hub.hostReqs.any (fun x => x.grain == r.grain) then s.modHub (fun h => { h with hostReqs := h.hostReqs ++ [r] })
  else
    match s.serveHost r with
    | (s, true) => s
    | (s, false) => s.modHub (fun h => { h with hostReqs := h.hostReqs ++ [r] })

/-- Try the waiting host accesses again, in order of arrival. -/
def State.retryHost (s : State) : State :=
  let l := s.hub.hostReqs
  let s := s.modHub (fun h => { h with hostReqs := [] })
  l.foldl State.hostAccess s

/-- What was held may go on: waiting writes, then waiting host accesses. -/
def State.retryHeld (s : State) : State := s.retryWrites.sendAcks.retryHost

end Sys2Proof.Machine
end

