-- ==== Sys2Proof/Machine/Nv.lean ====
section
/-!
DEFINITION. The NV store: its address map, the banks with their headers, the choice of a copy, and how a save starts and ends (R433 to
R435).
-/

namespace Sys2Proof.Machine

/-! ### The address map (R433) -/

/-- Size of a bank of a record set, in bytes. -/
def nvBankSize (n : Nat) : Nat :=
  match n with
  | 0 => 24 * 2 ^ 20
  | 3 => 256 * 2 ^ 10
  | 6 => 2 ^ 20
  | _ => 64 * 2 ^ 10

/-- Address of a bank in the 128 MiB of the store: bank 1 follows bank 0. -/
def nvBankAt (n bank : Nat) : Nat :=
  (match n with
  | 0 => 0x0000000 | 1 => 0x3000000 | 2 => 0x3020000 | 3 => 0x3040000 | 4 => 0x30C0000 | 5 => 0x30E0000 | 6 => 0x3100000 | 7 => 0x3300000
  | _ => 0x3320000) + bank * nvBankSize n

/-- Content bytes that a bank has room for behind its header of 32 B. -/
def nvRoom (n : Nat) : Nat := nvBankSize n - 32

/-! ### Banks (R434) -/

/-- The bytes of a content. Sets 0, 2 and 5 have the layouts of R449, R413 and R448. The manual gives the others none; theirs are the numbers of
the model in its own order, 8 B each, which only LENGTH and CRC see (DESIGN CHOICE). -/
def NvContent.image (c : NvContent) : List Byte :=
  let num (n : Nat) : List Byte := leBytes 8 n
  let pairs (l : List (Nat × Nat)) : List Byte := l.flatMap (fun p => num p.1 ++ num p.2)
  match c with
  | .bytes b => b
  | .voltage t => t.flatMap (fun e => num e.vTest ++ num e.pStatic ++ e.fTest.flatMap num)
  | .margin w => w.flatMap (fun x => num x.toNat)
  | .dict v fatal => num fatal ++ pairs v
  | .identity i => i.helper ++ i.nonce ++ i.block ++ i.pub ++ i.cert ++ i.chain
  | .memory m => m.flatMap (fun p => num p.1 ++ num (p.2.serial.getD 0) ++ pairs p.2.erasures ++
      p.2.remaps.flatMap (fun r => num r.1.bank ++ num r.1.sub ++ num r.1.row ++ num r.2))
  | .ceilings base l => num base ++ pairs l
  | .calibration r _ => r

/-- MAGIC of a written bank. -/
def nvMagic : W32 := 0x4E534554

/-- CRC of a bank: over words 0 and 1 of its header and the content. -/
def NvBank.sum (b : NvBank) : W32 :=
  BitVec.ofNat 32 (crc32c (leBytes 8 (b.magic.toNat * 2 ^ 32 + b.set.toNat * 2 ^ 24) ++ leBytes 8 (b.seq.toNat * 2 ^ 32 + b.length.toNat) ++
    b.content.image))

/-- A bank of set `n` is valid: MAGIC, SET, LENGTH and CRC hold. -/
def NvBank.holds (b : NvBank) (n : Nat) : Bool :=
  b.magic == nvMagic && b.set.toNat == n && b.length.toNat == b.content.image.length && decide (b.length.toNat ≤ nvRoom n) && b.crc == b.sum

/-- A bank as a save writes it. -/
def nvBank (n : Nat) (seq : W32) (c : NvContent) : NvBank :=
  let b : NvBank := { magic := nvMagic, set := BitVec.ofNat 8 n, seq, length := BitVec.ofNat 32 c.image.length, content := c }
  { b with crc := b.sum }

/-- A bank of a set. -/
def NvSet.bank (x : NvSet) (i : Nat) : NvBank := if i = 0 then x.bank0 else x.bank1
/-- Put a bank. -/
def NvSet.setBank (x : NvSet) (i : Nat) (b : NvBank) : NvSet := if i = 0 then { x with bank0 := b } else { x with bank1 := b }
/-- A bank of set `n`, if it is valid. -/
def NvSet.valid? (x : NvSet) (n i : Nat) : Option NvBank := if (x.bank i).holds n then some (x.bank i) else none

/-! ### The choice of a copy (R435) -/

/-- The bank that holds the chosen copy of set `n`. -/
def NvSet.chosenBank? (x : NvSet) (n : Nat) : Option Nat :=
  match x.valid? n 0, x.valid? n 1 with
  | some a, some b => if 1 ≤ (b.seq - a.seq).toNat ∧ (b.seq - a.seq).toNat ≤ 2 ^ 31 - 1 then some 1 else some 0
  | some _, none => some 0
  | none, some _ => some 1
  | none, none => none

/-- The chosen copy. -/
def NvSet.chosen? (x : NvSet) (n : Nat) : Option NvBank := (x.chosenBank? n).map x.bank

/-- The bank that a save writes: the one that does not hold the chosen copy; bank 0 of an empty set (R434). -/
def NvSet.target (x : NvSet) (n : Nat) : Nat := match x.chosenBank? n with | some 0 => 1 | _ => 0

/-- The set once a save has begun: the bank is erased first (R434). -/
def NvSet.erase (x : NvSet) (n : Nat) : NvSet := x.setBank (x.target n) {}

/-- The set after a save: content, then a header with the next sequence number, 1 in an empty set (R434). -/
def NvSet.save (x : NvSet) (n : Nat) (c : NvContent) : NvSet :=
  x.setBank (x.target n) (nvBank n (match x.chosen? n with | some b => b.seq + 1 | none => 1) c)

/-- A record set of the store. -/
def State.nvSet (s : State) (n : Nat) : NvSet := Assoc.get {} s.nv n

/-- What the chosen copy of a set holds. -/
def State.nvContent? (s : State) (n : Nat) : Option NvContent := ((s.nvSet n).chosen? n).map (·.content)

/-- A save of a set starts and erases its bank (R434); a save of the set already in progress then writes the newer content (DESIGN
CHOICE). -/
def State.nvStart (s : State) (n : Nat) (c : NvContent) : State :=
  { s with nv := Assoc.put s.nv n ((s.nvSet n).erase n), nvSaving := Assoc.put s.nvSaving n c }

/-- Set 6 as it is saved: erasures, remaps and serial number of every channel (R221, R223, R233); of a channel not trained since power-up,
those that the set holds. -/
def State.chanRecords (s : State) : FMap NvChan :=
  let old : FMap NvChan := match s.nvContent? 6 with
    | some (.memory m) => m
    | _ => []
  s.chans.foldl (fun m p =>
    if p.2.train = .trained then Assoc.put m p.1 { serial := p.2.nvSerial, erasures := p.2.erasures, remaps := p.2.remaps } else m) old

/-- A save of set 6 starts. -/
def State.saveChans (s : State) : State := s.nvStart 6 (.memory s.chanRecords)

end Sys2Proof.Machine
end

