-- ==== Sys2Proof/Machine/Objects.lean ====
section
/-!
DEFINITION. Memory objects, the allocator and its page-table entries, reclaim, and the life of key slots (R100, R101, R224, R231, R232,
R338 to R342, R357).
-/

namespace Sys2Proof.Machine

/-! ### Granules -/

/-- Granules of a run list. -/
def Runs.total (r : Runs) : Nat := (r.map (·.2)).foldl (· + ·) 0

/-- The `n` lowest granules, and the rest. -/
def Runs.takeLow (r : Runs) (n : Nat) : Runs × Runs :=
  match r with
  | [] => ([], [])
  | (a, c) :: t =>
    if n = 0 then ([], r)
    else if c ≤ n then
      let x := Runs.takeLow t (n - c)
      ((a, c) :: x.1, x.2)
    else ([(a, n)], (a + n, c - n) :: t)

/-- Add a run, joined with a neighbour that it touches. -/
def Runs.add (r : Runs) (x : Nat × Nat) : Runs :=
  match r with
  | [] => [x]
  | (a, c) :: t =>
    if x.1 + x.2 < a then x :: (a, c) :: t
    else if x.1 + x.2 = a then (x.1, x.2 + c) :: t
    else if a + c = x.1 then Runs.add t (a, c + x.2)
    else (a, c) :: Runs.add t x

/-- The granules of a run list in rising order. -/
def Runs.list (r : Runs) : List Nat := r.flatMap (fun p => (List.range p.2).map (p.1 + ·))

/-! ### References (R338, R340) -/

/-- The count of an object for reclaim. -/
def Obj.count (o : Obj) : Nat := o.handles + o.mappings.length + o.windows

/-- An object whose count has become 0 is marked with the order of its last drop. -/
def State.putObj (s : State) (n : Nat) (o : Obj) : State :=
  let o := if o.count = 0 then { o with dropped := some (o.dropped.getD s.hub.order) } else { o with dropped := none }
  s.modHub (fun h => { h with objs := Assoc.put h.objs n o })

/-- Change an object. -/
def State.modObj (s : State) (n : Nat) (f : Obj → Obj) : State :=
  match Assoc.find? s.hub.objs n with
  | some o => s.putObj n (f o)
  | none => s

/-- Objects that lie, at least in part, in a range of device memory. -/
def Hub.objsIn (h : Hub) (base len : Nat) : List Nat :=
  (h.objs.filter (fun o => o.2.runs.any (fun r => decide (r.1 * 65536 < base + len) && decide (base < (r.1 + r.2) * 65536)))).map (·.1)

/-! ### ALLOC and FREE (R100, R101, R339) -/

/-- The level-0 table of a page, when every entry of levels 4 to 1 on its path is VALID and no leaf: `none` while a grain is awaited,
`some none` when the path does not hold. -/
def State.leafTable (s : State) (who : Asker) (va level table : Nat) : State × Option (Option Nat) :=
  match level with
  | 0 => (s, some (some table))
  | n + 1 =>
    let a := table + 8 * ((va >>> (levelShift level).1) % 512)
    if Config.dpaLimit ≤ a then (s, some none)
    else
      match s.homeRead who deviceKey 0 (a / 64) with
      | (s, none) => (s, none)
      | (s, some r) =>
        let e := leNat ((r.bytes.drop (a % 64)).take 8)
        if !bitN e 0 || bitN e 1 then (s, some none) else s.leafTable who va n (bits e 51 8 * 256)

/-- The DPAs of the level-0 entries of `n` pages from a virtual address on. -/
def State.leafSlots (s : State) (who : Asker) (root va n : Nat) : State × Option (Option (List Nat)) :=
  (List.range n).foldl (fun (acc : State × Option (Option (List Nat))) i =>
    match acc.2 with
    | some (some l) =>
      let a := va + 65536 * i
      match acc.1.leafTable who a 4 root with
      | (s, some (some t)) => (s, some (some (l ++ [t + 8 * ((a >>> 16) % 32)])))
      | (s, some none) => (s, some none)
      | (s, none) => (s, none)
    | _ => acc) (s, some (some []))

/-- The lowest free range of `n` pages of a pool's arena, as a page index: ranges of live allocations are taken. -/
def lowestFit (used : List (Nat × Nat)) (pages n fuel at_ : Nat) : Option Nat :=
  match fuel with
  | 0 => none
  | k + 1 =>
    if pages < at_ + n then none
    else match used.find? (fun u => decide (u.1 < at_ + n) && decide (at_ < u.1 + u.2)) with
      | none => some at_
      | some u => lowestFit used pages n k (u.1 + u.2)

/-- Page ranges of the pool's arena that live objects of it hold. -/
def Hub.arenaUsed (h : Hub) (ctx pool base : Nat) : List (Nat × Nat) :=
  h.objs.filterMap (fun o => match o.2.alloc with
    | some (p, va) => if o.2.ctx = ctx ∧ p = pool then some ((va - base) / 65536, o.2.runs.total) else none
    | none => none)

/-- The VALID, WRITE leaf of a granule under a key slot. -/
def allocLeaf (key granule : Nat) : Nat := key * 2 ^ 52 + granule * 65536 + 5

/-- ALLOC (R339): the address of the allocation, `some none` when it cannot be made; `none` while a page-table grain is awaited. -/
def State.allocate (s : State) (who : Asker) (ctx pool size : Nat) : State × Option (Option Nat) :=
  let n := ceilDiv size 65536
  match s.ctx? ctx with
  | none => (s, some none)
  | some c =>
    match Assoc.find? c.pools pool, Assoc.firstFree s.hub.objs 0x80000 0x80000 with
    | some p, some num =>
      if n = 0 ∨ c.driverMap ∨ p.free.total < n then (s, some none)
      else
        let used := s.hub.arenaUsed ctx pool p.base
        match lowestFit used (p.len / 65536) n (used.length + 1) 0 with
        | none => (s, some none)
        | some page =>
          let va := p.base + 65536 * page
          match s.leafSlots who c.ptRoot va n with
          | (s, none) => (s, none)
          | (s, some none) => (s.forgetAnswers (· == who), some none)
          | (s, some (some slots)) =>
            let s := s.forgetAnswers (· == who)
            let (mine, rest) := Runs.takeLow p.free n
            let s := s.modCtx ctx (fun c => { c with pools := Assoc.put c.pools pool { p with free := rest } })
            let s := (slots.zip (Runs.list mine)).foldl (fun (s : State) x =>
              s.writePlace false x.1 (leBytes 8 (allocLeaf c.keySlot x.2)) .none) s
            let o : Obj := { runs := mine, key := c.keySlot, ctx, alloc := some (pool, va), ptes := slots, handles := 1, ownHandle := true
                             ownMapping := true, mapped := [ctx] }
            (s.putObj num o, some (some va))
    | _, _ => (s, some none)

/-- Is the object a live allocation of the context that starts at the address? -/
def Obj.startsAt (o : Obj) (ctx va : Nat) : Bool :=
  o.ctx == ctx && o.ownHandle && (match o.alloc with | some (_, a) => a == va | none => false)

/-- Is the address the start of a live allocation of the context (R101)? -/
def State.allocated (s : State) (ctx va : Nat) : Bool := s.hub.objs.any (fun o => o.2.startsAt ctx va)

/-- FREE (R101): the handle reference that ALLOC gave is dropped; the answer is the predicate. -/
def State.freeAt (s : State) (ctx va : Nat) : State × Bool :=
  match s.hub.objs.find? (fun o => o.2.startsAt ctx va) with
  | some (n, o) => (s.putObj n { o with handles := o.handles - 1, ownHandle := false }, true)
  | none => (s, false)

/-! ### Key slots (R231, R232, R357) -/

/-- Put a key slot. -/
def State.setKeySlot (s : State) (k : Nat) (x : KeySlot) : State := s.modHub (fun h => { h with keySlots := Assoc.put h.keySlots k x })

/-- A request under a released key: its generation becomes 0, which no key has (R239). -/
def BReq.release (q : BReq) (k : Nat) : BReq := if q.key = k then { q with gen := 0 } else q

/-- Every bushel frame tagged with the slot is freed without write-back; fetches under way go on (R231, R239). -/
def Tent.dropKey (t : Tent) (k : Nat) : Tent :=
  let keep (f : Nat × Frame) : Option (Nat × Frame) :=
    match f.2.kind with
    | .ells l =>
      let l := l.filter (fun c => isHostEll c.ell || c.owner != k || c.gen == 0)
      if l.isEmpty then none else some (f.1, { f.2 with kind := .ells l })
    | .red r => if r.key = k then none else some f
    | _ => some f
  { t.filterFrames keep with
      miss := Assoc.mapVals (fun _ (m : MissReg) => { m with waiters := m.waiters.map (fun q => q.release k) }) t.miss
      banks := Assoc.mapVals (fun _ (b : BankQ) =>
        { queue := b.queue.map (fun q => q.release k), coming := b.coming.map (fun q => q.release k)
          overflow := b.overflow.map (fun q => q.release k) }) t.banks
      refused := t.refused.map (fun r => { r with req := r.req.release k }) }

/-- The ceilings of every slot that has been used, as set 7 holds them. -/
def Hub.ceilings (h : Hub) : FMap Nat := h.keySlots.map (fun k => (k.1, k.2.ceiling))

/-- A new ceiling, 1,024 above a generation and at most 0xF_FFFF (R232). -/
def nextCeiling (g : Nat) : Nat := min (g + 1024) 0xFFFFF

/-- Start the save that raises a slot's ceiling, when its generation has reached it (R232). -/
def State.raiseCeiling (s : State) (k : Nat) : State :=
  let x := s.hub.keySlot k
  if x.gen < x.ceiling then s
  else
    let (base, c) : Nat × FMap Nat := match Assoc.find? s.nvSaving 7 with
      | some (.ceilings b c) => (b, c)
      | _ => (s.hub.slotCeil, s.hub.ceilings)
    s.nvStart 7 (.ceilings base (Assoc.put c k (nextCeiling x.gen)))

/-- Does the host still have to do with a key slot: entries of the filter name it, or accesses of the host under it wait at their banks? -/
def State.hostHolds (s : State) (k : Nat) : Bool :=
  s.hub.filter.any (fun e => e.key == k) || s.tents.any (fun t => t.2.requests.any (fun q => q.key == k && q.kind.ofHost))

/-- The last reference of a slot has gone: host copies are snooped out first, then the keys are erased, its frames freed and its
generation advanced (R231, R357). -/
def State.freeKey (s : State) (k : Nat) : State :=
  let mine := s.hub.filter.filter (fun e => e.key == k)
  let x := s.hub.keySlot k
  if s.hostHolds k then mine.foldl (fun (s : State) e => s.snoop e.grain true) (s.setKeySlot k { x with freeing := true })
  else
    let gen := x.gen + 1
    let s := s.setKeySlot k { st := if 0xFFFFF ≤ gen then .retired else .free, gen, ceiling := x.ceiling }
    let s := { s with tents := Assoc.mapVals (fun _ (t : Tent) => t.dropKey k) s.tents }
    let s := s.raiseCeiling k
    s.event [BitVec.ofNat 64 (3 * 2 ^ 56), BitVec.ofNat 64 (k + gen * 2 ^ 32)]

/-- Key slots that wait for host snoops are freed once no filter entry names them. -/
def State.freeWaitingKeys (s : State) : State :=
  (s.hub.keySlots.filter (fun k => k.2.freeing)).foldl (fun (s : State) k => if s.hostHolds k.1 then s else s.freeKey k.1) s

/-- A Condemned slot under which no object is left is freed (R231). -/
def State.settleKey (s : State) (k : Nat) : State :=
  let x := s.hub.keySlot k
  if x.st = .condemned ∧ !x.freeing ∧ !(s.hub.objs.any (fun o => o.2.key == k)) then s.freeKey k else s

/-! ### Reclaim (R340) -/

/-- Copies of a context with an order below `n` that have not retired. -/
def State.copiesBefore (s : State) (cs : List Nat) (n : Nat) : Bool :=
  s.tents.any (fun t => (t.2.copyq ++ t.2.engines.map (·.2)).any (fun c => cs.contains c.ctx && decide (c.order < n))) ||
  s.rings.any (fun r => r.2.dmaq.any (fun d => cs.contains d.ctx && decide (d.order < n)))

/-- Has every command and copy of the contexts that mapped the object, accepted or queued before its last drop, retired? -/
def State.retired (s : State) (o : Obj) (n : Nat) : Bool :=
  !(s.hub.cmds.any (fun c => (match c.2.ctx with | some x => o.mapped.contains x | none => false) && decide (c.2.order < n))) &&
  !s.copiesBefore o.mapped n

/-- Drop cached translations of a context that a range covers. -/
def Tent.dropTlb (t : Tent) (ctx base len : Nat) : Tent :=
  { t with tlb := t.tlb.filter (fun e => !(e.ctx == ctx && decide (e.base < base + len) && decide (base < e.base + e.size))) }

/-- Reclaim an object whose count is 0 (R340). -/
def State.reclaim (s : State) (n : Nat) : State :=
  match Assoc.find? s.hub.objs n with
  | none => s
  | some o =>
    match o.dropped with
    | none => s
    | some d =>
      if o.count ≠ 0 ∨ !s.retired o d then s
      else
        let s := o.ptes.foldl (fun (s : State) a => s.writePlace false a (leBytes 8 0) .none) s
        let s := match o.alloc with
          | some (_, va) => { s with tents := Assoc.mapVals (fun _ (t : Tent) => t.dropTlb o.ctx va (65536 * o.runs.total)) s.tents }
          | none => s
        let home : Option (Nat × Nat) := match o.alloc with
          | some (p, _) => match s.ctx? o.ctx with
            | some c => if c.st = .live then some (o.ctx, p) else none
            | none => none
          | none => none
        let s := match home with
          | some (c, p) => s.modCtx c (fun x =>
              match Assoc.find? x.pools p with
              | some q => { x with pools := Assoc.put x.pools p { q with free := o.runs.foldl Runs.add q.free } }
              | none => x)
          | none => s
        let s := s.modHub (fun h => { h with objs := Assoc.del h.objs n })
        let dest := match home with | some (c, _) => c | none => 0x3FF
        let s := s.event [BitVec.ofNat 64 (2 * 2 ^ 56), BitVec.ofNat 64 (dest * 2 ^ 54 + n)]
        s.settleKey o.key

/-- OBJECT_RECLAIM (R340). -/
def execObjectReclaim (obj : ObjId) (s : State) : Host.Outcome State Fault Refusal := .next (s.reclaim obj.val)

end Sys2Proof.Machine
end

