-- ==== Sys2Proof/Machine/Copy.lean ====
section
/-!
DEFINITION. DMA.Q, ALLOC and FREE (R86, R100 to R102, R106, R339), and copies on the DMA engines (R169 to R174, R282, R308, R365 to
R368).
-/

namespace Sys2Proof.Machine

/-! ### The instructions -/

/-- The copy that the eight uniform registers of a DMA.Q describe (R102). -/
structure DmaWords where
  src : Nat
  dst : Nat
  len : Nat
  handle : W32
  inc : W32

/-- The words u(N) to u(N + 7) of a DMA.Q (R102): source, destination, length, handle, increment. -/
def dmaWords (t : Troupe) (n : Nat) : DmaWords :=
  let pair (i : Nat) : Nat := (t.getU (n + i)).toNat + (t.getU (n + i + 1)).toNat * 2 ^ 32
  ⟨pair 0, pair 2, pair 4, t.getU (n + 6), t.getU (n + 7)⟩

/-- Offset and length of a scratchpad address of a DMA.Q; `none` for another address. -/
def dmaScratch (a : Nat) : Option Nat := if bitN a 63 then some (a % 2 ^ 63) else none

/-- Blocks of 64 B of the ring's scratchpad that a range takes. -/
def dmaBlocks (base a len : Nat) : List Nat :=
  match dmaScratch a with
  | some o => if len = 0 ∨ 655360 < o + len then [] else blocksOfRanges [(base + o, len)]
  | none => []

/-- DMA.Q (R102). -/
def opDmaQ (f : RForm) : AlOp :=
  let n := f.srcA.toNat % 64
  let group : Need :=
    { reads := (List.range 8).map (fun i => 256 + (n + i) % 64)
      reasons := (if 64 ≤ f.srcA.toNat then [2] else []) ++ (if n % 8 ≠ 0 then [4] else []) }
  { guard := f.guard
    need := fun _ =>
      ((((needGuard f.guard).and (needUnused f.dst)).and group).and ((needUnused f.srcB).and
        ({ writes := [320 + f.srcC.toNat % 8], reasons := if 8 ≤ f.srcC.toNat then [2] else [] } : Need))).and
      (reasonIf (decide (f.usel ≠ 4) || f.udst || decide (f.type ≠ 0) || !subFree f || !negFree f || !condFree f) 1)
    hold := fun s who t _ =>
      let r := s.ring who.ring.val
      let w := dmaWords t n
      meets (dmaBlocks (r.baseOf t) w.src w.len ++ dmaBlocks (r.baseOf t) w.dst w.len) (r.mxWrites t.uid)
    test := fun s who t _ ps =>
      if ps.isEmpty then (s, .go)
      else
        let size := (s.ring who.ring.val).sizeOf t
        let w := dmaWords t n
        let out (a : Nat) : Bool := match dmaScratch a with | some o => decide (size < o + w.len) | none => false
        let l := (if w.len = 0 ∨ 2 ^ 32 < w.len then [1] else []) ++
          (if w.handle ≠ 0xFFFFFFFF ∧ !s.canSignal t.ctx w.handle then [10] else []) ++ (if out w.src || out w.dst then [11] else [])
        (s, if l.isEmpty then .go else .refused l)
    act := fun s who t u ps _ =>
      if ps.isEmpty then s.setTroupe who t
      else
        let ring := who.ring.val
        let r := s.ring ring
        let w := dmaWords t n
        let room : Bool := decide (r.dmaq.length < 16)
        let s := s.setTroupe who (t.setPred ps (f.srcC.toNat % 8) room)
        if !room then s
        else
          let (s, order) := s.nextOrder
          let q : DmaReq :=
            { ctx := t.ctx, cmd := t.cmd, base := r.baseOf t, size := r.sizeOf t, src := BitVec.ofNat 64 w.src, dst := BitVec.ofNat 64 w.dst
              len := w.len, handle := w.handle, inc := w.inc.setWidth 64, order, ring, pc := u.pc, org := s.originOf t }
          s.modRing ring (fun r => { r with dmaq := r.dmaq ++ [q] }) }

/-- ALLOC (R86, R100): a request to the ringmasters. -/
def opAlloc (f : RForm) : AlOp :=
  { guard := f.guard, latency := false
    need := fun t =>
      ((((needGuard f.guard).and (needDst t.regs true f.dst 2)).and (needSrc t.regs true false f.srcA 2)).and
        ((needUnused f.srcB).and
          ({ writes := [320 + f.srcC.toNat % 8], reasons := if 8 ≤ f.srcC.toNat then [2] else [] } : Need))).and
      (reasonIf (decide (f.usel ≠ 4) || !f.udst || decide (f.type ≠ 0) || !negFree f || !condFree f) 1)
    act := fun s who t u ps _ =>
      if ps.isEmpty then s.setTroupe who t
      else
        let ring := who.ring.val
        let op := (s.ring ring).nextOp
        let pend := t.nextId
        let n := f.dst.toNat % 64
        let t' := { t with pending := t.pending ++ [⟨pend, [256 + n, 256 + n + 1, 320 + f.srcC.toNat % 8], u.threads, true⟩], nextId := pend + 1 }
        let a : AllocOp :=
          { who, ctx := t.ctx, pend, size := t.srcPair true 0 f.srcA, pool := f.sub.toNat, dst := n, pdst := f.srcC.toNat % 8, threads := ps }
        (s.setTroupe who t').modRing ring (fun r => { r with nextOp := op + 1, allocs := Assoc.put r.allocs op a }) }

/-- FREE (R86, R101). The start of a live allocation is freed; another address with a valid translation gives false, and one without gives
PAGE_FAULT, which R103 lists for FREE (DEDUCED). -/
def opFree (f : RForm) : AlOp :=
  { guard := f.guard
    need := fun t =>
      ((((needGuard f.guard).and (needUnused f.dst)).and (needSrc t.regs true false f.srcA 2)).and
        ((needUnused f.srcB).and
          ({ writes := [320 + f.srcC.toNat % 8], reasons := if 8 ≤ f.srcC.toNat then [2] else [] } : Need))).and
      (reasonIf (decide (f.usel ≠ 4) || f.udst || decide (f.type ≠ 0) || !subFree f || !negFree f || !condFree f) 1)
    test := fun s who t _ ps =>
      let va := (t.srcPair true 0 f.srcA).toNat
      if ps.isEmpty || s.allocated t.ctx va then (s, .go)
      else match s.translate (tentOfRing who.ring.val) t.ctx va false with
        | (s, .ok _) => (s, .go)
        | (s, .held) => (s, .held)
        | (s, .fault) => (s, .fault va)
    act := fun s who t _ ps _ =>
      if ps.isEmpty then s.setTroupe who t
      else
        let (s, ok) := s.freeAt t.ctx (t.srcPair true 0 f.srcA).toNat
        s.setTroupe who (t.setPred ps (f.srcC.toNat % 8) ok) }

/-- DMA.Q (R102). -/
def execDmaQ (who : TroupeRef) (f : RForm) (s : State) : Host.Outcome State Fault Refusal := .next (s.runOp who (opDmaQ f))
/-- ALLOC (R100). -/
def execAllocOp (who : TroupeRef) (f : RForm) (s : State) : Host.Outcome State Fault Refusal := .next (s.runOp who (opAlloc f))
/-- FREE (R101). -/
def execFreeOp (who : TroupeRef) (f : RForm) (s : State) : Host.Outcome State Fault Refusal := .next (s.runOp who (opFree f))

/-- The ringmasters finish an ALLOC and write its result (R100, R339). -/
def State.allocDone (s : State) (ring op : Nat) : State :=
  match Assoc.find? (s.ring ring).allocs op with
  | none => s
  | some a =>
    match s.allocate (.alloc ring op) a.ctx a.pool a.size.toNat with
    | (s, none) => s
    | (s, some va) =>
      let s := s.modRing ring (fun r => { r with allocs := Assoc.del r.allocs op })
      match s.waiting? a.who a.pend with
      | none => s
      | some t =>
        let t := (t.putWords true 0 (BitVec.ofNat 8 a.dst) 2 (va.getD 0)).setPred a.threads a.pdst va.isSome
        s.setTroupe a.who (t.dropPending a.pend)

/-- ALLOC_COMPLETE (R339). -/
def execAllocComplete (ring : RingId) (op : Nat) (s : State) : Host.Outcome State Fault Refusal := .next (s.allocDone ring.val op)

/-! ### Parts of a copy (R174) -/

/-- The engine stops at once: every later part that holds bytes of the copy is failed. -/
def CopyOp.halt (c : CopyOp) (at_ cause : Nat) : CopyOp :=
  let c := c.fail at_ cause
  let last := c.part (c.len - 1)
  { c with stopped := true, failed := (List.range (last + 1 - c.part at_)).foldl (fun l i => insertNat (c.part at_ + i) l) c.failed }

/-- The part bitmap: bit i set when part i succeeded. -/
def CopyOp.partMap (c : CopyOp) : W64 :=
  BitVec.ofNat 64 (c.failed.foldl (fun m i => m - 2 ^ i) (2 ^ 64 - 1))

/-- Put back the copy of an engine. -/
def State.putEngine (s : State) (tent engine : Nat) (c : CopyOp) : State :=
  s.modTent tent (fun t => { t with engines := Assoc.put t.engines engine c })

/-- The copy of an engine. -/
def State.engine? (s : State) (tent engine : Nat) : Option CopyOp := Assoc.find? (s.tent tent).engines engine

/-- Change the copy of an engine. -/
def State.modEngine (s : State) (tent engine : Nat) (f : CopyOp → CopyOp) : State :=
  match s.engine? tent engine with
  | some c => s.putEngine tent engine (f c)
  | none => s

/-! ### COPY_START (R169) -/

/-- An address of a copy (R102, R282). -/
def copyEnd (ring base size a : Nat) : CopyEnd :=
  if bitN a 63 then .scratch ring base size (a % 2 ^ 63)
  else if bitN a 62 then .remote (bits a 61 50) (bits a 49 40) (bits a 39 0)
  else .va a

/-- The copy that a DMA.Q becomes on an engine. -/
def State.dmaCopy (s : State) (ring : Nat) (d : DmaReq) : CopyOp :=
  let phase := ((s.cmd? d.cmd).map (fun c => cmdPhase c.words)).getD 0
  { ctx := d.ctx, cmd := d.cmd, dmaq := true, phase, src := copyEnd ring d.base d.size d.src.toNat
    dst := copyEnd ring d.base d.size d.dst.toNat, len := d.len, handle := d.handle, inc := d.inc, order := d.order
    ring := d.ring, pc := d.pc, org := d.org }

/-- The heads of the queues that feed a tent's engines: the copies waiting at the tent, and the DMA issue queues of its rings. Among them
the one queued first is taken (DESIGN CHOICE). -/
def State.nextCopy? (s : State) (tent : Nat) : Option (Nat × Option Nat) :=
  let rings := (List.range 24).map (24 * tent + ·)
  let heads : List (Nat × Option Nat) :=
    (match (s.tent tent).copyq with | c :: _ => [(c.order, none)] | [] => []) ++
    rings.filterMap (fun r => match (s.ring r).dmaq with | d :: _ => some (d.order, some r) | [] => none)
  heads.foldl (fun b x => match b with
    | none => some x
    | some y => if x.1 < y.1 then some x else some y) none

/-- A free engine takes the next copy. -/
def State.startCopy (s : State) (tent engine : Nat) : State :=
  if (s.engine? tent engine).isSome then s
  else
    match s.nextCopy? tent with
    | none => s
    | some (_, none) =>
      match (s.tent tent).copyq with
      | c :: rest => (s.modTent tent (fun t => { t with copyq := rest })).putEngine tent engine c
      | [] => s
    | some (_, some r) =>
      match (s.ring r).dmaq with
      | d :: rest =>
        let c := s.dmaCopy r d
        (s.modRing r (fun x => { x with dmaq := rest })).putEngine tent engine c
      | [] => s

/-- COPY_START (R169). -/
def execCopyStart (tent : TentId) (engine : EngineId) (s : State) : Host.Outcome State Fault Refusal :=
  .next (s.startCopy tent.val engine.val)

/-! ### Reading and writing (R170 to R172) -/

/-- What the engine gets of one source grain. -/
inductive CopyGot where
  | ok (bytes : List Byte)
  | integrity
  | fault (va : Nat)
  | held
deriving DecidableEq, Repr

/-- Bytes of the source grain that holds byte `at_` of the copy, from there on. -/
def CopyOp.grainLen (c : CopyOp) (at_ : Nat) : Nat :=
  let a := match c.src with
    | .va a => a + at_
    | .scratch _ base _ off => base + off + at_
    | .remote _ _ off => off + at_
  min (64 - a % 64) (c.len - at_)

/-- Set the DEAD_READ flag of a context (R194). -/
def State.deadRead (s : State) (ctx : Nat) : State := s.modCtx ctx (fun c => { c with deadRead := true })

/-- The reader that a copy is. -/
def CopyOp.asker (c : CopyOp) (tent : Nat) : Asker := .copy tent c.order

/-- Read `n` bytes of one grain of a local source at its home (R170, R172, R174, R194, R230). -/
def State.copyRead (s : State) (tent : Nat) (c : CopyOp) (at_ n : Nat) : State × CopyGot :=
  match c.src with
  | .remote _ _ _ => (s, .held)
  | .scratch ring base _ off => (s, .ok (Mem.readBytes (s.ring ring).scratch (base + off + at_) n))
  | .va a =>
    let va := a + at_
    match s.translate tent c.ctx va false with
    | (s, .held) => (s, .held)
    | (s, .fault) => (s, .fault va)
    | (s, .ok p) =>
      match s.homeRead (c.asker tent) p.key (p.gen s) p.grain with
      | (s, none) => (s, .held)
      | (s, some r) =>
        let s := s.takeAnswers (c.asker tent) [p.grain]
        match r with
        | .dead => (s.deadRead c.ctx, .ok (List.replicate n 0))
        | .bad _ => (s, .integrity)
        | .ok b => (s, .ok ((b.drop (va % 64)).take n))

/-- Free bytes. -/
def State.freeTake (s : State) (n : Nat) : State × List Byte :=
  let (s, b) := s.freeBytes (ceilDiv n 16)
  (s, b.take n)

/-- The destination bytes that lie in the source range too are undefined (R171): free values. -/
def State.overlapFree (s : State) (c : CopyOp) (at_ : Nat) (bs : List Byte) : State × List Byte :=
  let near : Option (Nat × Nat) := match c.src, c.dst with
    | .va a, .va b => some (a, b)
    | .scratch r base _ x, .scratch r2 base2 _ y => if r = r2 ∧ base = base2 then some (base + x, base2 + y) else none
    | _, _ => none
  match near with
  | none => (s, bs)
  | some (a, b) =>
    if a + c.len ≤ b ∨ b + c.len ≤ a then (s, bs)
    else
      let (s, fr) := s.freeTake bs.length
      (s, (List.range bs.length).map (fun i =>
        let d := b + at_ + i
        if a ≤ d ∧ d < a + c.len then fr.getD i 0 else bs.getD i 0))

/-- The number of a copy's packet at an offset of its remote side, which begins at `base`: packets end at 4 KiB boundaries (R282). -/
def packetNumber (base off : Nat) : Nat := off / 4096 - base / 4096

/-- The WRITE packet of one piece of a copy whose remote destination begins at offset `base` (R273, R282). -/
def writePacketOf (dev window base off : Nat) (bs : List Byte) : Packet :=
  { op := 1, vc := 0, flow := BitVec.ofNat 4 (packetNumber base off), dstId := Fin.ofNat 4096 dev, srcId := 0, dstDom := false, srcDom := false
    len := BitVec.ofNat 13 bs.length, sel := BitVec.ofNat 16 window, addr := BitVec.ofNat 64 off, payload := bs }

/-- The READ packet of one piece of a copy whose remote source begins at offset `base`. -/
def readPacketOf (dev window base off n : Nat) : Packet :=
  { op := 0, vc := 0, flow := BitVec.ofNat 4 (packetNumber base off), dstId := Fin.ofNat 4096 dev, srcId := 0, dstDom := false, srcDom := false
    len := BitVec.ofNat 13 n, sel := BitVec.ofNat 16 window, addr := BitVec.ofNat 64 off }

/-- Count bytes written by the copies of a context (R343). -/
def State.countCopy (s : State) (c : CopyOp) (n : Nat) : State :=
  s.modCtx c.ctx (fun x =>
    let p := Assoc.get {} x.phases c.phase
    { x with phases := Assoc.put x.phases c.phase { p with copyBytes := satAdd 64 p.copyBytes n } })

/-- Where the pieces of a local destination go: the physical grains, a fault with the byte of the copy, or a wait. -/
inductive CopyPut where
  | ok (l : List (Phys × List (Nat × Byte)))
  | fault (at_ va : Nat)
  | held
deriving DecidableEq, Repr

/-- Translate the destination of `bs` at byte `at_` of a copy to virtual address `va`. -/
def State.copyPlan (s : State) (tent ctx va at_ : Nat) (bs : List Byte) : State × CopyPut :=
  (splitGrains false (va + at_) bs).foldl (fun (acc : State × CopyPut) p =>
    match acc.2 with
    | .ok l =>
      match acc.1.translate tent ctx (64 * p.1) true with
      | (s, .ok ph) => (s, .ok (l ++ [(ph, p.2)]))
      | (s, .held) => (s, .held)
      | (s, .fault) =>
        let first := max (64 * p.1) (va + at_)
        (s, .fault (first - va) first)
    | _ => acc) (s, .ok [])

/-! ### Pieces (R171, R282)

A destination grain is written in one operation, and a remote destination in packets that end at 4 KiB boundaries of the offset: bytes that
have been read wait until all that the copy has for their grain or packet are there. A drain copies ells, so its pieces end with them
too. -/

/-- The first byte of the piece that holds byte `o` of a copy, and the byte after its last. -/
def CopyOp.piece (c : CopyOp) (o : Nat) : Nat × Nat :=
  let grid (a size : Nat) : Nat × Nat := let k := (a + o) / size * size; (k - a, k + size - a)
  let (first, last) := match c.dst with
    | .va a => grid a 64
    | .remote _ _ off => grid off 4096
    | .scratch _ _ _ _ => (0, c.len)
  if c.swing.isSome then (max first (o / 1024 * 1024), min last (o / 1024 * 1024 + 1024)) else (first, min last c.len)

/-- Has all of a piece come? -/
def CopyOp.whole (c : CopyOp) (f : Nat × List Byte) : Bool := c.piece f.1 == (f.1, f.1 + f.2.length)

/-- Bytes of one piece come: they join those that lie beside them. -/
def CopyOp.join (c : CopyOp) (f : Nat × List Byte) : CopyOp :=
  let (first, last) := c.piece f.1
  let mine := c.buf.filter (fun x => decide (first ≤ x.1) && decide (x.1 < last))
  let before := mine.find? (fun x => x.1 + x.2.length == f.1)
  let after := mine.find? (fun x => x.1 == f.1 + f.2.length)
  let bytes (x : Option (Nat × List Byte)) : List Byte := (x.map (·.2)).getD []
  let start := (before.map (·.1)).getD f.1
  { c with buf := c.buf.filter (fun x => some x != before && some x != after) ++ [(start, bytes before ++ f.2 ++ bytes after)] }

/-- Bytes at an offset of a copy, cut into pieces; `fuel` bounds their number. -/
def CopyOp.pieces (fuel : Nat) (c : CopyOp) (at_ : Nat) (bs : List Byte) : List (Nat × List Byte) :=
  match fuel with
  | 0 => []
  | k + 1 =>
    if bs.isEmpty then []
    else
      let n := (c.piece at_).2 - at_
      (at_, bs.take n) :: CopyOp.pieces k c (at_ + n) (bs.drop n)

/-- The destination bytes of a copy from byte `at_` to its end are indeterminate (R174): free values, where the destination is local and its
pages can be written. -/
def State.smear (s : State) (tent : Nat) (c : CopyOp) (at_ : Nat) : State :=
  match c.dst with
  | .remote _ _ _ => s
  | .scratch ring base _ off =>
    let (s, fr) := s.freeTake (c.len - at_)
    s.modRing ring (fun r => { r with scratch := Mem.writeBytes r.scratch (base + off + at_) fr })
  | .va va =>
    let (s, fr) := s.freeTake (c.len - at_)
    (splitGrains false (va + at_) fr).foldl (fun (s : State) p =>
      match s.translate tent c.ctx (64 * p.1) true with
      | (s, .ok ph) => if ph.host then s.hostWrite ph.grain p.2 .none else s.homeWrite ph.key (ph.gen s) ph.grain p.2 .none
      | (s, _) => s) s

/-- A page fault at byte `at_` of a copy: the engine stops at once and the context is lost; the fault of a DMA.Q names its instruction (R105,
R174). What was read of later bytes is dropped, what was read of earlier ones is still written. -/
def State.copyFault (s : State) (tent engine at_ va : Nat) : State :=
  match s.engine? tent engine with
  | none => s
  | some c =>
    let s := (s.putEngine tent engine ({ c with buf := c.buf.filter (fun f => decide (f.1 < at_)) }.halt at_ 12)).smear tent c at_
    if c.stopped then s
    else if c.dmaq then s.originFault c.ring c.ctx c.org 3 0 c.pc va 0
    else
      let accept := ((s.cmd? c.cmd).map (·.accept)).getD 0
      s.loseCtx c.ctx (some { code := 3, ctx := c.ctx, pcB := va, queue := c.cmd.queue.val, accept }) none false

/-- One write of a copy is sent to the home of a destination grain, `late` after later ones (R173, R344); to host memory without a change of
the frame that holds the grain (R185). -/
def State.copyWrite (s : State) (tent engine : Nat) (late : Bool) (c : CopyOp) (ph : Phys) (f : Nat × List Byte) : State :=
  let who : WrWho := .copy tent engine c.order f.1 f.2.length
  let bs := (List.range f.2.length).map (fun i => ph.addr % 64 + i) |>.zip f.2
  if ph.host then s.hostWrite ph.grain bs who
  else
    let gen := ph.gen s
    if late then s.modHub (fun h => { h with hostWrites := h.hostWrites ++ [⟨ph.grain, bs, who, some (ph.key, gen)⟩] })
    else s.homeWrite ph.key gen ph.grain bs who

/-- Put one piece of a copy at its destination; while its translation is held, it waits. -/
def State.copyPut (s : State) (tent engine : Nat) (late : Bool) (c : CopyOp) (f : Nat × List Byte) : State :=
  let sent (s : State) : State :=
    (s.modEngine tent engine (fun c => { c with buf := c.buf.filter (· != f), outstanding := c.outstanding + 1 })).countCopy c f.2.length
  match c.dst with
  | .scratch ring base _ off =>
    ((s.modEngine tent engine (fun c => { c with buf := c.buf.filter (· != f) })).modRing ring
      (fun r => { r with scratch := Mem.writeBytes r.scratch (base + off + f.1) f.2 })).countCopy c f.2.length
  | .va va =>
    match s.translate tent c.ctx (va + f.1) true with
    | (s, .held) => s
    | (s, .fault) => s.copyFault tent engine f.1 (va + f.1)
    | (s, .ok ph) => (sent s).copyWrite tent engine late c ph f
  | .remote dev w off => (sent s).request (writePacketOf dev w off (off + f.1) f.2) (.copyWrite tent engine f.1 f.2.length)

/-- Put what has come whole at its destination; of a copy that has stopped, all that is left. A scratchpad takes its bytes as they come. -/
def State.copyEmit (s : State) (tent engine : Nat) (late : Bool) : State :=
  let ready (c : CopyOp) (f : Nat × List Byte) : Bool :=
    c.buf.contains f && (c.stopped || c.whole f || (match c.dst with | .scratch _ _ _ _ => true | _ => false))
  ((s.engine? tent engine).map (·.buf)).getD [] |>.foldl (fun (s : State) f =>
    match s.engine? tent engine with
    | some c => if ready c f then s.copyPut tent engine late c f else s
    | none => s) s

/-- Bytes come for a copy: they are cut into pieces, and what is whole goes on. -/
def State.copyTake (s : State) (tent engine : Nat) (late : Bool) (at_ : Nat) (bs : List Byte) : State :=
  match s.engine? tent engine with
  | none => s
  | some c =>
    let (s, bs) := s.overlapFree c at_ bs
    (s.putEngine tent engine ((c.pieces bs.length at_ bs).foldl CopyOp.join c)).copyEmit tent engine late

/-! ### One step of a copy -/

/-- The scratchpads that a step of a copy reads and writes: ring and direction (R128). -/
def CopyOp.ports (c : CopyOp) (reads : Bool) : List (Nat × Bool) :=
  (match c.src with | .scratch r _ _ _ => if reads then [(r, false)] else [] | _ => []) ++
  (match c.dst with | .scratch r _ _ _ => [(r, true)] | _ => [])

/-- `n` bytes of a copy pass the scratchpad ports that they need; `false`: a port has not granted them yet (R128). -/
def State.copyPorts (s : State) (tent engine : Nat) (c : CopyOp) (reads : Bool) (n : Nat) : State × Bool :=
  let u : PortUser := .dma tent engine
  let ps := c.ports reads
  if ps.all (fun p => (s.ring p.1).portHas u p.2) then (ps.foldl (fun (s : State) p => s.modRing p.1 (fun r => r.portUse u p.2)) s, true)
  else (ps.foldl (fun (s : State) p => s.modRing p.1 (fun r => r.portAsk u p.2 n)) s, false)

/-- Bytes that the next step of a copy from a local source takes: those of one source grain; of a part that has failed, no more than that part
has. -/
def CopyOp.stepLen (c : CopyOp) : Nat :=
  let n := c.grainLen c.done
  if c.failed.contains (c.part c.done) then min n ((c.part c.done + 1) * partSize c.len - c.done) else n

/-- The next step of a copy from a local source: one source grain is read (R170). The rest of a part that has failed is not read; its
destination bytes are indeterminate (R174): free values. -/
def State.copyLocal (s : State) (tent engine : Nat) (late : Bool) (c : CopyOp) : State :=
  let at_ := c.done
  let n := c.stepLen
  let bad : Bool := c.failed.contains (c.part at_)
  let took (s : State) (bs : List Byte) : State :=
    (s.modEngine tent engine (fun c => { c with done := at_ + n })).copyTake tent engine late at_ bs
  let ports (s : State) (reads : Bool) (go : State → State) : State :=
    match s.copyPorts tent engine c reads n with
    | (s, true) => go s
    | (s, false) => s
  if bad then
    ports s false (fun s => let (s, b) := s.freeTake n; took s b)
  else
    ports s true (fun s =>
      match s.copyRead tent c at_ n with
      | (s, .held) => s
      | (s, .fault va) => (s.copyFault tent engine at_ va).copyEmit tent engine late
      | (s, .ok b) => took s b
      | (s, .integrity) =>
        let (s, b) := s.freeTake n
        took (s.modEngine tent engine (fun c => c.failRange at_ n 5)) b)

/-- The next step of a copy from a remote source: one READ is sent (R282). -/
def State.copyAsk (s : State) (tent engine : Nat) (c : CopyOp) (dev w off : Nat) : State :=
  let at_ := c.done
  let n := min (4096 - (off + at_) % 4096) (c.len - at_)
  let s := s.putEngine tent engine { c with done := at_ + n, outstanding := c.outstanding + 1 }
  s.request (readPacketOf dev w off (off + at_) n) (.copyRead tent engine at_ n)

/-! ### Drains of swing pairs (R365, R366) -/

/-- The ell that a tent's drain engines read next: one that an access waits for, else the lowest address. -/
def Hub.nextDrain? (h : Hub) (tent ctx pair : Nat) : Option (Nat × DrainBit) :=
  let mine (x : Nat × DrainBit) : Bool := homeTent x.1 == tent && x.2.ctx == ctx && x.2.pair == pair
  let front := h.drainFront.filterMap (fun e => (Assoc.find? h.drainMap e).map (fun d => (e, d)))
  match front.find? mine with
  | some x => some x
  | none => h.drainMap.find? mine

/-- Clear the drain bit of an ell. -/
def Hub.clearDrain (h : Hub) (e : Nat) : Hub :=
  { h with drainMap := Assoc.del h.drainMap e, drainFront := h.drainFront.filter (fun x => x != e) }

/-- Every remaining drain bit of a pair is cleared (R366). -/
def Hub.clearDrains (h : Hub) (ctx pair : Nat) : Hub :=
  let map := h.drainMap.filter (fun x => !(x.2.ctx == ctx && x.2.pair == pair))
  { h with drainMap := map, drainFront := h.drainFront.filter (fun e => (Assoc.find? map e).isSome) }

/-- The reader that a drain engine is for one ell. -/
def CopyOp.drainer (c : CopyOp) (tent ell : Nat) : Asker := .drain tent c.order ell

/-- Read the 16 grains of an ell for a drain, once all have come. -/
def State.drainFetch (s : State) (who : Asker) (key ell : Nat) : State × Option (List GrainRead) :=
  let gs := (List.range 16).map (fun i => 16 * ell + i)
  let (s, rs) := gs.foldl (fun (acc : State × List (Option GrainRead)) g =>
    let (s, r) := acc.1.passRead who key (acc.1.keyGen key) g
    (s, acc.2 ++ [r])) (s, [])
  if rs.all Option.isSome then (s.takeAnswers who gs, some (rs.filterMap id)) else (s, none)

/-- Data of a drained grain: zeros for one that is dead and not held (R194), free values for one that fails. -/
def State.drainGrain (s : State) (ctx : Nat) (r : GrainRead) : State × List Byte :=
  match r with
  | .ok b => (s, b)
  | .dead => (s.deadRead ctx, zeroGrain)
  | .bad _ => s.freeTake 64

/-- A drained ell, or one of a part that has failed, goes to the same offset from the target; its drain bit is cleared as it is read (R174,
R365, R366). -/
def State.drainTake (s : State) (tent engine : Nat) (late : Bool) (ell : Nat) (d : DrainBit) (rs : List GrainRead) : State :=
  let s := s.modHub (fun h => h.clearDrain ell)
  let (s, bs) := rs.foldl (fun (acc : State × List Byte) r => let (s, b) := acc.1.drainGrain d.ctx r; (s, acc.2 ++ b)) (s, [])
  let bad := (List.range rs.length).filter (fun i => match rs.getD i .dead with | .bad _ => true | _ => false)
  let s := s.modEngine tent engine (fun c => bad.foldl (fun c i => c.failRange (d.off + 64 * i) 64 5) c)
  (s.copyTake tent engine late d.off bs).retryHeld

/-- A drain engine takes the next ell (R365, R366). Of a part that has failed nothing is read any more: its bytes are free values (R174). -/
def State.drainStep (s : State) (tent engine : Nat) (late : Bool) (c : CopyOp) (pair : Nat) : State :=
  match s.hub.nextDrain? tent c.ctx pair with
  | none => s
  | some (ell, d) =>
    if c.failed.contains (c.part d.off) then
      let (s, fr) := s.freeTake 1024
      s.drainTake tent engine late ell d ((List.range 16).map (fun i => .ok ((fr.drop (64 * i)).take 64)))
    else
      match s.drainFetch (c.drainer tent ell) d.key ell with
      | (s, none) => s
      | (s, some rs) => s.drainTake tent engine late ell d rs

/-! ### COPY_GRAIN and COPY_COMPLETE (R170, R173) -/

/-- Does a piece that has come whole wait for its translation? -/
def CopyOp.waits (c : CopyOp) : Bool := c.buf.any c.whole

/-- The next step of the copy on an engine: what waits to be written goes first. -/
def State.copyStep (s : State) (tent engine : Nat) (late : Bool) : State :=
  let s := s.copyEmit tent engine late
  match s.engine? tent engine with
  | none => s
  | some c =>
    if c.stopped || c.waits then s
    else match c.swing with
      | some pair => s.drainStep tent engine late c pair
      | none =>
        if c.len ≤ c.done then s
        else match c.src with
          | .remote dev w off => s.copyAsk tent engine c dev w off
          | _ => s.copyLocal tent engine late c

/-- COPY_GRAIN (R170). -/
def execCopyGrain (tent : TentId) (engine : EngineId) (late : Bool) (s : State) : Host.Outcome State Fault Refusal :=
  .next (s.copyStep tent.val engine.val late)

/-- Has the engine nothing left to read, to send or to wait for? -/
def State.copyEnded (s : State) (tent : Nat) (c : CopyOp) : Bool :=
  let read : Bool := match c.swing with
    | some pair => c.stopped || (s.hub.nextDrain? tent c.ctx pair).isNone
    | none => c.stopped || decide (c.len ≤ c.done)
  read && c.buf.isEmpty && decide (c.outstanding = 0)

/-- The outcome of a copy in its command (R174, R328). -/
def Cmd.copyResult (m : Cmd) (c : CopyOp) : Cmd :=
  if c.failed.isEmpty then m
  else
    let at_ := c.firstFail.getD 0
    let first : Bool := decide (at_ < m.firstFail.toNat)
    { m with partMap := (if m.cause = 0 then 0xFFFFFFFFFFFFFFFF else m.partMap) &&& c.partMap
             firstFail := if first then BitVec.ofNat 64 at_ else m.firstFail
             cause := if first then c.cause else m.cause }

/-- An engine whose copy has ended is free; the copy's turnstile is incremented, with the error bit when a part failed (R173, R174). -/
def State.copyDone (s : State) (tent engine : Nat) : State :=
  match s.engine? tent engine with
  | none => s
  | some c =>
    if !s.copyEnded tent c then s
    else
      let s := (s.modTent tent (fun t => { t with engines := Assoc.del t.engines engine })).forgetAnswers (· == c.asker tent)
      let bad := !c.failed.isEmpty
      if c.dmaq then s.signalHandle c.ctx c.phase c.handle false c.inc bad none
      else
        let s := s.modCmd c.cmd (fun m => m.copyResult c)
        if c.swing.isSome then s else s.finishCmd c.cmd (if bad then 8 else 0) bad

/-- COPY_COMPLETE (R173): while writes of the copy are still on their way, those that nothing holds arrive. -/
def execCopyComplete (tent : TentId) (engine : EngineId) (s : State) : Host.Outcome State Fault Refusal :=
  let s := s.copyEmit tent.val engine.val false
  .next (match s.engine? tent.val engine.val with
    | some c => if c.outstanding = 0 then s.copyDone tent.val engine.val else s.retryHeld
    | none => s)

end Sys2Proof.Machine
end

