-- ==== Sys2Proof/Machine/Matrix.lean ====
section
/-!
DEFINITION. MX.CFG, MX.LDW, MX.RUN, MX.DRN and NF.CHK at issue (R84, R95 to R99, R104, R114, R115, R122, R126, R129, R135, R158).
-/

namespace Sys2Proof.Machine

/-! ### MX.CFG -/

/-- The combinations of R97. -/
def cfgOk (c : MxCfg) : Bool :=
  let both (l : List Nat) : Bool := l.contains c.afmt && l.contains c.wfmt
  (both [3, 4] && c.passes == 0 && c.scale == 0) || (both [2] && c.passes == 0 && c.scale == 0) || (both [5, 6] && c.passes == 0) ||
  (both [10] && c.passes == 0 && c.scale == 0) || (both [7, 8, 9] && c.passes == 0 && c.scale != 0) ||
  (both [11] && c.passes == 0 && c.scale == 0) || (both [1] && c.passes != 0 && c.scale == 0)

/-- The configuration that an MX.CFG names. -/
def cfgOf (f : MxCfgForm) : MxCfg := { afmt := f.afmt.toNat, wfmt := f.wfmt.toNat, passes := f.passes.toNat, scale := f.scale.toNat }

/-- MX.CFG (R96, R97). -/
def opMxCfg (f : MxCfgForm) : AlOp :=
  { guard := 0, words := 2, matrix := true, latency := false
    need := fun _ => (needNoGuard f.guard).and ((reasonIf (decide (f.reserved ≠ 0) || decide (f.word1 ≠ 0)) 2).and
      ((reasonIf (decide (3 < f.scale.toNat)) 1).and (reasonIf (f.scale.toNat ≤ 3 && !cfgOk (cfgOf f)) 7)))
    act := fun s who t _ _ _ => s.setTroupe who { t with cfg := cfgOf f } }

/-! ### Addresses and slots -/

/-- The uniform base of a matrix instruction (R95). -/
def mxBase (t : Troupe) (en : Bool) (u : BitVec 6) : Nat := if en then (t.getU u.toNat).toNat else 0

/-- The uniform that a matrix instruction reads. -/
def needBase (en : Bool) (u : BitVec 6) : Need := if en then { reads := [256 + u.toNat] } else {}

/-- Every range lies within u5 (R104, R135). -/
def withinU5 (s : State) (who : TroupeRef) (t : Troupe) (l : List (Nat × Nat)) : Bool :=
  l.all (fun p => decide (p.1 + p.2 ≤ (s.ring who.ring.val).sizeOf t))

/-- Format tag of each slot, `none` for one that holds no tile, after a tile of a format is written (R114). -/
def tagPut (m : FMap Nat) (slot fmt : Nat) : FMap Nat :=
  let other := if slot % 2 = 0 then slot + 1 else slot - 1
  let pairThere : Bool := [slot, other].any (fun s => match Assoc.find? m s with | some f => pairTile f | none => false)
  if pairTile fmt then Assoc.put (Assoc.del m (slot + 1)) slot fmt
  else Assoc.put (if pairThere then Assoc.del m other else m) slot fmt

/-- Format tag that an MX.RUN arriving now will find in each slot, the queued MX.LDW included (R106, R115). -/
def Ring.tags (r : Ring) : FMap Nat :=
  let now := r.wslots.filterMap (fun p => match p.2 with | .tile t => some (p.1, t.fmt) | .upper => none)
  r.ldq.foldl (fun m l => tagPut m l.slot l.cfg.wfmt) now

/-! ### MX.LDW -/

/-- The queued load of an MX.LDW; addresses are ring addresses. -/
def ldwOf (s : State) (who : TroupeRef) (t : Troupe) (f : MxLdwForm) : Ldw :=
  let r := s.ring who.ring.val
  let base := r.baseOf t + mxBase t f.baseEn f.baseU
  { seq := r.nextSeq, who, uid := t.uid, ctx := t.ctx, slot := f.slot.toNat, cfg := t.cfg, transposed := f.transpose
    addr := base + f.addrOff.toNat, scaleAddr := base + f.scaleOff.toNat, pitch := f.pitch.toNat }

/-- Ranges of a matrix operand as offsets in the allocation. -/
def offsets (base : Nat) (l : List (Nat × Nat)) : List (Nat × Nat) := l.map (fun p => (p.1 - base, p.2))

/-- MX.LDW (R98, R114, R115). -/
def opMxLdw (f : MxLdwForm) : AlOp :=
  { guard := 0, words := 2, matrix := true, latency := false
    need := fun t => ((needNoGuard f.guard).and (needBase f.baseEn f.baseU)).and
      ((reasonIf (decide (f.reserved0 ≠ 0) || decide (f.reserved1 ≠ 0)) 2).and
        (reasonIf (pairTile t.cfg.wfmt && decide (f.slot.toNat % 2 = 1)) 8))
    hold := fun s who _ _ => decide (4 ≤ (s.ring who.ring.val).ldq.length)
    test := fun s who t _ _ =>
      let l := ldwOf s who t f
      (s, if withinU5 s who t (offsets ((s.ring who.ring.val).baseOf t) l.ranges) then .go else .refused [11])
    act := fun s who t _ _ _ =>
      let l := ldwOf s who t f
      (s.setTroupe who t).modRing who.ring.val (fun r => { r with ldq := r.ldq ++ [l], nextSeq := r.nextSeq + 1 }) }

/-! ### MX.RUN -/

/-- The queued MX.RUN. -/
def runOf (s : State) (who : TroupeRef) (t : Troupe) (f : MxRunForm) : MxRunOp :=
  let r := s.ring who.ring.val
  let base := r.baseOf t + mxBase t f.baseEn f.baseU
  { seq := r.nextSeq, who, uid := t.uid, ctx := t.ctx, phase := t.phase, cfg := t.cfg, slot := f.slot.toNat, acc := f.acc.toNat
    rows := rowsOf f.rows, start := f.start, addr := base + f.addrOff.toNat, scaleAddr := base + f.scaleOff.toNat, pitch := f.pitch.toNat }

/-! ### Requests for latches (R115, R116) -/

/-- Slots that a tile of a format takes. -/
def slotsOf (slot fmt : Nat) : List Nat := if pairTile fmt then [slot, slot + 1] else [slot]

/-- MX.RUN operations of a booth's queue. -/
def Booth.runs (y : Booth) : List MxRunOp := y.mq.filterMap (fun o => match o with | .run o => some o | .drn _ => none)
/-- MX.DRN operations of a booth's queue. -/
def Booth.drns (y : Booth) : List MxDrnOp := y.mq.filterMap (fun o => match o with | .drn o => some o | .run _ => none)

/-- The MX.RUN of a booth that ask for a latch: the next two in the feeder, not latched, their slot written by every MX.LDW that arrived
before (R115, R116). -/
def Ring.latchWants (r : Ring) (y : Booth) : List MxRunOp :=
  ((y.runs.filter (fun o => decide (o.rowsIn < o.rows))).take 2).filter (fun o =>
    o.bank.isNone && (Assoc.find? r.wslots o.slot).isSome &&
    !(r.ldq.any (fun l => decide (l.seq < o.seq) && (slotsOf l.slot l.cfg.wfmt).any (fun x => (slotsOf o.slot o.cfg.wfmt).contains x))))

/-- Latch requests that have been made since are put behind the others; requests of one a-cycle in ascending booth number (R115, R116). -/
def State.noteLatches (s : State) (ring : Nat) : State :=
  s.modRing ring (fun r =>
    let wants := (r.booths.flatMap (fun b => r.latchWants b.2)).map (·.seq)
    { r with latchq := r.latchq.filter wants.contains ++ wants.filter (fun q => !r.latchq.contains q) })

/-- Append to the booth's matrix instruction queue; an MX.RUN that may ask for its latch asks now (R116). -/
def State.queueMx (s : State) (who : TroupeRef) (o : MxOp) : State :=
  let s := s.modBooth who.ring.val who.booth.val (fun y => { y with mq := y.mq ++ [o] })
  (s.modRing who.ring.val (fun r => { r with nextSeq := r.nextSeq + 1 })).noteLatches who.ring.val

/-- The booth's matrix instruction queue holds 8 entries (R122). -/
def mqFull (s : State) (who : TroupeRef) : Bool := decide (8 ≤ ((s.ring who.ring.val).booth who.booth.val).mq.length)

/-- MX.RUN (R98, R99, R114, R122, R135). -/
def opMxRun (f : MxRunForm) : AlOp :=
  { guard := 0, words := 2, matrix := true, latency := false
    need := fun t => ((needNoGuard f.guard).and (needBase f.baseEn f.baseU)).and
      ((reasonIf (decide (f.reserved0 ≠ 0) || decide (f.reserved1 ≠ 0)) 2).and
        (reasonIf (decide (t.accUnits < f.acc.toNat + ceilDiv (rowsOf f.rows) 8)
          || (pairTile t.cfg.wfmt && decide (f.slot.toNat % 2 = 1))) 8))
    hold := fun s who _ _ => mqFull s who
    test := fun s who t _ _ =>
      let r := s.ring who.ring.val
      let o := runOf s who t f
      let tagBad : Bool := Assoc.find? r.tags f.slot.toNat ≠ some t.cfg.wfmt
      let inside := withinU5 s who t (offsets (r.baseOf t) ((List.range o.rows).flatMap o.rowRanges))
      let l := (if tagBad then [8] else []) ++ (if inside then [] else [11])
      (s, if l.isEmpty then .go else .refused l)
    act := fun s who t _ _ _ => (s.setTroupe who t).queueMx who (.run (runOf s who t f)) }

/-! ### MX.DRN -/

/-- The queued MX.DRN. -/
def drnOf (s : State) (who : TroupeRef) (t : Troupe) (f : MxDrnForm) (pc : Nat) : MxDrnOp :=
  let r := s.ring who.ring.val
  let base := r.baseOf t + mxBase t f.baseEn f.baseU
  { seq := r.nextSeq, who, uid := t.uid, ctx := t.ctx, cfg := t.cfg, dfmt := f.dfmt.toNat, rnd := f.rnd.toNat, acc := f.acc.toNat
    rows := rowsOf f.rows, toRegs := f.toRegs, rowsum := f.rowsum, dreg := f.dreg.toNat, scaleExp := f.scaleExp.toInt
    addr := base + f.addrOff.toNat, rowsumAddr := base + f.rowsumOff.toNat, pitch := f.pitch.toNat, pc, count := t.drnCount
    seed := t.seed, kernelId := t.kernelId, groupIndex := t.groupIndex, index := t.index, org := s.originOf t, pend := t.nextId }

/-- Registers that an MX.DRN with DEST 1 writes (R99). -/
def drnRegs (f : MxDrnForm) : List Nat := if f.toRegs then (List.range (rowsOf f.rows)).map (f.dreg.toNat + ·) else []

/-- MX.DRN (R98, R99, R126, R158). -/
def opMxDrn (f : MxDrnForm) : AlOp :=
  { guard := 0, words := 2, matrix := true, latency := false
    need := fun t =>
      let regsBad : Bool := f.toRegs && (!([1, 12].contains f.dfmt.toNat) || decide (8 < rowsOf f.rows))
      ((((needNoGuard f.guard).and (needBase f.baseEn f.baseU)).and { writes := drnRegs f }).and
        ((reasonIf (decide (f.rnd = 3)) 1).and
          (reasonIf (decide (f.reserved0 ≠ 0) || decide (f.reserved1 ≠ 0) || (!f.toRegs && decide (f.dreg ≠ 0xFF))) 2))).and
        (((reasonIf (f.toRegs && decide (t.regs ≤ f.dreg.toNat + rowsOf f.rows - 1)) 3).and
          (reasonIf (!([1, 2, 3, 4, 5, 6, 12, 15].contains f.dfmt.toNat)) 7)).and
          (reasonIf (decide (t.accUnits < f.acc.toNat + ceilDiv (rowsOf f.rows) 8) || regsBad) 8))
    hold := fun s who _ _ => mqFull s who
    test := fun s who t _ _ =>
      let o := drnOf s who t f 0
      let base := (s.ring who.ring.val).baseOf t
      (s, if withinU5 s who t (offsets base ((List.range o.rows).flatMap o.rowRanges)) then .go else .refused [11])
    act := fun s who t u _ _ =>
      let o := drnOf s who t f u.pc
      let t := if f.toRegs then t.addPending (drnRegs f) (List.range t.width) true else t
      let t := if f.rnd = 2 then { t with drnCount := t.drnCount + 1 } else t
      (s.setTroupe who t).queueMx who (.drn o) }

/-! ### NF.CHK -/

/-- NF.CHK: the context's sticky flag, or an accumulator unit's, into a predicate (R84, R86, R99, R129). -/
def opNfChk (f : RForm) : AlOp :=
  { guard := f.guard
    need := fun t =>
      (((needGuard f.guard).and (needPDst f.dst)).and ((needUnused f.srcB).and (needUnused f.srcC))).and
      ((if f.sub = 1 then reasonIf (decide (16 ≤ f.srcA.toNat)) 2 else needUnused f.srcA).and
        ((reasonIf (f.sub == 1 && decide (t.accUnits ≤ f.srcA.toNat % 16)) 8).and
          (reasonIf (decide (f.usel ≠ 0) || f.udst || decide (f.type ≠ 0) || !negFree f || !condFree f || decide (1 < f.sub.toNat)) 1)))
    hold := fun s who t _ => f.sub == 1 && (s.ring who.ring.val).unitBusy t.uid (f.srcA.toNat % 16)
    act := fun s who t _ ps _ =>
      let flag : Bool := if f.sub = 0 then ((s.ctx? t.ctx).map (·.nf)).getD false else (Assoc.find? t.nf (f.srcA.toNat % 16)).isSome
      s.setTroupe who (t.setPred ps (f.dst.toNat % 8) flag) }

/-- MX.CFG (R96). -/
def execMxCfg (who : TroupeRef) (f : MxCfgForm) (s : State) : Host.Outcome State Fault Refusal := .next (s.runOp who (opMxCfg f))
/-- MX.LDW (R115). -/
def execMxLdw (who : TroupeRef) (f : MxLdwForm) (s : State) : Host.Outcome State Fault Refusal := .next (s.runOp who (opMxLdw f))
/-- MX.RUN (R122). -/
def execMxRun (who : TroupeRef) (f : MxRunForm) (s : State) : Host.Outcome State Fault Refusal := .next (s.runOp who (opMxRun f))
/-- MX.DRN (R126). -/
def execMxDrn (who : TroupeRef) (f : MxDrnForm) (s : State) : Host.Outcome State Fault Refusal := .next (s.runOp who (opMxDrn f))
/-- NF.CHK (R84). -/
def execNfChk (who : TroupeRef) (f : RForm) (s : State) : Host.Outcome State Fault Refusal := .next (s.runOp who (opNfChk f))

end Sys2Proof.Machine
end

