-- ==== Sys2Proof/Machine/Weigh.lean ====
section
/-!
DEFINITION. STAT.W and the weighmasters' entries (R246 to R248, R260), and the decision for a tag with its record (R249 to R252).
-/

namespace Sys2Proof.Machine

/-! ### STAT.W (R246, R247) -/

/-- Formats that STAT.W accepts: FP32, S24, BF16, FP16, E4M3, E5M2 (R247). -/
def statFmts : List Nat := [1, 2, 3, 4, 5, 6]

/-- STAT.W (R247). -/
def opStatW (f : StatForm) : AlOp :=
  let n := 2 ^ f.count.toNat
  let fmt := f.fmt.toNat
  let g := cvtRegs fmt n
  { guard := f.guard, latency := false
    need := fun t =>
      (((needGuard f.guard).and (needUnused f.dst)).and (needSrc t.regs false (f.reuse.getLsbD 2) f.srcA g)).and
      (((needSrc t.regs true false f.srcB 1).and (needUnused f.srcC)).and
        ((reasonIf (f.reuse.getLsbD 1 || f.reuse.getLsbD 0 || decide (f.reserved ≠ 0)) 2).and
          (reasonIf (decide (f.usel ≠ 2) || f.udst || !statFmts.contains fmt || decide (4 < g)) 1)))
    hold := fun s who _ _ => decide (64 ≤ (s.tent (tentOfRing who.ring.val)).statq.length)
    act := fun s who t _ ps _ =>
      let s := s.setTroupe who t
      if ps.isEmpty then s
      else
        let vals := ps.flatMap (fun th =>
          let w := t.srcWords false th f.srcA g
          (List.range n).map (cvtElem fmt w))
        let q : StatReq :=
          { who, ctx := t.ctx, accept := ((s.cmd? t.cmd).map (·.accept)).getD 0, tag := (t.getU (f.srcB.toNat % 64)).toNat % 4096, fmt, vals }
        s.modTent (tentOfRing who.ring.val) (fun x => { x with statq := x.statq ++ [q] }) }

/-- STAT.W (R247). -/
def execStatW (who : TroupeRef) (f : StatForm) (s : State) : Host.Outcome State Fault Refusal := .next (s.runOp who (opStatW f))

/-! ### Entries (R248) -/

/-- floor(log2 |x|) of a finite number that is not zero. -/
def FVal.top : FVal → Int
  | .fin _ m e => FVal.ilog m e
  | _ => 0

/-- The larger of two FP32 encodings of non-negative finite numbers. -/
def maxEnc (a b : W32) : W32 := if a.toNat < b.toNat then b else a

/-- The bin of a value: 0 to 31. -/
def binOf (eref e : Int) : Nat := (min (max (eref - e) 0) 31).toNat

/-- Add one value to an entry. -/
def TagEnt.add (t : TagEnt) (eref : Int) (x : FVal) : TagEnt :=
  let t := { t with samples := satAdd 64 t.samples 1 }
  if !x.isFinite then { t with nonfinite := satAdd 32 t.nonfinite 1 }
  else if x.isZero then { t with zero := satAdd 32 t.zero 1 }
  else
    let b := binOf eref (FVal.top x)
    { t with absmax := maxEnc t.absmax (BitVec.ofNat 32 (roundFmt 1 (FVal.abs x)))
             hist := Assoc.put t.hist b (satAdd 32 (Assoc.get 0 t.hist b) 1) }

/-- The weighmaster of a tent adds the values of one STAT.W; a tag above the context's count is dropped and counted. -/
def Ctx.weigh (c : Ctx) (tent : Nat) (q : StatReq) : Ctx :=
  if c.tagCount ≤ q.tag then { c with outOfRange := BitVec.ofNat 64 (satAdd 64 c.outOfRange.toNat q.vals.length) }
  else
    let k := q.tag * 8 + tent
    let e := q.vals.foldl (fun e v => e.add (Assoc.get 0 c.eref q.tag) (decodeFmt q.fmt v)) (Assoc.get {} c.tags k)
    { c with tags := Assoc.put c.tags k e }

/-- The tent weighmaster takes its oldest STAT.W. Values of a dispatch accepted after a boundary that is still in progress count for the
new step (R260). -/
def State.weigh (s : State) (tent : Nat) : State :=
  match (s.tent tent).statq with
  | [] => s
  | q :: rest =>
    let s := s.modTent tent (fun t => { t with statq := rest })
    if (s.boundaries q.ctx).any (fun b => decide (b < q.accept)) then
      s.modCtx q.ctx (fun c => { c with later := c.later ++ [(tent, q)] })
    else s.modCtx q.ctx (fun c => c.weigh tent q)

/-- WEIGHMASTER_ACCEPT (R248). -/
def execWeighmasterAccept (tent : TentId) (s : State) : Host.Outcome State Fault Refusal := .next (s.weigh tent.val)

/-- Two entries together: counts are added, ABSMAX takes the maximum. -/
def TagEnt.merge (a b : TagEnt) : TagEnt :=
  { samples := satAdd 64 a.samples b.samples, nonfinite := satAdd 32 a.nonfinite b.nonfinite, zero := satAdd 32 a.zero b.zero
    absmax := maxEnc a.absmax b.absmax
    hist := b.hist.foldl (fun m h => Assoc.put m h.1 (satAdd 32 (Assoc.get 0 m h.1) h.2)) a.hist }

/-- The merged entry of a tag over the 8 tents. -/
def Ctx.merged (c : Ctx) (tag : Nat) : TagEnt :=
  (List.range 8).foldl (fun e t => e.merge (Assoc.get {} c.tags (tag * 8 + t))) {}

/-! ### The decision for a tag (R249, R250) -/

/-- A configuration entry. -/
structure TagCfg where
  ufMax : Nat
  minFmt : Nat
  eRef0 : Nat
deriving DecidableEq, Repr

/-- The fields of a configuration entry (R249). -/
def tagCfg (w : Nat) : TagCfg := ⟨bits w 31 16, bits w 15 12, bits w 7 0⟩

/-- What decide gives (R250): format, k, outcome, the new e_ref, and the underflow count of the record. -/
structure Decision where
  fmt : Nat
  k : Int
  outcome : Nat
  eref : Int
  under : Nat := 0
deriving DecidableEq, Repr

/-- Formats tried, from MIN_FMT on. -/
def fmtsFrom (minFmt : Nat) : List Nat :=
  match minFmt with
  | 6 => [6, 3, 2]
  | 3 => [3, 2]
  | 2 => [2]
  | _ => [5, 6, 3, 2]

/-- u of an 8-bit format under a scale (R250). -/
def TagEnt.underflow (t : TagEnt) (eref k emin : Int) : Nat :=
  (List.range 31).foldl (fun (u b : Nat) => if eref - (b : Int) + k < emin then u + Assoc.get 0 t.hist b else u) (Assoc.get 0 t.hist 31)

/-- The first format that fits. -/
def TagEnt.choose (t : TagEnt) (cfg : TagCfg) (prevFmt : Nat) (prevK eref etop : Int) (nz : Nat) (l : List Nat) : Decision :=
  match l with
  | [] => ⟨prevFmt, prevK, 0, etop, 0⟩
  | f :: rest =>
    if f = 3 ∨ f = 2 then ⟨f, 0, 0, etop, 0⟩
    else
      let emax : Int := if f = 5 then 8 else 15
      let emin : Int := if f = 5 then -9 else -16
      let k := min (max (emax - 1 - etop) (-127)) 127
      let u := t.underflow eref k emin
      if u * 65536 ≤ cfg.ufMax * nz then ⟨f, k, 0, etop, u⟩ else t.choose cfg prevFmt prevK eref etop nz rest

/-- decide of R250. -/
def TagEnt.decide (t : TagEnt) (cfg : TagCfg) (prevFmt : Nat) (prevK eref : Int) (skipped : Bool) : Decision :=
  let down := max (prevK - 1) (-127)
  if skipped then ⟨prevFmt, down, 3, eref, 0⟩
  else if 0 < t.nonfinite then ⟨prevFmt, down, 4, eref, 0⟩
  else if t.samples = 0 then ⟨prevFmt, prevK, 1, eref, 0⟩
  else if t.samples - t.zero - t.nonfinite = 0 then ⟨prevFmt, prevK, 2, eref, 0⟩
  else t.choose cfg prevFmt prevK eref (FVal.top (decodeFmt 1 t.absmax.toNat)) (t.samples - t.zero - t.nonfinite) (fmtsFrom cfg.minFmt)

/-- The 24 words of a record (R251). -/
def tagRecord (tag : Nat) (t : TagEnt) (prevFmt prevScale : Nat) (eref : Int) (d : Decision) (step : W64) : List W64 :=
  let e8 (x : Int) : Nat := wrapInt 8 (x + 127)
  [BitVec.ofNat 64 (tag * 2 ^ 52 + prevFmt * 2 ^ 48 + prevScale * 2 ^ 40 + d.fmt * 2 ^ 36 + e8 d.k * 2 ^ 28 + e8 eref * 2 ^ 20 + d.outcome * 2 ^ 17),
   BitVec.ofNat 64 t.samples, BitVec.ofNat 64 (t.absmax.toNat * 2 ^ 32 + t.nonfinite), BitVec.ofNat 64 (t.zero * 2 ^ 32 + min d.under 0xFFFFFFFF)] ++
  (List.range 16).map (fun i => BitVec.ofNat 64 (Assoc.get 0 t.hist (2 * i) + Assoc.get 0 t.hist (2 * i + 1) * 2 ^ 32)) ++
  [step, 0, 0, 0]

end Sys2Proof.Machine
end

