-- ==== Sys2Proof/Machine/Booth.lean ====
section
/-!
DEFINITION. The booth issue slot: bubbles, fetch, the choice of a troupe, and issue (R35 to R45, R125, R389, R390), and the end of
latencies and clears (R37, R64).
-/

namespace Sys2Proof.Machine

/-! ### Instructions by their words -/

/-- The instruction that a command of the Alasha rows issues; the other rows issue none. -/
def opOf (i : Instr) : Option AlOp :=
  match i with
  | .mov _ f => some (opMov f)
  | .sel _ f => some (opSel f)
  | .iadd _ f => some (opIadd f)
  | .isub _ f => some (opIsub f)
  | .imul _ f => some (opImul f)
  | .imad _ f => some (opImad f)
  | .imin _ f => some (opImin f)
  | .imax _ f => some (opImax f)
  | .andOp _ f => some (opAnd f)
  | .orOp _ f => some (opOr f)
  | .xorOp _ f => some (opXor f)
  | .shl _ f => some (opShl f)
  | .shr _ f => some (opShr f)
  | .sar _ f => some (opSar f)
  | .popc _ f => some (opPopc f)
  | .clz _ f => some (opClz f)
  | .setp _ f => some (opSetp f)
  | .vote _ f => some (opVote f)
  | .shfl _ f => some (opShfl f)
  | .fadd _ f => some (opFadd f)
  | .fmul _ f => some (opFmul f)
  | .ffma _ f => some (opFfma f)
  | .fmin _ f => some (opFmin f)
  | .fmax _ f => some (opFmax f)
  | .cvt _ f => some (opCvt f)
  | .frcp _ f => some (opTranscend 0x71 f)
  | .frsq _ f => some (opTranscend 0x72 f)
  | .fexp2 _ f => some (opTranscend 0x73 f)
  | .flog2 _ f => some (opTranscend 0x74 f)
  | .bra _ f => some (opBra f)
  | .call _ f => some (opCall f)
  | .ret _ f => some (opRet f)
  | .exit _ f => some (opExit f)
  | .ld _ f => some (opLd f)
  | .st _ f => some (opSt f)
  | .fenceG _ f => some (opFenceG f)
  | .atomAdd _ f => some (opAtom .add f)
  | .atomMax _ f => some (opAtom .max f)
  | .atomMin _ f => some (opAtom .min f)
  | .atomCas _ f => some (opAtom .cas f)
  | .atomExch _ f => some (opAtom .exch f)
  | .redAdd _ f => some (opRedAdd f)
  | .redFold _ f => some (opRedFold f)
  | .turnSig _ f => some (opTurnSig f)
  | .turnWait _ f => some (opTurnWait f)
  | .barT _ f => some (opBarT f)
  | .barR _ f => some (opBarR f)
  | .dmaQ _ f => some (opDmaQ f)
  | .allocOp _ f => some (opAlloc f)
  | .freeOp _ f => some (opFree f)
  | .statW _ f => some (opStatW f)
  | .nfChk _ f => some (opNfChk f)
  | .mxCfg _ f => some (opMxCfg f)
  | .mxLdw _ f => some (opMxLdw f)
  | .mxRun _ f => some (opMxRun f)
  | .mxDrn _ f => some (opMxDrn f)
  | _ => none

/-- What a subset's next instruction is. -/
inductive Fetched where
  | op (i : Instr)
  | undefined
  | fault
  | held
deriving DecidableEq, Repr

/-- Fetch and decode the instruction at a PC (R70, R71). A PC without a valid translation gives PAGE_FAULT (DEDUCED). -/
def State.fetch (s : State) (who : TroupeRef) (t : Troupe) (pc : Nat) : State × Fetched :=
  let tent := tentOfRing who.ring.val
  let asker : Asker := .code who.ring.val t.uid
  let faulted (s : State) : State × Fetched := (s.forgetAnswers (· == asker), .fault)
  let dec (s : State) (gs : List Nat) (w0 w1 : W64) : State × Fetched :=
    (s.takeAnswers asker gs, match decodeAlasha w0 w1 who with
      | some i => if (opOf i).isSome then .op i else .undefined
      | none => .undefined)
  match s.peekVa asker tent t.ctx pc 8 with
  | (s, .fault, _) => faulted s
  | (s, .held, _) => (s, .held)
  | (s, .ok b0, g0) =>
    let w0 := BitVec.ofNat 64 (leNat b0)
    if 0xF0 ≤ leNat b0 / 2 ^ 56 then
      match s.peekVa asker tent t.ctx ((pc + 8) % 2 ^ 57) 8 with
      | (s, .fault, _) => faulted s
      | (s, .held, _) => (s, .held)
      | (s, .ok b1, g1) => dec s (g0 ++ g1) w0 (BitVec.ofNat 64 (leNat b1))
    else dec s g0 w0 0

/-- The next instructions of a troupe's subsets that wait for nothing or at a matrix instruction, by PC. -/
def State.fetchAll (s : State) (who : TroupeRef) (t : Troupe) : State × List (Nat × Fetched) :=
  let pcs := distinct ((t.subsets.filter (fun u => decide (u.wait = .none) || u.atMatrix)).map (·.pc))
  pcs.foldl (fun (acc : State × List (Nat × Fetched)) pc =>
    let (s, f) := acc.1.fetch who t pc
    (s, acc.2 ++ [(pc, f)])) (s, [])

/-- The fetched instruction of a PC. -/
def fetchedAt (m : List (Nat × Fetched)) (pc : Nat) : Fetched := ((m.find? (fun p => p.1 == pc)).map (·.2)).getD .held

/-- The operation of a fetched instruction. -/
def Fetched.op? (f : Fetched) : Option AlOp := match f with | .op i => opOf i | _ => none

/-- Is a subset ready (R40)? An instruction that will be refused or that faults at its fetch is ready to do so. -/
def State.subsetReady (s : State) (who : TroupeRef) (t : Troupe) (m : List (Nat × Fetched)) (u : Subset) : Bool :=
  decide (u.wait = .none) &&
  match fetchedAt m u.pc with
  | .op i => (opOf i).any (fun o => o.matrix || o.ready s who t u)
  | .undefined | .fault => true
  | .held => false

/-- Subsets whose next instruction is a matrix instruction wait there for the others; that takes no slot (R133). -/
def State.gather (fuel : Nat) (s : State) (who : TroupeRef) (m : List (Nat × Fetched)) : State :=
  match fuel with
  | 0 => s
  | n + 1 =>
    match s.troupe? who with
    | none => s
    | some t =>
      match t.choose (s.subsetReady who t m) with
      | (t, some u) =>
        if ((fetchedAt m u.pc).op?).any (fun o => o.matrix) then
          gather n ((s.setTroupe who (t.enterWait u.low .matrix)).checkDiverged who) who m
        else s
      | _ => s

/-! ### The choice of a troupe (R38 to R40) -/

/-- What a troupe would issue in this slot. -/
inductive Pick where
  | none
  | one (t : Troupe) (u : Subset) (i : Instr)
  | matrix (i : Instr)
  | undefined (t : Troupe) (u : Subset)
  | fault (t : Troupe) (u : Subset)
deriving DecidableEq, Repr

/-- What a troupe would issue, its instructions fetched. -/
def State.pick (s : State) (who : TroupeRef) (m : List (Nat × Fetched)) : Pick :=
  match s.troupe? who with
  | none => .none
  | some t =>
    match t.matrixReady? with
    | some u =>
      match fetchedAt m u.pc with
      | .op i => if (opOf i).any (fun o => t.available u (o.need t) && !o.hold s who t u) then .matrix i else .none
      | _ => .none
    | none =>
      match t.choose (s.subsetReady who t m) with
      | (t, some u) =>
        match fetchedAt m u.pc with
        | .op i => if (opOf i).any (fun o => o.matrix) then .none else .one t u i
        | .undefined => .undefined t u
        | .fault => .fault t u
        | .held => .none
      | _ => .none

/-- Is there something to issue? -/
def Pick.isReady : Pick → Bool
  | .none => false
  | _ => true

/-- Issue what a troupe has ready, unless its context has been lost in the meantime. -/
def State.issuePick (s : State) (who : TroupeRef) (p : Pick) : State :=
  if !(match s.troupe? who with | some t => s.mayIssue who t | none => false) then s
  else match p with
  | .none => s
  | .one t u i => match opOf i with | some o => s.issue who t u o | none => s
  | .matrix i => match opOf i with | some o => s.issueMatrix who o | none => s
  | .undefined t u => s.troupeFault who t 10 1 u.pc 0 0
  | .fault t u => s.troupeFault who t 3 0 u.pc u.pc 0

/-- Has the fetch of the running subset's next instruction not come yet? That is no wait state of R40: its run goes on. -/
def Troupe.runHeld (t : Troupe) (m : List (Nat × Fetched)) : Bool :=
  (t.running.bind t.subset?).any (fun u => decide (u.wait = .none) && fetchedAt m u.pc == .held)

/-- Look at one troupe of a booth: fetch, let subsets gather at matrix instructions, end the run of a subset that waits (R44), and find
what it would issue. -/
def State.look (s : State) (ring : RingId) (booth : BoothId) (slot : Nat) : State × TroupeRef × Pick :=
  let who : TroupeRef := ⟨ring, booth, Fin.ofNat 16 slot⟩
  match s.troupe? who with
  | none => (s, who, .none)
  | some t =>
    if !s.mayIssue who t then (s, who, .none)
    else
      let (s, m) := s.fetchAll who t
      if t.runHeld m then (s, who, .none)
      else
        let s := State.gather (t.subsets.length + 1) s who m
        match s.troupe? who with
        | none => (s, who, .none)
        | some t =>
          let s := s.setTroupe who (t.endWaiting (s.subsetReady who t m))
          (s, who, s.pick who m)

/-- The counts of R39 after `n` slots were given to the troupe of `won`. A troupe that becomes ready while those slots pass was passed over
for none of them (DESIGN CHOICE: readiness is looked at where a slot is given). -/
def Booth.countPassed (y : Booth) (won : Nat) (ready : List Nat) (n : Nat) : Booth :=
  { y with troupes := y.troupes.map (fun t =>
      { t with passedOver := if t.slot = won ∨ !ready.contains t.slot then 0 else t.passedOver + n }) }

/-- One free booth issue slot: the oldest ready troupe at its limit, else (unless only those are asked for) the oldest ready troupe. -/
def State.issueSlot (s : State) (ring : RingId) (booth : BoothId) (limitOnly : Bool) : State :=
  let slots := ((s.ring ring.val).booth booth.val).troupes.map (·.slot)
  let (s, looks) := slots.foldl (fun (acc : State × List (TroupeRef × Pick)) slot =>
    let (s, who, p) := acc.1.look ring booth slot
    (s, acc.2 ++ [(who, p)])) (s, [])
  let ready := looks.filter (fun l => l.2.isReady)
  let y := (s.ring ring.val).booth booth.val
  let passed (w : TroupeRef) : Nat := ((y.troupe? w.slot.val).map (·.passedOver)).getD 0
  let limit := ready.find? (fun l => decide (256 ≤ passed l.1))
  let chosen := match limit with
    | some l => some l
    | none => if limitOnly then none else ready.head?
  match chosen with
  | none =>
    if limitOnly then s
    else s.modBooth ring.val booth.val (fun y => y.countPassed 16 (ready.map (fun l => l.1.slot.val)) 0)
  | some (who, p) =>
    let before := y.slots
    let s := s.issuePick who p
    let s := s.modBooth ring.val booth.val (fun y =>
      let n := y.slots - before
      { y.countPassed who.slot.val (ready.map (fun l => l.1.slot.val)) n with busy := n - 1 })
    -- the wait that the next instruction enters at once (R44), and the arrival at a matrix instruction (R133)
    (s.look ring booth who.slot.val).1

/-! ### Bubbles (R36, R125, R389, R390, R399) -/

/-- Is the floor of R399 in force: PWR_BRAKE_N or THERM_ALERT_N held active? -/
def State.braked (s : State) : Bool := !s.inputs.brake.filtered || !s.inputs.alert.filtered

/-- The level that a booth of a tent uses: that of its run of 64 slots, or 56 under a brake. -/
def State.levelOf (s : State) (y : Booth) : Nat := if s.braked then 56 else y.level

/-- Slot i of 64 is a bubble under a level (R390). -/
def isBubble (level i : Nat) : Bool := decide ((i * level) / 64 < ((i + 1) * level) / 64)

/-- The a-clock of a ring runs: its island is Active and the clocks are not stopped. -/
def State.ringClock (s : State) (ring : Nat) : Bool :=
  decide ((s.island (tentOfRing ring)).st = .active) && !(s.island (tentOfRing ring)).waking && !s.clocks.stopped

/-- One a-cycle of a booth (R35, R36, R39, R390). -/
def State.boothCycle (s : State) (ring : RingId) (booth : BoothId) (limitOnly : Bool) : State :=
  if !s.ringClock ring.val then s
  else
    let tent := tentOfRing ring.val
    let s := s.modYard (fun y => { y with slots := Assoc.put y.slots tent (Assoc.get 0 y.slots tent + 1) })
    let y := (s.ring ring.val).booth booth.val
    let level := if y.phase64 = 0 then Assoc.get 0 s.yard.level tent else y.level
    let y := { y with level }
    let droop : Bool := s.yard.droop.contains tent
    let claim : Bool := droop || isBubble (s.levelOf y) y.phase64
    let y := { y with phase64 := (y.phase64 + 1) % 64, owed := if claim then y.owed + 1 else y.owed }
    let put (y : Booth) : State := s.modBooth ring.val booth.val (fun _ => y)
    -- a bubble never falls between the a-cycles of one troupe instruction
    if 0 < y.busy then put { y with busy := y.busy - 1, claims := if claim then y.claims + 1 else y.claims }
    else if claim then put y
    else if 0 < y.claims then put { y with claims := y.claims - 1 }
    else (put y).issueSlot ring booth limitOnly

/-- BOOTH_ISSUE_SLOT (R39). -/
def execBoothIssueSlot (ring : RingId) (booth : BoothId) (s : State) : Host.Outcome State Fault Refusal :=
  .next (s.boothCycle ring booth false)

/-- A ready troupe of the booth has been passed over for 256 slots. -/
def Booth.atLimit (y : Booth) : Bool := y.troupes.any (fun t => decide (256 ≤ t.passedOver))

/-- STARVATION_LIMIT (R39): the next booth issue slot goes to the oldest ready troupe at its limit. -/
def execStarvationLimit (ring : RingId) (booth : BoothId) (s : State) : Host.Outcome State Fault Refusal :=
  .next (if ((s.ring ring.val).booth booth.val).atLimit then s.boothCycle ring booth true else s)

/-- The run of a subset that has issued 64 troupe instructions ends (R44). -/
def Troupe.endRun (t : Troupe) : Troupe :=
  match t.running.bind t.subset? with
  | some u => if 64 ≤ t.runCount then { t.setSubset u.low { u with stamp := t.lastSlot } with running := none } else t
  | none => t

/-- RUN_LIMIT (R44). -/
def execRunLimit (who : TroupeRef) (s : State) : Host.Outcome State Fault Refusal :=
  .next (match s.troupe? who with
    | some t => s.setTroupe who t.endRun
    | none => s)

/-- LATENCY_ELAPSED (R37): the operand wait for a result ends. -/
def execLatencyElapsed (who : TroupeRef) (id : Nat) (s : State) : Host.Outcome State Fault Refusal :=
  .next (match s.troupe? who with
    | some t => s.setTroupe who { t with pending := t.pending.filter (fun p => p.memory || p.id != id) }
    | none => s)

/-! ### Clears (R64) -/

/-- The oldest troupe of a booth that is not cleared is ready (R64). -/
def Booth.clearNext (y : Booth) : Booth :=
  match y.troupes.find? (fun t => !t.cleared) with
  | some t => y.setTroupe { t with cleared := true }
  | none => y

/-- REGISTER_CLEAR_DONE (R64). -/
def execRegisterClearDone (ring : RingId) (booth : BoothId) (s : State) : Host.Outcome State Fault Refusal :=
  .next (s.modBooth ring.val booth.val Booth.clearNext)

/-- The allocation of the ring group placed first among those not cleared is written with zeros (R63, R64). -/
def Ring.clearNext (r : Ring) : Ring :=
  match r.groups.find? (fun g => !g.cleared) with
  | some g =>
    { r with groups := r.groups.map (fun x => if x.id = g.id then { x with cleared := true } else x)
             scratch := Mem.zero r.scratch g.base g.size }
  | none => r

/-- SCRATCHPAD_CLEAR_DONE (R64). -/
def execScratchpadClearDone (ring : RingId) (s : State) : Host.Outcome State Fault Refusal := .next (s.modRing ring.val Ring.clearNext)

/-! ### Droop (R389) -/

/-- A droop detector starts, or renews, a burst on its tent; a burst is counted when it starts. -/
def State.droopAt (s : State) (tent : Nat) : State :=
  if s.yard.droop.contains tent then s
  else s.modYard (fun y => { y with droop := insertNat tent y.droop, droops := Assoc.put y.droops tent (satAdd 64 (Assoc.get 0 y.droops tent) 1) })

/-- DROOP_DETECT (R389). -/
def execDroopDetect (ring : RingId) (s : State) : Host.Outcome State Fault Refusal := .next (s.droopAt (tentOfRing ring.val))

/-- DROOP_BURST_END (R389). -/
def execDroopBurstEnd (tent : TentId) (s : State) : Host.Outcome State Fault Refusal :=
  .next (s.modYard (fun y => { y with droop := y.droop.filter (fun t => t != tent.val) }))

end Sys2Proof.Machine
end

