-- ==== Sys2Proof/Machine/Place.lean ====
section
/-!
DEFINITION. The placement of ring groups and the initial state of their troupes (R61 to R65, R167, R177, R200, R323, R374, R381).
-/

namespace Sys2Proof.Machine

/-! ### Room (R51, R61, R62, R65) -/

/-- A FLIP starts at its snapshot point, and not when the barker takes it (R365). -/
def isFlip (w : List W64) : Bool := cmdOp w == 11 && bits (cmdWord w 1) 63 60 == 1

/-- Allocated registers per thread (R51). -/
def Desc.alloc (d : Desc) : Nat := 8 * ceilDiv d.regs 8
/-- L1_SIZE, an encoded 0 counting as 2 (R62, R65). -/
def Desc.l1Units (d : Desc) : Nat := if d.l1 = 0 then 2 else d.l1
/-- Scratchpad bytes of a ring group. -/
def Desc.scratchBytes (d : Desc) : Nat := d.scratch * 1024
/-- What tells kernels apart for GROUPS_PER_RING_MAX: ENTRY_VA and KERNEL_ID (DESIGN CHOICE: R62 does not say when two groups are of one
kernel). -/
def Desc.kernel (d : Desc) : Nat × Nat := (d.entry, d.kernelId)

/-- Slots that a troupe of a width takes (R20). -/
def slotsOfWidth (w : Nat) : Nat := w / 32

/-- Free slots, registers and accumulator units of a booth (R61). -/
def Booth.room (y : Booth) : Nat × Nat × Nat :=
  let sum (f : Troupe → Nat) : Nat := (y.troupes.map f).foldl (· + ·) 0
  (16 - sum (fun t => slotsOfWidth t.width), 65536 - sum (fun t => 8 * ceilDiv t.regs 8 * t.width), 16 - sum (fun t => t.accUnits))

/-- Does the booth have room for one more troupe of the kernel, `n` of the same group being placed on it already? -/
def Desc.fits (d : Desc) (room : Nat × Nat × Nat) (n : Nat) : Bool :=
  decide ((n + 1) * slotsOfWidth d.width ≤ room.1) && decide ((n + 1) * (d.alloc * d.width) ≤ room.2.1) &&
  decide ((n + 1) * d.accUnits ≤ room.2.2)

/-- The booths of the troupes of a group in order of troupe index: each goes to the booth that has room and holds the fewest of the group,
the lowest first (DESIGN CHOICE: R19 lets the barker take any); no booth takes more than ceil(T / 4) (R61). The answer is `none` when they do not all fit. -/
def Desc.spread (d : Desc) (rooms : List (Nat × Nat × Nat)) : Option (List Nat) :=
  let p := ceilDiv d.troupes 4
  (List.range d.troupes).foldl (fun (acc : Option (List Nat)) _ =>
    match acc with
    | none => none
    | some l =>
      let cnt (b : Nat) : Nat := (l.filter (fun x => x == b)).length
      let ok := (List.range 4).filter (fun b => decide (cnt b < p) && d.fits (rooms.getD b (0, 0, 0)) (cnt b))
      match ok with
      | [] => none
      | b :: rest => some (l ++ [rest.foldl (fun m x => if cnt x < cnt m then x else m) b])) (some [])

/-- The lowest free range of the ring's scratchpad (DESIGN CHOICE: the lowest that fits). -/
def Ring.scratchFit (r : Ring) (size units : Nat) : Option Nat :=
  let top := (640 - 64 * units) * 1024
  let used := (r.groups.filter (fun g => decide (0 < g.size))).map (fun g => (g.base, g.size))
  if size = 0 then some 0 else lowestFit used top size (used.length + 1) 0

/-- Does the ring still do work that its former troupes left: queued matrix instructions, scratchpad requests, atomics or reductions, or
writes not yet performed (DEDUCED: until then it holds work of their context)? -/
def Ring.workLeft (r : Ring) : Bool :=
  !r.ldq.isEmpty || !r.sreqs.isEmpty || !r.combiner.isEmpty || !r.satoms.isEmpty || r.writes.any (fun w => !w.2.writeBack) ||
  r.booths.any (fun b => !b.2.mq.isEmpty || !b.2.pipe.isEmpty || !b.2.drain.isEmpty)

/-- May the ring serve the context now: it does so already, or nothing of another context's troupes runs or is kept for the debugger
(R62, R163)? -/
def Ring.openTo (r : Ring) (ctx : Nat) : Bool :=
  r.ctx.isNone || r.ctx == some ctx || (r.groups.isEmpty && !r.debug && !r.workLeft)

/-! ### Initial state of a troupe (R63) -/

/-- A troupe before its clear is done. -/
def newTroupe (d : DispatchSt) (ref : CmdRef) (ctx phase group g ring size i slot stamp : Nat) : Troupe :=
  let k := d.desc
  let w := k.width
  let ths := List.range w
  let v := ths.foldl (fun m th => Assoc.put (Assoc.put m (th * 256) (BitVec.ofNat 32 th)) (th * 256 + 1) (BitVec.ofNat 32 (i * w + th))) []
  let u3 := k.kernelId * 65536 + tentOfRing ring * 256 + ring
  let us : List W32 := [BitVec.ofNat 32 g, BitVec.ofNat 32 i, BitVec.ofNat 32 k.troupes, BitVec.ofNat 32 u3, BitVec.ofNat 32 w
                        , BitVec.ofNat 32 size, BitVec.ofNat 32 d.groups, 0] ++ d.args
  let t : Troupe :=
    { slot, ctx, cmd := ref, group, kernelId := k.kernelId, phase, groupIndex := g, index := i, width := w, regs := k.regs
      accUnits := k.accUnits, seed := d.seed, v, u := (List.range us.length).zip us
      subsets := [{ threads := ths, pc := k.entry, stamp }] }
  { t with nextId := t.uid * 2 ^ 32 }

/-- Put the troupes of a group on their booths, in ascending troupe index (R38). -/
def Ring.addTroupes (r : Ring) (d : DispatchSt) (ref : CmdRef) (ctx phase group g ring size : Nat) (booths : List Nat) : Ring :=
  ((List.range booths.length).zip booths).foldl (fun r p =>
    let y := r.booth p.2
    let slot := ((List.range 16).find? (fun s => (y.troupe? s).isNone)).getD 0
    let t := newTroupe d ref ctx phase group g ring size p.1 slot y.slots
    r.setBooth p.2 { y with troupes := y.troupes ++ [t] }) r

/-! ### Which ring group, and the placement (R62, R323, R374, R381) -/

/-- Rings of a dispatch on tents that are not fenced, in ascending order (R68). -/
def State.allowedNow (s : State) (d : DispatchSt) : List Nat := d.rings.filter (fun r => !(s.island (tentOfRing r)).fenced)

/-- The lowest ring group from `g` on, in steps of `n`, that is not placed. -/
def nextUnplaced (d : DispatchSt) (n fuel g : Nat) : Option Nat :=
  match fuel with
  | 0 => none
  | k + 1 => if d.groups ≤ g then none else if d.placedOut.contains g then nextUnplaced d n k (g + n) else some g

/-- The ring group of a dispatch that a ring would take next. -/
def State.groupFor (s : State) (d : DispatchSt) (ring : Nat) : Option Nat :=
  let rings := s.allowedNow d
  if !rings.contains ring then none
  else if !d.fixed then nextUnplaced d 1 (d.placedOut.length + 1) d.next
  else
    let n := rings.length
    let i := rings.idxOf ring
    let first := d.next + (i + n - d.next % n) % n
    nextUnplaced d n (d.placedOut.length + 1) first

/-- A ring group counts as placed: groups are named by the lowest one not placed and those placed beyond it. -/
def DispatchSt.place (d : DispatchSt) (g ring : Nat) : DispatchSt :=
  let out := insertNat g d.placedOut
  let next := (List.range (out.length + 1)).foldl (fun n _ => if out.contains n then n + 1 else n) d.next
  { d with next, placedOut := out.filter (fun x => decide (next ≤ x)), live := d.live + 1, places := d.places ++ [(g, ring)] }

/-- The ring that replay records for a ring group of a dispatch under free placement (R381). -/
def State.replayRing (s : State) (ctx : Nat) (ref : CmdRef) (accept g : Nat) : Option Nat :=
  match s.replay? (s.stepKey ctx ref) with
  | none => none
  | some r => (Assoc.find? r.taken accept).bind (fun c => c.rings[g]?)

/-- Is the context recording its step, so that a ring may hold only one group of a dispatch for each index modulo 65,536 (R374)? -/
def State.indexClash (s : State) (ctx : Nat) (ref : CmdRef) (g : Nat) (r : Ring) : Bool :=
  s.recording (s.stepKey ctx ref) && r.groups.any (fun x => x.cmd == ref && x.index % 65536 == g % 65536)

/-- A ring passes to a context: reduction ells of the former one are folded, its weight slots and lines are given up (R62, R200). The
answer is false while a fold has to wait. -/
def State.passRing (s : State) (ring ctx : Nat) : State × Bool :=
  let r := s.ring ring
  if r.ctx.isNone ∨ r.ctx = some ctx then (s.modRing ring (fun r => { r with ctx := some ctx }), true)
  else
    let (s, ok) := s.foldRing ring
    if !ok then (s, false)
    else (s.modRing ring (fun r => { r with ctx := some ctx, wslots := [], l1 := [], streams := [] }), true)

/-- Place the next ring group of a dispatch on a ring that has room for all of its troupes (R61 to R63, R177). A dispatch accepted after a
STEP_BOUNDARY still in progress reads the new decision table (R253): its groups wait for the boundary (DEDUCED). -/
def State.placeGroup (s : State) (ref : CmdRef) (ring : Nat) : State :=
  match s.cmd? ref with
  | none => s
  | some c =>
    match c.dispatch, c.ctx with
    | some d, some ctx =>
      if c.st ≠ .running ∨ !s.ctxLive ctx ∨ !s.ringClock ring ∨ (s.boundaries ctx).any (fun b => decide (b < c.accept)) then s
      else
        match s.groupFor d ring with
        | none => s
        | some g =>
          let r := s.ring ring
          let k := d.desc
          let forced := if d.fixed then none else s.replayRing ctx ref c.accept g
          let max_ : Bool := decide (k.groupsMax ≠ 0) && decide (k.groupsMax ≤ (r.groups.filter (fun x => x.kernel == k.kernel)).length)
          let l1Ok : Bool := r.groups.isEmpty || r.l1Units == k.l1Units
          let replayOk : Bool := match forced with | some f => f == ring | none => true
          if !r.openTo ctx || max_ || !l1Ok || !replayOk || s.indexClash ctx ref g r then s
          else
            match r.scratchFit k.scratchBytes k.l1Units, k.spread ((List.range 4).map (fun b => (r.booth b).room)) with
            | some base, some booths =>
              match s.passRing ring ctx with
              | (s, false) => s
              | (s, true) =>
                let r := s.ring ring
                let grp : RingGroup :=
                  { id := r.nextGroup, cmd := ref, ctx, index := g, base, size := k.scratchBytes, cleared := decide (k.scratchBytes = 0), live := k.troupes, kernel := k.kernel }
                let lines := if r.groups.isEmpty && r.l1Units ≠ k.l1Units then [] else r.l1.filter (fun l => l.2.loc.isSome)
                let loads := Assoc.mapVals (fun _ (o : LoadOp) => if o.loc.isNone then { o with l1 := [] } else o) r.loads
                let r := { r with l1Units := k.l1Units, groups := r.groups ++ [grp], nextGroup := r.nextGroup + 1, l1 := lines, loads }
                let r := r.addTroupes d ref ctx (cmdPhase c.words) grp.id g ring k.scratchBytes booths
                let s := (s.setRing ring r).modIsland (tentOfRing ring) (fun i => { i with idleSince := none })
                let s := s.modCmd ref (fun c => { c with dispatch := c.dispatch.map (fun d => d.place g ring) })
                if d.fixed then s
                else s.jrnMod (s.stepKey ctx ref) (fun j => { j with cmds := j.cmds.map (fun e => if e.accept = c.accept then { e with rings := e.rings.set g ring } else e) })
            | _, _ => s
    | _, _ => s

/-- RING_GROUP_PLACE (R61). -/
def execRingGroupPlace (ref : CmdRef) (ring : RingId) (s : State) : Host.Outcome State Fault Refusal := .next (s.placeGroup ref ring.val)

end Sys2Proof.Machine
end

