-- ==== Sys2Proof/Machine/Barker.lean ====
section
/-!
DEFINITION. The barker: doorbells and fetches, the device control registers, the acceptance of commands with the checks of R329, and
completion (R65, R66, R159, R313 to R329, R348, R354, R374, R381, R446).
-/

namespace Sys2Proof.Machine

/-! ### Fields -/

/-- A word holds nothing outside the fields that its map names, given as (high bit, low bit). -/
def onlyFields (w : Nat) (fields : List (Nat × Nat)) : Bool :=
  w == fields.foldl (fun acc f => acc + bits w f.1 f.2 * 2 ^ f.2) 0

/-- Words 1, 2, … hold nothing outside their fields; words beyond the list are Reserved. -/
def wordsOnly (w : List W64) (maps : List (List (Nat × Nat))) : Bool :=
  (List.range 7).all (fun i => onlyFields (cmdWord w (i + 1)) (maps.getD i []))

/-- A whole word. -/
def wholeWord : List (Nat × Nat) := [(63, 0)]

/-- SRC or DST of a COPY (R324): a virtual address, or a remote address of R282. -/
def copyAddrOk (a : Nat) : Bool := !bitN a 63 && (bitN a 62 || decide (a < 2 ^ 57))

/-- Formats and ARITH that a collective may name (R293, R298). -/
def collFormatOk (op dtype arith redop : Nat) : Bool :=
  match op with
  | 0 | 1 =>
    if redop = 0 then
      match dtype with
      | 3 => [3, 2, 1, 15].contains arith
      | 2 => [2, 1, 15].contains arith
      | 1 => [1, 15].contains arith
      | 15 => arith == 15
      | _ => false
    else [1, 2, 3, 4, 12].contains dtype
  | 2 | 3 | 4 => [0, 1, 2, 3, 4, 5, 6, 10, 12, 15].contains dtype
  | _ => true

/-- Reserved bits and refused values of a COLLECTIVE (R291 to R293, R298): RND, REDOP, OP, formats, the count of a norm's ranges; a carousel
whose rounds are empty never ends, so ROUND_MIB 0 is refused (DEDUCED). -/
def collMapOk (w : List W64) : Bool :=
  let x (i : Nat) : Nat := cmdWord w i
  let op := bits (x 3) 31 28
  let count := bits (x 3) 63 32
  wordsOnly w [[(56, 0)], [(56, 0)], [(63, 14)], [(56, 0)], wholeWord, [(63, 52), (31, 0)], [(56, 0)]] &&
  decide (bits (x 3) 19 18 ≤ 1) && decide (bits (x 3) 16 14 ≤ 2) && decide (op ≤ 7) &&
  collFormatOk op (bits (x 3) 27 24) (bits (x 3) 23 20) (bits (x 3) 16 14) &&
  (op != 5 || (decide (1 ≤ count) && decide (count ≤ 65536))) && (op != 6 || decide (bits (x 6) 31 16 ≠ 0))

/-- Reserved bits, refused values and alignment of a command's words 1 to 7 (R329). -/
def cmdMapOk (w : List W64) : Bool :=
  let x (i : Nat) : Nat := cmdWord w i
  match cmdOp w with
  | 0x01 => wordsOnly w [[(56, 0)], wholeWord, wholeWord, wholeWord, wholeWord, wholeWord, [(0, 0)]] &&
      decide (x 1 % 32 = 0) && decide (bits (x 2) 63 32 ≠ 0)
  | 0x02 => wordsOnly w [wholeWord, wholeWord, wholeWord, [(63, 32), (3, 0)], wholeWord] && copyAddrOk (x 1) && copyAddrOk (x 2) &&
      decide (1 ≤ x 3) && decide (x 3 ≤ 2 ^ 40)
  | 0x03 => collMapOk w
  | 0x04 => wordsOnly w [[(31, 0)], wholeWord, [(2, 2)]]
  | 0x05 => wordsOnly w [[(31, 0)], wholeWord, [(1, 0)]]
  | 0x06 => wordsOnly w [[(1, 0)], wholeWord, wholeWord, [(31, 0)], wholeWord] &&
      (!bitN (x 1) 1 || (decide (x 2 % 1024 = 0) && decide (x 3 % 1024 = 0)))
  | 0x07 => wordsOnly w [wholeWord, [(1, 0)], [(31, 0)], wholeWord]
  | 0x08 => wordsOnly w [[(56, 0)], [(31, 0)], wholeWord] && decide (x 1 % 256 = 0)
  | 0x09 => wordsOnly w [wholeWord, [(3, 0)], [(56, 0)], [(31, 0)], wholeWord]
  | 0x0A => wordsOnly w [wholeWord, [], [], [(31, 0)], wholeWord]
  | 0x0B => wordsOnly w [[(63, 52)], wholeWord, wholeWord, wholeWord, [(63, 32)], wholeWord, wholeWord] && decide (bits (x 1) 63 60 ≤ 5)
  | 0x0C =>
      let k := bits (x 3) 5 0
      wordsOnly w [[(56, 0)], wholeWord, [(5, 0)], [(56, 0)], [(63, 32)], wholeWord] && decide (20 ≤ k) && decide (k ≤ 32) &&
      decide (x 1 % 2 ^ k = 0) && decide (x 2 % 2 ^ k = 0) && decide (x 2 ≤ 2 ^ 40) && decide (x 4 % 32 = 0)
  | 0x80 => wordsOnly w [wholeWord, [(63, 48)], [(56, 0)], [(56, 0)], [(56, 0)]] && decide (bits (x 1) 11 0 = 0)
  | 0x81 => wordsOnly w [[(63, 54)], wholeWord]
  | 0x82 => wordsOnly w [[(63, 54)]]
  | 0x83 => wordsOnly w [[(63, 36)], [(63, 63), (51, 12)], [(63, 63), (51, 12)], [(63, 63), (51, 3)]] &&
      decide (6 ≤ bits (x 1) 40 36) && decide (bits (x 1) 40 36 ≤ 16)
  | 0x84 => wordsOnly w [[(63, 52)]]
  | 0x85 => wordsOnly w [[(63, 52)]]
  | 0x86 => wordsOnly w [[(63, 51), (50, 41), (8, 0)], wholeWord, [(63, 62), (51, 4)], [(11, 0)]] &&
      decide (bits (x 4) 11 0 ≠ 1) && decide (bits (x 4) 11 0 < 2048)
  | 0x87 => wordsOnly w [[(63, 54), (8, 0)], [(63, 61), (24, 0)]]
  | 0x88 => wordsOnly w [[(63, 51), (12, 0)], [(0, 0)]] && (!bitN (x 1) 12 || decide (bits (x 1) 12 0 = 0x1FFF))
  | 0x89 => wordsOnly w [[(63, 54), (8, 0)]]
  | 0x8A => wordsOnly w [[(63, 44)], [(41, 0)], wholeWord, [(63, 54), (11, 0)]]
  | 0x8B => wordsOnly w [[(63, 44)], [(8, 8), (1, 0)], [(63, 54)]] && decide (bits (x 2) 1 0 ≤ 1)
  | 0x8C => wordsOnly w [[(63, 54), (3, 0)], [(41, 0)], wholeWord, [(56, 0)], wholeWord]
  | 0x8D => wordsOnly w [[(63, 54), (3, 0)]]
  | 0x8E => wordsOnly w [[(63, 54)], [(56, 0)], wholeWord]
  | 0x8F => wordsOnly w [[(63, 54), (9, 0)], [(56, 0)], wholeWord, [(27, 16), (2, 0)]]
  | 0x90 => wordsOnly w [[(9, 0)]]
  | 0x91 => wordsOnly w [[(63, 63), (5, 0)], [(41, 0)], wholeWord, [(16, 16), (11, 0)]]
  | _ => false

/-- Opcode against the kind of queue (R321), and the common header (R320): Reserved bits, and phases 5 to 7 of a context command (R258). -/
def cmdHeaderOk (admin : Bool) (w : List W64) : Bool :=
  onlyFields (cmdWord w 0) [(63, 51), (47, 32)] && (admin == decide (0x80 ≤ cmdOp w)) &&
  (admin || cmdOp w == 3 || decide (bits (cmdWord w 0) 55 53 ≤ 4))

/-- Every handle of a context command names a handle-table entry with the right it needs (R325, R329, R336). -/
def State.handlesOk (s : State) (ctx : Nat) (w : List W64) : Bool :=
  let h : W32 := BitVec.ofNat 32 (cmdWord w 1)
  match cmdOp w with
  | 0x04 => s.canWait ctx h
  | 0x05 => s.canSignal ctx h
  | _ => let t := (cmdTurn w).1; t == 0xFFFFFFFF || s.canSignal ctx t

/-! ### Queues -/

/-- Put a queue. -/
def State.setQueue (s : State) (q : Nat) (k : Queue) : State := s.modHub (fun h => { h with queues := Assoc.put h.queues q k })
/-- A queue that is enabled. -/
def State.queue? (s : State) (q : Nat) : Option Queue := Assoc.find? s.hub.queues q
/-- Change a queue. -/
def State.modQueue (s : State) (q : Nat) (f : Queue → Queue) : State :=
  match s.queue? q with
  | some k => s.setQueue q (f k)
  | none => s

/-- A place from the form of QUEUE_CREATE words 2 and 3 (R321). -/
def ringPlace (w : Nat) : Place := ⟨bitN w 63, bits w 51 12 * 4096⟩

/-- A doorbell write that is ignored and counted (R317, R446). -/
def State.ignoreDoorbell (s : State) : State := s.modHub (fun h => { h with doorbellsIgnored := h.doorbellsIgnored + 1 })

/-! ### Kernel descriptors (R65, R66) -/

/-- The descriptor in words 8 to 11 of a loaded DISPATCH. -/
def descOf (w : List W64) : Desc :=
  let a := cmdWord w 8
  let b := cmdWord w 9
  let c := cmdWord w 10
  let d := cmdWord w 11
  { va := bits (cmdWord w 1) 56 0, entry := bits a 56 0, argVa := bits b 56 0, kernelId := bits c 63 48
    width := 32 * 2 ^ bits c 47 46, regs := bits c 43 36, troupes := bits c 35 29, l1 := bits c 28 26, scratch := bits c 25 16
    accUnits := bits c 15 11, argWords := bits c 10 5, groupsMax := bits d 7 0 }

/-- Test 1 of R67: the descriptor's encoding. ACC_UNITS above 16 is outside its field's range (R65). -/
def Desc.encodingOk (d : Desc) : Bool :=
  decide (d.width ≤ 128) && decide (1 ≤ d.regs) && decide (1 ≤ d.troupes) && decide (d.troupes ≤ 64) && decide (d.argWords ≤ 56) &&
  decide (d.entry % 8 = 0) && (d.argWords == 0 || decide (d.argVa % 4 = 0))

/-- Is a DISPATCH loaded: descriptor and argument words? Other commands need no load. -/
def cmdLoaded (w : List W64) : Bool :=
  if cmdOp w ≠ 1 ∨ !cmdMapOk w then true
  else if w.length < 12 then false
  else
    let d := descOf w
    !d.encodingOk || decide (12 + d.argWords ≤ w.length)

/-- Read words of `n` bytes each at an address of the command's context: `none` when a grain is not there yet or none is mapped, which is
recorded with the command. -/
def State.readWords (s : State) (q : QueueId) (ctx : Nat) (c : FetchedCmd) (va n count : Nat) : State × FetchedCmd :=
  match s.readVa (.cmd ⟨q, c.count⟩) 0 ctx va (n * count) with
  | (s, .ok bs) =>
    (s, { c with words := c.words ++ (List.range count).map (fun i => BitVec.ofNat 64 (leNat ((bs.drop (n * i)).take n))) })
  | (s, .fault) => (s, { c with bad := some va })
  | (s, .held) => (s, c)

/-- Read what is missing of a fetched DISPATCH: the descriptor, once (R66), then its argument block. The manual does not say when the
barker reads the argument block; it is read behind the descriptor, before the load-time check, so that an ARG_VA without a translation is
found before tests 2 to 7 of R67 (DESIGN CHOICE). -/
def State.loadCmd (s : State) (q : QueueId) (ctx : Nat) (c : FetchedCmd) : State × FetchedCmd :=
  let args (s : State) (c : FetchedCmd) : State × FetchedCmd :=
    if cmdLoaded c.words || decide (c.words.length < 12) then (s, c)
    else s.readWords q ctx c (descOf c.words).argVa 4 (descOf c.words).argWords
  if cmdLoaded c.words || c.bad.isSome then (s, c)
  else if 12 ≤ c.words.length then args s c
  else
    match s.readWords q ctx c (bits (cmdWord c.words 1) 56 0) 8 4 with
    | (s, c) => args s c

/-- Load the DISPATCH commands that a queue has fetched, as far as their grains are there. -/
def State.loadFetched (s : State) (q : Nat) : State :=
  match s.queue? q with
  | none => s
  | some k =>
    if k.admin then s
    else
      let r := k.fetched.foldl (fun (acc : State × List FetchedCmd) c =>
        match acc.1.loadCmd (Fin.ofNat 4096 q) k.ctx c with
        | (s, c) => (s, acc.2 ++ [c])) (s, [])
      r.1.modQueue q (fun k => { k with fetched := r.2 })

/-! ### Doorbells (R316, R317) -/

/-- Fetch one slot: `none` when its grain is not there yet. -/
def State.fetchSlot (s : State) (q : Nat) (k : Queue) : State × Option (List W64) :=
  if !k.ring.host && !s.boot.memory then (s, none)
  else
    match s.readPlace (.slot q k.head) k.ring.host (k.ring.addr + 64 * (k.head.toNat % 2 ^ k.log2)) 64 with
    | (s, none) => (s, none)
    | (s, some bs) =>
      let w := (List.range 8).map (fun i => BitVec.ofNat 64 (leNat ((bs.drop (8 * i)).take 8)))
      let s := s.setQueue q { k with head := k.head + 1, fetched := k.fetched ++ [{ count := k.head, words := w }] }
      let s := match k.shadow with
        | some p => s.writePlace p.host p.addr (leBytes 8 (k.head + 1).toNat) .none
        | none => s
      (s, some w)

/-- Fetch the slots up to the tail in count order, writing the head shadow after each (R316). -/
def State.fetchCmdSlots (s : State) (q fuel : Nat) : State :=
  match fuel with
  | 0 => s
  | n + 1 =>
    match s.queue? q with
    | none => s
    | some k =>
      match k.tail with
      | none => s
      | some t =>
        if t = k.head then s.setQueue q { k with tail := none }
        else
          match s.fetchSlot q k with
          | (s, some _) => s.fetchCmdSlots q n
          | (s, none) => s

/-- A WAIT with HALT that has found the error bit and has not completed (R325). -/
def State.haltDue (s : State) (q : Nat) : Bool :=
  s.hub.cmds.any (fun c => (refOfKey c.1).queue.val == q && cmdOp c.2.words == 4 && c.2.errSeen && bitN (cmdWord c.2.words 3) 2)

/-- Fetch what the last tail of a queue covers, and load what it needs; a halted queue fetches nothing more (R325). -/
def State.fetchQueue (s : State) (q : Nat) : State :=
  match s.queue? q with
  | none => s
  | some k =>
    if k.halted || s.haltDue q then s
    else
      let n := match k.tail with | some t => (t - k.head).toNat | none => 0
      (s.fetchCmdSlots q (n + 1)).loadFetched q

/-- Every queue tries again what it could not read. -/
def State.retryFetch (s : State) : State := (s.hub.queues.map (·.1)).foldl State.fetchQueue s

/-- A queue's reader wants no more of what has come of its slots. -/
def State.forgetSlots (s : State) (q : Nat) : State := s.forgetAnswers (fun a => match a with | .slot k _ => k == q | _ => false)

/-- QUEUE_OVERRUN (R317, R334). -/
def State.overrun (s : State) (q : Nat) (k : Queue) (tail : W32) : State :=
  let s := s.forgetSlots q
  if k.admin then
    (s.setQueue q { k with halted := true, tail := none }).event
      [BitVec.ofNat 64 (6 * 2 ^ 56), BitVec.ofNat 64 q, BitVec.ofNat 64 (k.head.toNat * 2 ^ 32 + tail.toNat)]
  else
    (s.setQueue q { k with stopped := true }).loseCtx k.ctx (some { code := 9, ctx := k.ctx, queue := q }) none false

/-- A doorbell write (R317, R342, R446); without 256-byte flits every queue refuses commands (R308). -/
def State.doorbell (s : State) (q : Nat) (tail : W32) : State :=
  match s.queue? q with
  | none => s.ignoreDoorbell
  | some k =>
    if !s.boot.queues || s.boot.hostLink == .ioOnly || k.halted || k.stopped || k.destroying || s.haltDue q || (!k.admin && !s.ctxLive k.ctx) then s.ignoreDoorbell
    else if 2 ^ k.log2 < (tail - k.head).toNat then s.overrun q k tail
    else (s.setQueue q { k with tail := some tail }).fetchQueue q

/-- DOORBELL (R317). -/
def execDoorbell (queue : QueueId) (tail : W32) (s : State) : Host.Outcome State Fault Refusal := .next (s.doorbell queue.val tail)

/-! ### The regions of BAR0 (R312 to R314) -/

/-- Offset of a register from the block of the device control registers (R312, R313). -/
def ctlOffset (r : CtlReg) : Nat :=
  match r with
  | .ready => 0x000 | .evqBase => 0x008 | .evqSize => 0x010 | .evqHead => 0x018 | .evqTail => 0x020
  | .admqRing => 0x028 | .admqCq => 0x030 | .admqCfg => 0x038
  | .msix v dword => 0x10000 + 16 * v.val + 4 * dword.val

/-- What a BAR0 offset names (R312). -/
inductive BarTarget where
  /-- CXL component registers, laid out by CXL 3.1 -/
  | component (offset : Nat)
  /-- device status and the primary mailbox -/
  | deviceRegs (offset : Nat)
  | control (reg : CtlReg)
  /-- entry and byte of the MSI-X table; the pending-bit array follows the 2,048 entries of 16 B, as PCIe lays it out -/
  | msixTable (offset : Nat)
  /-- a queue's doorbell (R314) -/
  | doorbell (q : Nat)
deriving DecidableEq, Repr

/-- The target of an access at a BAR0 offset; `none` where the map has nothing, and at the bytes of a doorbell page past its doorbell, where
writes are ignored and reads return 0 (R312, R314). -/
def barTarget (offset : Nat) : Option BarTarget :=
  if offset < 0x10000 then some (.component offset)
  else if offset < 0x20000 then some (.deviceRegs (offset - 0x10000))
  else if offset < 0x21000 then
    ([.ready, .evqBase, .evqSize, .evqHead, .evqTail, .admqRing, .admqCq, .admqCfg].find? (fun r => 0x20000 + ctlOffset r == offset)).map .control
  else if 0x30000 ≤ offset ∧ offset < 0x40000 then some (.msixTable (offset - 0x30000))
  else if 0x1000000 ≤ offset ∧ offset < 0x2000000 ∧ offset % 4096 = 0 then some (.doorbell ((offset - 0x1000000) / 4096))
  else none

/-! ### Device control registers (R313) -/

/-- ADMQ_CFG (R313, R317): clearing [8] holds queue 0 and setting it starts the queue, with its head count unchanged. An entry count
outside 6 to 16 does not enable the queue (DESIGN CHOICE). -/
def State.admqCfg (s : State) (value : Nat) : State :=
  let a := s.hub.adm
  let on := bitN a.cfg.toNat 8
  if on then
    if bitN value 8 then s
    else
      (s.modHub (fun h => { h with adm := { h.adm with cfg := BitVec.ofNat 64 (bits a.cfg.toNat 4 0) } })).modQueue 0
        (fun k => { k with halted := true, tail := none })
  else
    let n := bits value 4 0
    let start : Bool := bitN value 8 && decide (6 ≤ n) && decide (n ≤ 16)
    let s := s.modHub (fun h => { h with adm := { h.adm with cfg := BitVec.ofNat 64 (n + (if start then 256 else 0)) } })
    if !start then s
    else
      let ring := ringPlace a.ring.toNat
      let cq := ringPlace a.cq.toNat
      match s.queue? 0 with
      | some k => s.setQueue 0 { k with halted := false, log2 := n, ring, cq }
      | none => s.setQueue 0 { admin := true, ctx := 0, log2 := n, ring, cq, shadow := none }

/-- ADMQ_CFG (R313). While configuration space does not answer, no write reaches it. -/
def execAdmqCfg (value : W64) (s : State) : Host.Outcome State Fault Refusal :=
  .next (if s.boot.cfgSpace then s.admqCfg value.toNat else s)

/-- A 64-bit value with only some fields kept (R13). -/
def keepFields (w : W64) (fields : List (Nat × Nat)) : W64 :=
  BitVec.ofNat 64 (fields.foldl (fun acc f => acc + bits w.toNat f.1 f.2 * 2 ^ f.2) 0)

/-- A write to a device control register (R12, R13, R313). EVQ_SIZE takes 0 and 6 to 16 (DESIGN CHOICE: other values are ignored). A
write to ADMQ_RING or ADMQ_CQ while ADMQ_CFG[8] is 1 changes the register; queue 0 goes on with the rings it took when [8] was set (DESIGN
CHOICE: R313 says that changes are ignored in the row of ADMQ_CFG only). Bits that a row leaves without a name are dropped and read 0 in
EVQ_BASE, EVQ_SIZE, EVQ_HEAD and ADMQ_CFG, whose row names the fields inside the register; a row that names the register whole, as the
dictionary's ELOG_BASE, keeps all of its bits (DESIGN CHOICE: R13 speaks of bits called Reserved only). -/
def State.registerWrite (s : State) (reg : CtlReg) (v : W64) : State :=
  let n := bits v.toNat 4 0
  match reg with
  | .ready | .evqTail => s
  | .evqBase => s.modHub (fun h => { h with evq := { h.evq with base := keepFields v [(63, 63), (51, 12)] } })
  | .evqSize =>
    if n = 0 ∨ (6 ≤ n ∧ n ≤ 16) then
      pumpEvents 65 (s.modHub (fun h => { h with evq := { h.evq with size := keepFields v [(4, 0)] } }))
    else s
  | .evqHead => pumpEvents 65 (s.modHub (fun h => { h with evq := { h.evq with head := keepFields v [(31, 0)] } }))
  | .admqRing => s.modHub (fun h => { h with adm := { h.adm with ring := keepFields v [(63, 63), (51, 12)] } })
  | .admqCq => s.modHub (fun h => { h with adm := { h.adm with cq := keepFields v [(63, 63), (51, 12)] } })
  | .admqCfg => s.admqCfg v.toNat
  | .msix vector dword => s.msixWrite vector.val dword.val (v.setWidth 32)

/-- REGISTER_WRITE (R313). -/
def execRegisterWrite (reg : CtlReg) (value : W64) (s : State) : Host.Outcome State Fault Refusal :=
  .next (if s.boot.cfgSpace then s.registerWrite reg value else s)

/-- What a read of a device control register returns (R313). -/
def State.registerRead (s : State) (reg : CtlReg) : W64 :=
  let b (x : Bool) : Nat := if x then 1 else 0
  match reg with
  | .ready => BitVec.ofNat 64 (b s.boot.queues + 2 * b s.boot.memory + 4 * b s.boot.links)
  | .evqBase => s.hub.evq.base
  | .evqSize => s.hub.evq.size
  | .evqHead => s.hub.evq.head
  | .evqTail => BitVec.ofNat 64 (b s.hub.evq.overflow * 2 ^ 63 + s.hub.evq.lost * 2 ^ 32 + s.hub.evq.written.toNat)
  | .admqRing => s.hub.adm.ring
  | .admqCq => s.hub.adm.cq
  | .admqCfg => s.hub.adm.cfg
  | .msix vector dword =>
    let e := Assoc.get {} s.hub.msix vector.val
    match dword.val with
    | 0 => BitVec.ofNat 64 (e.addr.toNat % 2 ^ 32)
    | 1 => BitVec.ofNat 64 (e.addr.toNat / 2 ^ 32)
    | 2 => e.data.setWidth 64
    | _ => BitVec.ofNat 64 (b e.masked)

/-! ### COMMAND_ACCEPT (R318, R319, R329) -/

/-- Commands of a queue that have been taken and are not complete. -/
def State.cmdsOf (s : State) (q : Nat) : List Cmd := (s.hub.cmds.filter (fun c => (refOfKey c.1).queue.val == q)).map (·.2)

/-- Has every earlier command of the queue started, and does no WAIT hold it (R318, R325, R365)? -/
def State.queueOpen (s : State) (q : Nat) : Bool :=
  (s.cmdsOf q).all (fun c => decide (c.st ≠ .accepted) && !(cmdOp c.words == 4 && c.ctx.isSome && c.st == .running)) && !s.haltDue q

/-- A command that names device memory (R446): page tables, rings, mirrors, objects, pools and windows. -/
def namesMemory (admin : Bool) (w : List W64) : Bool :=
  match cmdOp w with
  | 0x83 => !bitN (cmdWord w 2) 63 || !bitN (cmdWord w 3) 63 || !bitN (cmdWord w 4) 63
  | 0x86 => bitN (cmdWord w 3) 63 && !bitN (cmdWord w 3) 62
  | 0x80 | 0x8A | 0x8B | 0x8C | 0x8D | 0x8E | 0x8F | 0x90 | 0x91 => true
  | _ => !admin

/-- Device memory can no longer become ready at this start: a channel has failed, or the metadata key is absent (R446, R455). -/
def State.memoryLost (s : State) : Bool :=
  !s.boot.memory && ((s.boot.identity.isNone && decide (s.boot.state = 2)) ||
    s.chans.any (fun c => match c.2.train with | .failed _ => true | _ => false))

/-- What the recorded order says of a command of a replayed step (R381). -/
def Replay.orders (r : Replay) (q : Nat) (w : List W64) : Forced :=
  match r.cmds with
  | [] => .diverged
  | e :: rest =>
    if e.queue = q then
      if e.opcode = cmdOp w ∧ (cmdOp w ≠ 1 ∨ e.kernelId = (descOf w).kernelId) then .go else .diverged
    else if rest.any (fun x => x.queue == q) then .wait else .diverged

/-- The step key of the next command that the context accepts. -/
def State.nextKey (s : State) (ctx : Nat) : Nat := 2 * ctx + (if (s.boundaries ctx).isEmpty then 0 else 1)

/-- May the command start, as far as a journalled or replayed step and a boundary in progress go (R374, R381)? A second STEP_BOUNDARY of
a context waits for the first (DESIGN CHOICE). -/
def State.stepAllows (s : State) (ctx q : Nat) (w : List W64) : Bool :=
  let key := s.nextKey ctx
  let same : Bool := cmdOp w == 1 && cmdMapOk w && s.recording key && s.hub.cmds.any (fun c => c.2.ctx == some ctx &&
    (c.2.st == .accepted || c.2.st == .running) && (match c.2.dispatch with | some d => d.desc.kernelId == (descOf w).kernelId | none => false))
  let early : Bool := match s.replay? key with | some r => r.orders q w == .wait | none => false
  !same && !early && !(cmdOp w == 7 && !(s.boundaries ctx).isEmpty)

/-- A command of a replayed step is matched with its recorded entry (R381). -/
def State.takeCmd (s : State) (ctx q accept : Nat) (w : List W64) : State :=
  let key := s.nextKey ctx
  match s.replay? key with
  | none => s
  | some r =>
    match r.orders q w, r.cmds with
    | .go, e :: rest => s.modHub (fun h => { h with replays := Assoc.put h.replays key { r with cmds := rest, taken := Assoc.put r.taken accept e } })
    | _, _ => s.modHub (fun h => { h with replays := Assoc.put h.replays key { r with diverged := some (0, accept) } })

/-- Ring groups of a DISPATCH under free placement; 0 for another command. -/
def freeGroups (w : List W64) : Nat := if cmdOp w = 1 ∧ cmdMapOk w ∧ !bitN (cmdWord w 7) 0 then bits (cmdWord w 2) 63 32 else 0

/-- The entry of a command in the journal of its step (R377): `rings` is what its groups' bytes hold until they are placed. -/
def jrnEntry (q accept : Nat) (w : List W64) (rings : List Nat) : JrnCmd :=
  let disp : Bool := cmdOp w == 1 && cmdMapOk w
  { accept, queue := q, opcode := cmdOp w, kernelId := if disp then (descOf w).kernelId else 0, slots := freeGroups w, rings }

/-- A command is entered in the journal of its step. The spec names no value for the ring of a group that is never placed: it is free. -/
def State.jrnCommand (s : State) (key q accept : Nat) (w : List W64) : State :=
  if s.recording key then
    let (s, fill) := s.freeTake (freeGroups w)
    s.jrnMod key (fun j => { j with cmds := j.cmds ++ [jrnEntry q accept w (fill.map (·.toNat))] })
  else s

/-- The rings that a DISPATCH allows (R322). -/
def allowedRings (w : List W64) : List Nat :=
  let m := cmdWord w 4 + cmdWord w 5 * 2 ^ 64 + cmdWord w 6 * 2 ^ 128
  (List.range 192).filter (fun r => m == 0 || bitN m r)

/-- The progress record of an accepted DISPATCH (R157, R159, R322). -/
def newDispatch (w : List W64) (seed : W64) (ordinal : Nat) : DispatchSt :=
  let d := descOf w
  { desc := d, args := ((w.drop 12).take d.argWords).map (·.setWidth 32), groups := bits (cmdWord w 2) 63 32, rings := allowedRings w
    fixed := bitN (cmdWord w 7) 0, seed := mix (seed + BitVec.ofNat 64 ordinal) }

/-- A STEP_BOUNDARY is accepted: commands accepted from now on belong to the new step, with its seed, its journal and its replay
(R159, R253, R374, R380). -/
def State.openStep (s : State) (ctx : Nat) (w : List W64) : State :=
  match s.ctx? ctx with
  | none => s
  | some c =>
    let old := c.armed.bind (s.hub.heldStep? ctx)
    let seed := match old with
      | some j => j.seed
      | none => if bitN (cmdWord w 2) 0 then w.getD 1 0 else mix (c.seed + 1)
    let s := s.setCtx ctx { c with seed, dispatches := 0, armed := none }
    let s := match old with
      | some j =>
        let r : Replay := { ctx, step := j.step, cmds := j.cmds, runs := j.runs, colls := j.colls, records := j.records }
        s.modHub (fun h => { h with replays := Assoc.put h.replays (2 * ctx + 1) r })
      | none => s
    if bitN (cmdWord w 2) 1 then
      let j : JrnStep := { ctx, step := c.step + 1, seed, tags := [] }
      s.modHub (fun h => h.fitJournal (· == j) (h.journal ++ [j]))
    else s

/-- A norm collective. -/
def isNorm (w : List W64) : Bool := cmdOp w == 3 && bits (cmdWord w 3) 31 28 == 5

/-- A command of a context fails a check of R329: it does no work. A collective is counted as ended PARTIAL, with no byte of its destination in
its final value (R301, R306); a norm still has its block to write and sets the skip state, when its row runs (R255, R302). -/
def State.refuseCmd (s : State) (ref : CmdRef) (w : List W64) : State :=
  if isNorm w then s.modCmd ref (fun c => { c with cause := 10 })
  else if cmdOp w = 3 then ((s.malformed ref).modCmd ref (fun c => { c with firstFail := 0 })).countPartial 10
  else s.malformed ref

/-- A command of a context that device memory will never be ready for (R446). A collective is counted as ended PARTIAL (R306). -/
def State.unreachableCmd (s : State) (ref : CmdRef) (w : List W64) : State :=
  let s := s.modCmd ref (fun c => { c.finish 8 true with cause := 1, firstFail := if cmdOp w = 3 then 0 else c.firstFail })
  if cmdOp w = 3 then s.countPartial 1 else s

/-- The barker takes a command of a context: accept position, journal entry, checks (R319, R329, R332). -/
def State.acceptCtx (s : State) (ref : CmdRef) (ctx order : Nat) (w : List W64) (bad : Option Nat) : State :=
  match s.ctx? ctx with
  | none => s
  | some c =>
    let accept := c.accepts
    let key := s.nextKey ctx
    let ok : Bool := cmdHeaderOk false w && cmdMapOk w && s.handlesOk ctx w
    let s := s.setCtx ctx { c with accepts := accept + 1 }
    let s := (s.takeCmd ctx ref.queue.val accept w).jrnCommand key ref.queue.val accept w
    let s := s.setCmd ref (newCmd (some ctx) w order accept)
    let s := if isFlip w then s else s.modYard (fun y => { y with holders := insertNat ctx y.holders })
    if c.st ≠ .live then s.finishCmd ref 1 true
    else if s.memoryLost then s.unreachableCmd ref w
    else if !ok then s.refuseCmd ref w
    else match bad with
      | some va => s.cmdFault ref 3 va
      | none =>
        match cmdOp w with
        | 1 =>
          let s := s.modCtx ctx (fun x => { x with dispatches := x.dispatches + 1 })
          let d := newDispatch w c.seed c.dispatches
          -- a group that waits for a ring of its own ends the idleness of the ring's tent (R410)
          let s := if d.fixed then (List.range 8).foldl (fun (s : State) t =>
              if d.rings.any (fun r => tentOfRing r == t) then s.modIsland t (fun i => { i with idleSince := none }) else s) s
            else s
          s.modCmd ref (fun m => { m with dispatch := some d })
        | 7 => s.openStep ctx w
        | _ => s

/-- May the next fetched command of a queue start? Every earlier command of the queue has started, and a SERIAL one waits until all have
completed (R318); what it names has been read, device memory is ready for it or lost, and its step allows it. -/
def State.startable (s : State) (q : Nat) : Bool :=
  match s.queue? q with
  | none => false
  | some k =>
    match k.fetched with
    | [] => false
    | c :: _ =>
      !k.halted && !k.stopped && s.queueOpen q && (!cmdSerial c.words || (s.cmdsOf q).isEmpty) && decide (s.hub.cmds.length < 65536) &&
      (!namesMemory k.admin c.words || s.boot.memory || s.memoryLost) &&
      (k.admin || s.memoryLost || ((cmdLoaded c.words || c.bad.isSome) && s.stepAllows k.ctx q c.words))

/-- How far a queue stands from the next turn of the round (R318). The round goes through the queues in ascending number (DESIGN CHOICE). -/
def Hub.turnsAway (h : Hub) (q : Nat) : Nat := (q + 4096 - h.turn) % 4096

/-- Is it the queue's turn: no queue before it in the round has a command that could start (R318)? -/
def State.hasTurn (s : State) (q : Nat) : Bool :=
  s.hub.queues.all (fun k => !(s.startable k.1 && decide (s.hub.turnsAway k.1 < s.hub.turnsAway q)))

/-- COMMAND_ACCEPT (R318): the next fetched command of a queue starts, if it may and it is the queue's turn. -/
def State.accept (s : State) (q : QueueId) : State :=
  let s := s.loadFetched q.val
  if !s.startable q.val || !s.hasTurn q.val then s
  else
    match s.queue? q.val with
    | none => s
    | some k =>
      match k.fetched with
      | [] => s
      | c :: rest =>
        let ref : CmdRef := ⟨q, c.count⟩
        let s := (s.modQueue q.val (fun k => { k with fetched := rest })).modHub (fun h => { h with turn := (q.val + 1) % 4096 })
        let (s, order) := s.nextOrder
        if k.admin then
          let s := s.setCmd ref (newCmd none c.words order 0)
          if !(cmdHeaderOk true c.words && cmdMapOk c.words) then s.malformed ref
          else if namesMemory true c.words && !s.boot.memory then s.modCmd ref (fun c => { c.finish 8 false with cause := 1 })
          else s
        else s.acceptCtx ref k.ctx order c.words c.bad

/-- COMMAND_ACCEPT (R318). -/
def execCommandAccept (queue : QueueId) (s : State) : Host.Outcome State Fault Refusal := .next (s.accept queue)

/-! ### COMMAND_COMPLETE (R328, R347, R348) -/

/-- Nothing of a dispatch is left: groups, writes, copies, dirty lines (R323, R347). -/
def State.dispatchQuiet (s : State) (ref : CmdRef) : Bool :=
  s.rings.all (fun r => r.2.groups.all (fun g => g.cmd != ref) && r.2.writes.all (fun w => w.2.cmd != ref) &&
    r.2.dmaq.all (fun d => d.cmd != ref) && r.2.combiner.all (fun c => c.cmd != ref) && r.2.satoms.all (fun c => c.cmd != ref) &&
    r.2.l1.all (fun l => l.2.loc != some ref || l.2.dirty == 0)) &&
  s.tents.all (fun t => t.2.engines.all (fun e => !(e.2.dmaq && e.2.cmd == ref)))

/-- Ring groups of a dispatch that can still be placed (R68). -/
def State.canPlace (s : State) (d : DispatchSt) : Bool := decide (d.next < d.groups) && !(s.allowedNow d).isEmpty

/-- A running DISPATCH whose last troupe has ended finishes: with success, or LOAD_REFUSED and resource code 0x07 when ring groups were left
that no ring may take (R68, R323). -/
def State.endDispatch (s : State) (ref : CmdRef) : State :=
  match s.cmd? ref with
  | some c =>
    match c.dispatch with
    | some d =>
      if c.st = .running ∧ d.live = 0 ∧ !s.canPlace d ∧ s.dispatchQuiet ref then
        if d.next < d.groups then s.setCmd ref { c.finish 2 false with resource := 7 } else s.finishCmd ref 0 false
      else s
    | none => s
  | none => s

/-- The completion record of R328, as four words. -/
def Cmd.record (c : Cmd) : List W64 :=
  let b (x : Bool) : Nat := if x then 1 else 0
  [BitVec.ofNat 64 (c.status * 2 ^ 56 + c.resource * 2 ^ 48 + b c.skipped * 2 ^ 47 + b c.errSeen * 2 ^ 46 + 2 ^ 45
      + bits (cmdWord c.words 0) 47 32 * 2 ^ 16),
   c.partMap, c.firstFail, BitVec.ofNat 64 (b c.pred * 2 ^ 63 + c.cause % 2 ^ 15 * 2 ^ 48 + c.accept % 2 ^ 48)]

/-- Are writes of the completion steps of a command still to be performed? -/
def State.stepWrites (s : State) (ref : CmdRef) : Bool :=
  s.writers.any (fun w => match w with | .vector _ r => r == some ref | _ => false)

/-- Are the writes that a finished command covers performed (R347)? -/
def State.covered (s : State) (ref : CmdRef) (c : Cmd) : Bool :=
  !s.writesLeft (.command ref) && !s.stepWrites ref && decide (c.outstanding = 0) && (c.dispatch.isNone || s.dispatchQuiet ref)

/-- Step 2 of R348: the completion record, at the index of the command's slot; an admin completion raises vector 1 (R314). -/
def State.writeRecord (s : State) (ref : CmdRef) (c : Cmd) : State :=
  match s.queue? ref.queue.val with
  | none => s
  | some k =>
    s.writePlace k.cq.host (k.cq.addr + 32 * (ref.count.toNat % 2 ^ k.log2)) (c.record.flatMap (fun w => leBytes 8 w.toNat))
      (.vector (if k.admin then some 1 else none) (some ref))

/-- Step 6 of R348: the event record that a completion causes, and the command is complete. -/
def State.closeCmd (s : State) (ref : CmdRef) (c : Cmd) : State :=
  let q := ref.queue.val
  let s := (s.modHub (fun h => { h with cmds := Assoc.del h.cmds (cmdKey ref) })).forgetAnswers (· == .cmd ref)
  if c.ctx.isSome then
    if cmdOp c.words = 4 ∧ c.errSeen ∧ bitN (cmdWord c.words 3) 2 then
      (s.modQueue q (fun k => { k with halted := true })).event [BitVec.ofNat 64 (5 * 2 ^ 56), BitVec.ofNat 64 q]
    else s
  else if cmdOp c.words = 0x84 ∧ c.status = 0 ∧ bits (cmdWord c.words 1) 63 52 = q then
    s.modHub (fun h => { h with queues := Assoc.del h.queues q })
  else if cmdOp c.words = 0x82 ∧ c.status = 0 ∧ c.halt then
    s.event [BitVec.ofNat 64 (4 * 2 ^ 56), BitVec.ofNat 64 (bits (cmdWord c.words 1) 63 54)]
  else s

/-- COMMAND_COMPLETE (R348): each step is taken as soon as the one before it is performed. -/
def State.complete (s : State) (ref : CmdRef) : State :=
  let s := s.endDispatch ref
  match s.cmd? ref with
  | none => s
  | some c =>
    let s := match c.st with
      | .finished => if s.covered ref c then (s.setCmd ref { c with st := .recording 0 }).writeRecord ref c else s
      | _ => s
    let s := match s.cmd? ref with
      | some c =>
        if c.st = CmdSt.recording 0 ∧ !s.stepWrites ref then
          let s := s.setCmd ref { c with st := .recording 1 }
          match c.ctx with
          | some ctx => s.signalHandle ctx (cmdPhase c.words) c.handle false c.inc c.err (some ref)
          | none => s
        else s
      | none => s
    match s.cmd? ref with
    | some c => if c.st = CmdSt.recording 1 ∧ !s.stepWrites ref then s.closeCmd ref c else s
    | none => s

/-- COMMAND_COMPLETE (R348). -/
def execCommandComplete (ref : CmdRef) (s : State) : Host.Outcome State Fault Refusal := .next (s.complete ref)

/-- Run a command's own row: the command has been accepted, has not run, and has the opcode. A command of a context that is no longer Live
completes with CONTEXT_LOST (R332, R341). -/
def State.runCmd (s : State) (ref : CmdRef) (op : Nat) (sel : List W64 → Bool) (f : Cmd → State) : State :=
  match s.cmd? ref with
  | none => s
  | some c =>
    if c.st ≠ .accepted ∨ cmdOp c.words ≠ op ∨ !sel c.words ∨ c.ctx.isSome != decide (op < 0x80) then s
    else match c.ctx with
      | some ctx => if s.ctxLive ctx then f c else s.finishCmd ref 1 true
      | none => f c

/-- As `runCmd`, for a row that goes on in later steps until what it waits for has come. -/
def State.runCmdOn (s : State) (ref : CmdRef) (op : Nat) (sel : List W64 → Bool) (f : Cmd → State) : State :=
  match s.cmd? ref with
  | none => s
  | some c => if c.st = .running ∧ cmdOp c.words = op ∧ sel c.words ∧ c.ctx.isSome == decide (op < 0x80) then
      (match c.ctx with
       | some ctx => if s.ctxLive ctx then f c else s.finishCmd ref 1 true
       | none => f c)
    else s.runCmd ref op sel f

/-- No further choice between rows of one opcode. -/
def anyWords : List W64 → Bool := fun _ => true

end Sys2Proof.Machine
end

