-- ==== Sys2Proof/Machine/Commands.lean ====
section
/-!
DEFINITION. The plain commands of a context: DISPATCH, COPY, WAIT, SIGNAL, INVALIDATE, QUERY, ALLOC and FREE (R67, R101, R204, R256, R321
to R326, R339, R343).
-/

namespace Sys2Proof.Machine

/-! ### DISPATCH (R67, R256, R322) -/

/-- The load-time check of R67: the resource code of the first test that fails, or 0. -/
def State.loadCheck (s : State) (d : DispatchSt) : Nat :=
  let k := d.desc
  let p := ceilDiv k.troupes 4
  if !k.encodingOk then 1
  else if 4 < k.l1 then 2
  else if 640 - 64 * k.l1Units < k.scratch then 3
  else if 16 / slotsOfWidth k.width < p then 4
  else if 65536 < p * k.width * k.alloc then 5
  else if 16 < p * k.accUnits then 6
  else if (s.allowedNow d).isEmpty then 7
  else 0

/-- DISPATCH (R322): the load-time check, then the skip test, then the ring groups may be placed. -/
def State.dispatch (s : State) (ref : CmdRef) (c : Cmd) : State :=
  match c.dispatch with
  | none => s
  | some d =>
    let code := s.loadCheck d
    let skip : Bool := match c.ctx with | some x => bitN (cmdWord c.words 0) 52 && ((s.ctx? x).map (·.skip)).getD false | none => false
    if code ≠ 0 then s.setCmd ref { c.finish 2 false with resource := code, dispatch := none }
    else if skip then s.setCmd ref { c.finish 0 false with skipped := true, dispatch := none }
    else s.setCmd ref { c with st := .running }

/-- DISPATCH (R322). -/
def execDispatch (ref : CmdRef) (s : State) : Host.Outcome State Fault Refusal := .next (s.runCmd ref 1 anyWords (s.dispatch ref))

/-! ### COPY (R169, R324) -/

/-- The tent whose engines run a COPY (R324); a destination that has no translation gives tent 0 (DESIGN CHOICE). -/
def State.copyTent (s : State) (ctx : Nat) (w : List W64) : State × Option Nat :=
  let dst := cmdWord w 2
  if bitN (cmdWord w 4) 3 then (s, some (bits (cmdWord w 4) 2 0))
  else if bitN dst 62 then (s, some 0)
  else
    match s.translate 0 ctx dst true with
    | (s, .ok p) => (s, some (if p.host then 0 else homeTent (ellOfGrain p.grain)))
    | (s, .fault) => (s, some 0)
    | (s, .held) => (s, none)

/-- COPY: the copy waits for an engine of its tent. -/
def State.copyCommand (s : State) (ref : CmdRef) (c : Cmd) : State :=
  let ctx := c.ctx.getD 0
  match s.copyTent ctx c.words with
  | (s, none) => s
  | (s, some t) =>
    let op : CopyOp :=
      { ctx, cmd := ref, dmaq := false, phase := cmdPhase c.words, src := copyEnd 0 0 0 (cmdWord c.words 1)
        dst := copyEnd 0 0 0 (cmdWord c.words 2), len := cmdWord c.words 3, handle := c.handle, inc := c.inc, order := c.order }
    (s.setCmd ref { c with st := .running }).modTent t (fun x => { x with copyq := x.copyq ++ [op] })

/-- COPY (R324). -/
def execCopyCommand (ref : CmdRef) (s : State) : Host.Outcome State Fault Refusal := .next (s.runCmd ref 2 anyWords (s.copyCommand ref))

/-! ### WAIT and SIGNAL (R92, R325) -/

/-- WAIT: it holds its queue until the counter reaches VALUE or the error bit is set. -/
def State.waitCommand (s : State) (ref : CmdRef) (c : Cmd) : State :=
  match s.waitEnd (c.ctx.getD 0) (bits (cmdWord c.words 1) 31 0) (c.words.getD 2 0) with
  | none => s.setCmd ref { c with st := .running }
  | some e => s.setCmd ref { c.finish 0 false with errSeen := e }

/-- WAIT (R325). -/
def execWaitCommand (ref : CmdRef) (s : State) : Host.Outcome State Fault Refusal := .next (s.runCmd ref 4 anyWords (s.waitCommand ref))

/-- SIGNAL: MODE is bit 0 of the flags, the error bit is set by bit 1. -/
def State.signalCommand (s : State) (ref : CmdRef) (c : Cmd) : State :=
  let f := cmdWord c.words 3
  (s.signalHandle (c.ctx.getD 0) (cmdPhase c.words) (BitVec.ofNat 32 (cmdWord c.words 1)) (bitN f 0) (c.words.getD 2 0) (bitN f 1)
    (some ref)).finishCmd ref 0 false

/-- SIGNAL (R325). -/
def execSignalCommand (ref : CmdRef) (s : State) : Host.Outcome State Fault Refusal := .next (s.runCmd ref 5 anyWords (s.signalCommand ref))

/-! ### INVALIDATE (R204, R326) -/

/-- Drop a ring's .G lines; loads in flight bring none in. -/
def Ring.dropGlobal (r : Ring) : Ring :=
  { r with l1 := r.l1.filter (fun l => l.2.loc.isSome)
           loads := Assoc.mapVals (fun _ (o : LoadOp) => if o.loc.isNone then { o with l1 := [] } else o) r.loads }

/-- Does a host ell lie in a range of host addresses? -/
def hostIn (base len ell : Nat) : Bool :=
  isHostEll ell && decide ((ell - hostEll) * 1024 < base + len) && decide (base < (ell - hostEll) * 1024 + 1024)

/-- Free the host-ell frames of a range. -/
def Tent.dropHost (t : Tent) (base len : Nat) : Tent :=
  t.filterFrames (fun f =>
    match f.2.kind with
    | .ells l =>
      let l := l.filter (fun c => !hostIn base len c.ell)
      if l.isEmpty then none else some (f.1, { f.2 with kind := .ells l })
    | _ => some f)

/-- INVALIDATE: it waits until no fill of a host ell of the range is under way (DESIGN CHOICE), then acts on its scopes. -/
def State.invalidate (s : State) (ref : CmdRef) (c : Cmd) : State :=
  let scope := cmdWord c.words 1
  let base := cmdWord c.words 2
  let len := cmdWord c.words 3
  if bitN scope 1 && s.tents.any (fun t => t.2.miss.any (fun m => hostIn base len m.2.ell)) then s
  else
    let s := if bitN scope 0 then
        { s with rings := Assoc.mapVals (fun _ (r : Ring) => if r.groups.any (fun g => some g.ctx == c.ctx) then r.dropGlobal else r) s.rings }
      else s
    let s := if bitN scope 1 then { s with tents := Assoc.mapVals (fun _ (t : Tent) => t.dropHost base len) s.tents } else s
    s.finishCmd ref 0 false

/-- INVALIDATE (R204). -/
def execInvalidate (ref : CmdRef) (s : State) : Host.Outcome State Fault Refusal := .next (s.runCmd ref 6 anyWords (s.invalidate ref))

/-! ### QUERY (R343) -/

/-- Lengths of the objects that a context maps. -/
def Hub.resident (h : Hub) (ctx : Nat) : Nat :=
  let mine := h.objs.filter (fun o => o.2.mappings.contains ctx || (o.2.ownMapping && o.2.ctx == ctx))
  (mine.map (fun o => 65536 * o.2.runs.total)).foldl (· + ·) 0

/-- Bytes of bushel frames tagged with a key slot. -/
def State.occupancy (s : State) (key : Nat) : Nat :=
  let n (t : Tent) : Nat := (t.frames.filter (fun f => match f.2.kind with
    | .ells l => l.any (fun c => !isHostEll c.ell && c.owner == key)
    | .red r => r.key == key
    | _ => false)).length
  1024 * (s.tents.map (fun t => n t.2)).foldl (· + ·) 0

/-- Reduction ells of a context. -/
def State.redElls (s : State) (ctx : Nat) : Nat :=
  (s.tents.map (fun t => (t.2.frames.filter (fun f => match f.2.kind with | .red r => r.ctx == ctx | _ => false)).length)).foldl (· + ·) 0

/-- The 32 words of the QUERY record; zeros for a Free context. -/
def State.queryWords (s : State) (ctx : Nat) : List W64 :=
  match s.ctx? ctx with
  | none => List.replicate 32 0
  | some c =>
    let b (x : Bool) : Nat := if x then 1 else 0
    let lost : Bool := decide (c.st ≠ .live)
    let sat (n : Nat) : W64 := BitVec.ofNat 64 (min n (2 ^ 64 - 1))
    [c.step, BitVec.ofNat 64 (b c.nf + 2 * b c.deadRead + 4 * b lost + 8 * b c.skip + 16 * b c.stepNf +
        (if lost then ((c.fault.map (·.code)).getD 0) * 256 else 0)),
     c.satCount, c.skipped, c.outOfRange, c.remoteFails, sat (s.hub.resident ctx), sat (s.occupancy c.keySlot), sat (s.redElls ctx), sat c.accepts] ++
    (List.range 5).flatMap (fun p =>
      let x := Assoc.get {} c.phases p
      [sat x.slots, sat x.rows, sat x.linkBytes, sat x.copyBytes]) ++ [0, 0]

/-- Has every command of the context accepted before a position started? -/
def State.startedBefore (s : State) (ctx accept : Nat) : Bool :=
  s.hub.cmds.all (fun c => c.2.ctx != some ctx || decide (accept ≤ c.2.accept) || decide (c.2.st ≠ .accepted))

/-- QUERY: the record is taken once every command accepted before it has started. That of a Lost context shows its fault, and completes with
CONTEXT_LOST (R332, R334). -/
def State.query (s : State) (ref : CmdRef) (c : Cmd) : State :=
  let ctx := c.ctx.getD 0
  if !s.startedBefore ctx c.accept then s
  else
    let va := bits (cmdWord c.words 1) 56 0
    let lost : Bool := !s.ctxLive ctx
    match s.writeVa 0 ctx va ((s.queryWords ctx).flatMap (fun w => leBytes 8 w.toNat)) (.command ref) with
    | (s, .held) => s
    | (s, .fault) => if lost then s.finishCmd ref 1 true else s.cmdFault ref 3 va
    | (s, .ok _) => if lost then s.finishCmd ref 1 true else s.finishCmd ref 0 false

/-- Is it a QUERY that has not run, of a Lost context (R334)? -/
def State.queryOfLost (s : State) (c : Cmd) : Bool :=
  c.st == .accepted && cmdOp c.words == 8 && (c.ctx.bind s.ctx?).any (fun x => x.st == .lost)

/-- QUERY (R343). -/
def execQuery (ref : CmdRef) (s : State) : Host.Outcome State Fault Refusal :=
  .next (match s.cmd? ref with
    | some c => if s.queryOfLost c then s.query ref c else s.runCmd ref 8 anyWords (s.query ref)
    | none => s)

/-! ### ALLOC and FREE (R101, R321, R339) -/

/-- ALLOC: the address, or 0, is written at the VA of word 3. -/
def State.allocCommand (s : State) (ref : CmdRef) (c : Cmd) : State :=
  let ctx := c.ctx.getD 0
  let va := bits (cmdWord c.words 3) 56 0
  match s.copyPlan 0 ctx va 0 (List.replicate 8 0) with
  | (s, .held) => s
  | (s, .fault _ a) => s.cmdFault ref 3 a
  | (s, .ok _) =>
    match s.allocate (.cmd ref) ctx (bits (cmdWord c.words 2) 3 0) (cmdWord c.words 1) with
    | (s, none) => s
    | (s, some a) => ((s.writeVa 0 ctx va (leBytes 8 (a.getD 0)) (.command ref)).1).finishCmd ref 0 false

/-- ALLOC_COMMAND (R339). -/
def execAllocCommand (ref : CmdRef) (s : State) : Host.Outcome State Fault Refusal := .next (s.runCmd ref 9 anyWords (s.allocCommand ref))

/-- FREE: the record carries R101's predicate. -/
def State.freeCommand (s : State) (ref : CmdRef) (c : Cmd) : State :=
  match s.freeAt (c.ctx.getD 0) (cmdWord c.words 1) with
  | (s, ok) => s.setCmd ref { c.finish 0 false with pred := ok }

/-- FREE_COMMAND (R321). -/
def execFreeCommand (ref : CmdRef) (s : State) : Host.Outcome State Fault Refusal := .next (s.runCmd ref 10 anyWords (s.freeCommand ref))

end Sys2Proof.Machine
end

