-- ==== Sys2Proof/Machine/Contexts.lean ====
section
/-!
DEFINITION. The admin commands over contexts, queues and turnstiles (R159, R231, R232, R246, R249, R321, R331, R332, R335 to R337, R341,
R342).
-/

namespace Sys2Proof.Machine

/-! ### CTX_CREATE and CTX_SET (R321, R331) -/

/-- Weighmaster entries of a tent that contexts hold (R246). -/
def Hub.tagsUsed (h : Hub) : Nat := (h.ctxs.map (fun c => c.2.tagCount)).foldl (· + ·) 0

/-- The context that CTX_CREATE makes, before its tags are read: step 0 opens with no seed supplied (R159). -/
def newCtx (w : List W64) : Ctx :=
  let a := cmdWord w 1
  let b := cmdWord w 2
  { keySlot := bits a 53 42, ptRoot := bits a 41 0, nfTrap := bitN b 63, deadFault := bitN b 62, driverMap := bitN b 61
    tagCount := bits b 60 48, tagCfgVa := bits (cmdWord w 3) 56 0, tagRecVa := bits (cmdWord w 4) 56 0, tagDecVa := bits (cmdWord w 5) 56 0
    seed := mix (0 + 1) }

/-- The first e_ref of every tag (R249): `none` while a grain is awaited. A table that cannot be read gives the default (DESIGN CHOICE). -/
def State.readErefs (s : State) (ref : CmdRef) (ctx : Nat) (c : Ctx) : State × Option (FMap Int) :=
  let n := c.tagCount
  if n = 0 then (s, some [])
  else
    match s.readVa (.cmd ref) 0 ctx c.tagCfgVa (8 * n) with
    | (s, .held) => (s, none)
    | (s, .fault) => (s, some [])
    | (s, .ok bs) =>
      (s, some ((List.range n).map (fun i => (i, ((tagCfg (leNat ((bs.drop (8 * i)).take 8))).eRef0 : Int) - 127))))

/-- A key slot becomes Live with new random keys (R224, R231). -/
def State.openKey (s : State) (k : Nat) : State :=
  let (s, k1) := s.freeW128
  let (s, k2) := s.freeW128
  let (s, k3) := s.freeW128
  s.setKeySlot k { s.hub.keySlot k with st := .live, k1, k2, k3 }

/-- A context whose TAG records could not be read yet is not made: only what the reads themselves did stays. -/
def State.undoCreate (s s' : State) (n : Nat) : State :=
  ({ s' with
      hub := { s'.hub with ctxs := Assoc.del s'.hub.ctxs n, keySlots := s.hub.keySlots }, free := s.free
      tents := Assoc.mapVals (fun _ (t : Tent) => { t with tlb := t.tlb.filter (fun e => e.ctx != n) }) s'.tents }).modYard
    (fun y => { y with totals := s.yard.totals })

/-- CTX_CREATE (R331). A slot whose generation has reached its ceiling waits for the save of the new one (R232). -/
def State.ctxCreate (s : State) (ref : CmdRef) (c : Cmd) : State :=
  let n := bits (cmdWord c.words 1) 63 54
  let x := newCtx c.words
  let k := s.hub.keySlot x.keySlot
  if (s.ctx? n).isSome ∨ k.st ≠ .free ∨ 4096 < x.tagCount ∨ 8192 < s.hub.tagsUsed + x.tagCount then s.malformed ref
  else if k.ceiling ≤ k.gen then s
  else
    let born := ((s.openKey x.keySlot).setCtx n x).modYard (fun y => { y with totals := Assoc.del y.totals n })
    match born.readErefs ref n x with
    | (s', some m) => (s'.modCtx n (fun y => { y with eref := m })).finishCmd ref 0 false
    | (s', none) => s.undoCreate s' n

/-- CTX_CREATE (R331). -/
def execCtxCreate (ref : CmdRef) (s : State) : Host.Outcome State Fault Refusal := .next (s.runCmd ref 0x80 anyWords (s.ctxCreate ref))

/-- CTX_SET: NF_TRAP and DEAD_FAULT of a context that is not Free. -/
def State.ctxSet (s : State) (ref : CmdRef) (c : Cmd) : State :=
  let n := bits (cmdWord c.words 1) 63 54
  let b := cmdWord c.words 2
  if (s.ctx? n).isNone then s.malformed ref
  else (s.modCtx n (fun x => { x with nfTrap := bitN b 63, deadFault := bitN b 62 })).finishCmd ref 0 false

/-- CTX_SET (R321). -/
def execCtxSet (ref : CmdRef) (s : State) : Host.Outcome State Fault Refusal := .next (s.runCmd ref 0x81 anyWords (s.ctxSet ref))

/-! ### Teardown (R341, R342) -/

/-- Drop a window: its references on objects go (R338). -/
def State.dropWindow (s : State) (n : Nat) : State :=
  match Assoc.find? s.hub.windows n with
  | none => s
  | some w =>
    let s := s.modHub (fun h => { h with windows := Assoc.del h.windows n })
    w.objs.foldl (fun (s : State) o => s.modObj o (fun x => { x with windows := x.windows - 1 })) s

/-- Step 6 of R341: mapping references, windows and handle-table entries are dropped, and pools return what no object holds. -/
def State.dropHoldings (s : State) (n : Nat) : State :=
  let s := ((s.hub.windows.filter (fun w => w.2.ctx == n)).map (·.1)).foldl State.dropWindow s
  let held := (s.hub.objs.filter (fun o => o.2.mappings.contains n || (o.2.ownMapping && o.2.ctx == n))).map (·.1)
  let s := held.foldl (fun (s : State) o => s.modObj o (fun x =>
    { x with mappings := x.mappings.filter (fun m => m != n), ownMapping := x.ownMapping && x.ctx != n })) s
  let s := s.modCtx n (fun c => { c with handles := [], pools := [] })
  s.freeTurns.wake

/-- CTX_TEARDOWN (R332, R341): every step not yet run is run, but for step 7. -/
def State.teardown (s : State) (n : Nat) : State :=
  match s.ctx? n with
  | none => s
  | some c =>
    match c.st with
    | .tearing => s
    | .lost => (s.setCtx n { c with st := .tearing }).dropHoldings n
    | .live => (((s.setCtx n { c with st := .tearing }).lossSteps n 1 none false)).dropHoldings n

/-- The command CTX_TEARDOWN waits for step 7. -/
def State.ctxTeardown (s : State) (ref : CmdRef) (c : Cmd) : State :=
  let n := bits (cmdWord c.words 1) 63 54
  if (s.ctx? n).isNone then s.malformed ref
  else
    let s := s.setCmd ref { c with st := .running }
    (s.modHub (fun h => { h with teardowns := h.teardowns ++ [(ref, n)] })).teardown n

/-- CTX_TEARDOWN (R341). -/
def execCtxTeardown (ref : CmdRef) (s : State) : Host.Outcome State Fault Refusal := .next (s.runCmd ref 0x82 anyWords (s.ctxTeardown ref))

/-- Does anything of a torn-down context still run: copies, troupes, writes on their way, commands (R341)? -/
def State.ctxBusy (s : State) (n : Nat) : Bool :=
  s.tents.any (fun t => t.2.engines.any (fun e => e.2.ctx == n) || t.2.copyq.any (fun c => c.ctx == n)) ||
  s.rings.any (fun r => r.2.groups.any (fun g => g.ctx == n) || r.2.writes.any (fun w => w.2.ctx == n)) ||
  s.hub.cmds.any (fun c => c.2.ctx == some n)

/-- A ring that the context held is free: weight slots, lines, streams, and the state kept for the debugger go (R62, R163, R200). -/
def Ring.release (r : Ring) (n : Nat) : Ring :=
  if r.ctx = some n then
    { r with ctx := none, wslots := [], l1 := [], streams := [], debug := false
             booths := Assoc.mapVals (fun _ (y : Booth) => { y with kept := y.kept.filter (fun t => t.ctx != n) }) r.booths }
  else r

/-- The context becomes Free: what named it names no context any longer. -/
def State.freeCtx (s : State) (n : Nat) : State :=
  let h := s.hub
  let turns := Assoc.mapVals (fun _ (t : Turn) => if t.owner = n then { t with owner := 1024 } else t) h.turns
  let objs := Assoc.mapVals (fun _ (o : Obj) => if o.ctx = n then { o with ctx := 1024 } else o) h.objs
  let hub := { h with ctxs := Assoc.del h.ctxs n, turns, objs, teardowns := h.teardowns.filter (fun t => t.2 != n)
                      journal := h.journal.map (fun j => if j.ctx = n ∧ !j.complete then { j with closed := true } else j)
                      replays := h.replays.filter (fun r => r.1 / 2 != n), drainMap := h.drainMap.filter (fun d => d.2.ctx != n) }
  { s with
      hub
      dict := { s.dict with tenantKeys := Assoc.del s.dict.tenantKeys n
                            sessions := s.dict.sessions.filter (fun p => !(p.2.cls == 1 && p.2.ctx == n)) }
      rings := Assoc.mapVals (fun _ (r : Ring) => r.release n) s.rings
      tents := Assoc.mapVals (fun _ (t : Tent) => { t with tlb := t.tlb.filter (fun e => e.ctx != n) }) s.tents }

/-- Step 7 of R341 for a Tearing context with nothing left running: its key slot is Condemned or freed, it becomes Free, its CTX_TEARDOWN
commands complete, and the first of them is followed by event record 0x04; without a command the record is written at once. -/
def State.teardownDone (s : State) (n : Nat) : State :=
  match s.ctx? n with
  | none => s
  | some c =>
    if c.st ≠ .tearing ∨ s.ctxBusy n then s
    else
      let k := c.keySlot
      let mine := s.hub.filter.filter (fun e => e.key == k)
      let left : Bool := s.hub.objs.any (fun o => o.2.key == k)
      let snooping : Bool := mine.any (fun e => s.hub.snoops.any (fun x => x.grain == e.grain))
      if snooping then s
      else if !left && !mine.isEmpty then mine.foldl (fun (s : State) e => s.snoop e.grain true) s
      else
        let s := s.setKeySlot k { s.hub.keySlot k with st := .condemned }
        let s := if left then s else s.freeKey k
        let refs := (s.hub.teardowns.filter (fun t => t.2 == n)).map (·.1)
        let s := s.freeCtx n
        match refs with
        | [] => s.event [BitVec.ofNat 64 (4 * 2 ^ 56), BitVec.ofNat 64 n]
        | r :: _ => refs.foldl (fun (s : State) x => s.modCmd x (fun c => { c.finish 0 false with halt := x == r })) s

/-- TEARDOWN_COMPLETE (R341). -/
def execTeardownComplete (ctx : CtxId) (s : State) : Host.Outcome State Fault Refusal := .next (s.teardownDone ctx.val)

/-! ### Queues (R315, R316, R321) -/

/-- QUEUE_CREATE: queue 0 is set through R313 instead; queues 1 to 15 are admin queues, the others queues of a Live context. -/
def State.queueCreate (s : State) (ref : CmdRef) (c : Cmd) : State :=
  let a := cmdWord c.words 1
  let q := bits a 63 52
  let ctx := bits a 51 42
  let admin := bitN a 41
  let mine := s.hub.queues.filter (fun k => !k.2.admin && k.2.ctx == ctx)
  let d := cmdWord c.words 4
  if q = 0 ∨ (s.queue? q).isSome ∨ admin != decide (q < 16) ∨ (!admin ∧ (!s.ctxLive ctx ∨ 256 ≤ mine.length)) then s.malformed ref
  else
    (s.setQueue q { admin, ctx := if admin then 0 else ctx, log2 := bits a 40 36, ring := ringPlace (cmdWord c.words 2)
                    cq := ringPlace (cmdWord c.words 3), shadow := some ⟨bitN d 63, bits d 51 3 * 8⟩ }).finishCmd ref 0 false

/-- QUEUE_CREATE (R321). -/
def execQueueCreate (ref : CmdRef) (s : State) : Host.Outcome State Fault Refusal := .next (s.runCmd ref 0x83 anyWords (s.queueCreate ref))

/-- QUEUE_DESTROY: it completes once every command fetched from the queue has completed; a queue that destroys itself goes with its own
completion. -/
def State.queueDestroy (s : State) (ref : CmdRef) (c : Cmd) : State :=
  let q := bits (cmdWord c.words 1) 63 52
  let own : Bool := q == ref.queue.val
  match s.queue? q with
  | none => s.malformed ref
  | some k =>
    if q = 0 then s.malformed ref
    else
      let s := (s.setQueue q { k with destroying := true, tail := none }).forgetSlots q
      let s := s.setCmd ref { c with st := .running }
      let left := (s.cmdsOf q).length - (if own then 1 else 0)
      if left ≠ 0 ∨ !k.fetched.isEmpty then s
      else
        let s := if own then s else s.modHub (fun h => { h with queues := Assoc.del h.queues q })
        s.finishCmd ref 0 false

/-- QUEUE_DESTROY (R321). -/
def execQueueDestroy (ref : CmdRef) (s : State) : Host.Outcome State Fault Refusal := .next (s.runCmdOn ref 0x84 anyWords (s.queueDestroy ref))

/-- QUEUE_RESUME: the queue's halt ends, and it fetches what its last doorbell covers (R325). Queue 0 stays held while ADMQ_CFG[8] is 0. -/
def State.queueResume (s : State) (ref : CmdRef) (c : Cmd) : State :=
  let q := bits (cmdWord c.words 1) 63 52
  if (s.queue? q).isNone then s.malformed ref
  else if q = 0 ∧ !bitN s.hub.adm.cfg.toNat 8 then s.finishCmd ref 0 false
  else ((s.modQueue q (fun k => { k with halted := false })).fetchQueue q).finishCmd ref 0 false

/-- QUEUE_RESUME (R321). -/
def execQueueResume (ref : CmdRef) (s : State) : Host.Outcome State Fault Refusal := .next (s.runCmd ref 0x85 anyWords (s.queueResume ref))

/-! ### Turnstiles and handles (R335 to R337) -/

/-- TURN_CREATE: the owner's handle carries both rights; the mirror is written once, without a vector. -/
def State.turnCreate (s : State) (ref : CmdRef) (c : Cmd) : State :=
  let a := cmdWord c.words 1
  let n := bits a 63 51
  let owner := bits a 50 41
  let handle := bits a 8 0
  let m := cmdWord c.words 3
  match s.ctx? owner with
  | none => s.malformed ref
  | some x =>
    if x.st ≠ .live ∨ (Assoc.find? s.hub.turns n).isSome ∨ (Assoc.find? x.handles handle).isSome then s.malformed ref
    else
      let t : Turn := { owner, count := c.words.getD 2 0, mirror := if bitN m 63 then some ⟨bitN m 62, bits m 51 4 * 16⟩ else none
                        vector := bits (cmdWord c.words 4) 11 0 }
      let s := s.setCtx owner { x with handles := Assoc.put x.handles handle { remote := false, wait := true, signal := true, turn := n } }
      let s := s.modHub (fun h => { h with turns := Assoc.put h.turns n t })
      (s.mirror t true (some ref)).finishCmd ref 0 false

/-- TURN_CREATE (R335). -/
def execTurnCreate (ref : CmdRef) (s : State) : Host.Outcome State Fault Refusal := .next (s.runCmd ref 0x86 anyWords (s.turnCreate ref))

/-- TURN_GRANT: a handle-table entry that was empty. -/
def State.turnGrant (s : State) (ref : CmdRef) (c : Cmd) : State :=
  let n := bits (cmdWord c.words 1) 63 54
  let handle := bits (cmdWord c.words 1) 8 0
  let b := cmdWord c.words 2
  let e : Handle := { remote := bitN b 63, wait := bitN b 62, signal := bitN b 61, turn := bits b 12 0, dev := if bitN b 63 then bits b 24 13 else 0 }
  match s.ctx? n with
  | none => s.malformed ref
  | some x =>
    if x.st ≠ .live ∨ (Assoc.find? x.handles handle).isSome ∨ (e.remote ∧ e.wait) ∨ (!e.remote ∧ (Assoc.find? s.hub.turns e.turn).isNone) then
      s.malformed ref
    else (s.setCtx n { x with handles := Assoc.put x.handles handle e }).finishCmd ref 0 false

/-- TURN_GRANT (R336). -/
def execTurnGrant (ref : CmdRef) (s : State) : Host.Outcome State Fault Refusal := .next (s.runCmd ref 0x87 anyWords (s.turnGrant ref))

/-- The device that an export names: every device of the domain, or one. -/
def exportTarget (a : Nat) : Option Nat := if bitN a 12 then none else some (bits a 11 0)

/-- TURN_EXPORT: one export more, or one less. -/
def State.turnExport (s : State) (ref : CmdRef) (c : Cmd) : State :=
  let a := cmdWord c.words 1
  let n := bits a 63 51
  let target := exportTarget a
  match Assoc.find? s.hub.turns n with
  | none => s.malformed ref
  | some t =>
    let exports := if bitN (cmdWord c.words 2) 0 then (if t.exports.contains target then t.exports else t.exports ++ [target])
                   else t.exports.filter (fun x => x != target)
    ((s.modHub (fun h => { h with turns := Assoc.put h.turns n { t with exports } })).freeTurns.wake).finishCmd ref 0 false

/-- TURN_EXPORT with w2 [0] 1 (R321). -/
def execTurnExportAdd (ref : CmdRef) (s : State) : Host.Outcome State Fault Refusal :=
  .next (s.runCmd ref 0x88 (fun w => bitN (cmdWord w 2) 0) (s.turnExport ref))
/-- TURN_EXPORT with w2 [0] 0 (R321). -/
def execTurnExportRemove (ref : CmdRef) (s : State) : Host.Outcome State Fault Refusal :=
  .next (s.runCmd ref 0x88 (fun w => !bitN (cmdWord w 2) 0) (s.turnExport ref))

/-- HANDLE_RELEASE: the entry is empty, and waits that use it end (R337, R342). -/
def State.handleRelease (s : State) (ref : CmdRef) (c : Cmd) : State :=
  let n := bits (cmdWord c.words 1) 63 54
  let handle := bits (cmdWord c.words 1) 8 0
  match s.ctx? n with
  | none => s.malformed ref
  | some x =>
    if (Assoc.find? x.handles handle).isNone then s.malformed ref
    else ((s.setCtx n { x with handles := Assoc.del x.handles handle }).freeTurns.wake).finishCmd ref 0 false

/-- HANDLE_RELEASE (R337). -/
def execHandleRelease (ref : CmdRef) (s : State) : Host.Outcome State Fault Refusal := .next (s.runCmd ref 0x89 anyWords (s.handleRelease ref))

end Sys2Proof.Machine
end

