-- ==== Sys2Proof/Machine/Real.lean ====
section
/-!
DEFINITION. REAL32 values of the dictionary (R426) as exact rational numbers, and back.
-/

namespace Sys2Proof.Machine

/-- 2^k for an integer k. -/
def ratPow2 (k : Int) : Rat := if 0 ≤ k then ((2 ^ k.toNat : Nat) : Rat) else 1 / ((2 ^ (-k).toNat : Nat) : Rat)

/-- The value of a REAL32 encoding; NaN and infinities give 0, and are never stored (R426). -/
def realOf (w : Nat) : Rat :=
  match decodeFmt 1 w with
  | .fin neg m e => (if neg then -1 else 1) * (m : Rat) * ratPow2 e
  | _ => 0

/-- Is a REAL32 encoding a NaN or an infinity? -/
def realBad (w : Nat) : Bool := bits w 30 23 == 255

/-- A number as its magnitude in units of 2^-160, with a last bit that tells whether something is left. -/
def fixedOf (r : Rat) : Nat :=
  let x := r * ((2 ^ 160 : Nat) : Rat)
  let m := x.num.natAbs / x.den
  2 * m + (if m * x.den = x.num.natAbs then 0 else 1)

/-- The REAL32 encoding nearest to a number (DEDUCED: the rounding of IEEE 754). -/
def realTo (r : Rat) : Nat := roundFmt 1 (.fin (decide (r < 0)) (fixedOf r) (-161))

/-- The REAL32 encoding nearest to the square root of a number that is not negative. -/
def realSqrt (r : Rat) : Nat :=
  let x := r * ((2 ^ 320 : Nat) : Rat)
  let n := x.num.natAbs / x.den
  let m := n.sqrt
  roundFmt 1 (.fin false (2 * m + (if m * m * x.den = x.num.natAbs then 0 else 1)) (-161))

/-- The floor of a rational number. -/
def ratFloor (r : Rat) : Int := Int.fdiv r.num r.den

/-- The ceiling of a rational number. -/
def ratCeil (r : Rat) : Int := -ratFloor (-r)

end Sys2Proof.Machine
end

