-- ==== Sys2Proof/Machine/DictTable.lean ====
section
/-!
DEFINITION. The table of the object dictionary: which entries there are, their type and access, the range and the default of each RW
entry, and which are persistent (R369, R403, R416, R426, R427, R436 to R439, R458, R474).
-/

namespace Sys2Proof.Machine

/-- Access of an entry. -/
inductive Access where
  | ro | rw | wo | const
deriving DecidableEq, Repr

/-- The entry of a subindex: its type code of R426 and its access. -/
structure DictEntry where
  dtype : Nat
  access : Access
deriving DecidableEq, Repr

/-- Bytes of a fixed-size type (R426). -/
def typeSize (dtype : Nat) : Option Nat :=
  match dtype with
  | 1 => some 1 | 2 => some 2 | 3 => some 4 | 4 => some 8 | 5 => some 4 | 6 => some 8 | 7 => some 4
  | _ => none

/-- One row of an index: subindices from lo to hi, type, access. -/
abbrev DictRow := Nat × Nat × Nat × Access

/-- The rows of an index, subindex 0x00 apart; none for an index that does not exist. -/
def dictRows (ix : Nat) : List DictRow :=
  if ix = 0x1000 then [(1, 4, 8, .const), (5, 5, 3, .ro), (6, 6, 3, .const), (7, 7, 2, .const)]
  else if ix = 0x1010 then [(1, 1, 1, .wo), (2, 2, 1, .ro), (3, 3, 3, .ro)]
  else if 0x1020 ≤ ix ∧ ix ≤ 0x1028 then [(1, 2, 3, .ro), (3, 3, 1, .ro)]
  else if ix = 0x1100 then [(1, 1, 9, .const), (2, 6, 1, .rw), (7, 7, 2, .rw), (8, 8, 1, .ro), (9, 9, 3, .ro)]
  else if ix = 0x1200 then [(1, 1, 1, .ro), (2, 2, 2, .ro), (3, 3, 3, .ro), (4, 5, 1, .ro), (6, 6, 2, .ro)]
  else if ix = 0x2000 then [(1, 3, 7, .rw), (4, 4, 7, .ro), (5, 5, 1, .ro)]
  else if ix = 0x2001 then [(1, 9, 1, .rw), (0x0A, 0x0A, 1, .wo)]
  else if ix = 0x2002 then [(1, 2, 7, .ro)]
  else if ix = 0x2003 then [(1, 8, 1, .ro)]
  else if ix = 0x2004 then [(1, 1, 2, .rw), (2, 9, 4, .ro)]
  else if ix = 0x2005 then [(1, 0x28, 7, .ro)]
  else if ix = 0x2006 then [(1, 1, 1, .wo)]
  else if ix = 0x2007 then [(1, 0x38, 1, .ro)]
  else if ix = 0x2200 then [(1, 1, 4, .ro), (2, 2, 1, .ro)]
  else if ix = 0x2300 then [(1, 1, 4, .rw), (2, 2, 1, .rw), (3, 3, 3, .rw), (4, 5, 3, .ro)]
  else if ix = 0x3000 then [(1, 2, 1, .rw), (3, 3, 1, .ro), (4, 4, 3, .ro), (5, 5, 1, .ro)]
  else if ix = 0x3001 then [(1, 1, 1, .rw), (2, 2, 3, .rw)]
  else if ix = 0x3100 then [(1, 2, 3, .rw)]
  else if ix = 0x3101 then [(1, 8, 1, .ro)]
  else if ix = 0x3102 then [(1, 8, 4, .ro)]
  else if ix = 0x3200 then [(1, 8, 4, .ro)]
  else if ix = 0x4000 ∨ ix = 0x4001 then [(1, 0x20, 1, .ro)]
  else if ix = 0x4002 then [(1, 0x20, 3, .ro)]
  else if ix = 0x4003 then [(1, 0x20, 4, .ro)]
  else if 0x4200 ≤ ix ∧ ix ≤ 0x421F then [(1, 0x13, 4, .ro), (0x40, 0xA7, 4, .ro), (0xB0, 0xC0, 4, .ro)]
  else if 0x4300 ≤ ix ∧ ix ≤ 0x4307 then [(1, 9, 4, .ro)]
  else if ix = 0x5000 then
    [(1, 1, 2, .rw), (2, 2, 1, .rw), (3, 3, 2, .ro), (4, 4, 1, .ro), (5, 5, 1, .rw), (6, 8, 3, .rw), (9, 0x0A, 1, .rw), (0x0B, 0x0B, 2, .wo),
     (0x0C, 0x0C, 3, .ro)]
  else if 0x5100 ≤ ix ∧ ix ≤ 0x511F then [(1, 0x80, 3, .rw)]
  else if ix = 0x5200 then [(1, 1, 0x0A, .ro), (2, 3, 2, .wo), (4, 4, 2, .ro)]
  else if 0x5300 ≤ ix ∧ ix ≤ 0x532F then [(1, 0x18, 4, .ro)]
  else if ix = 0x5400 then [(1, 6, 4, .ro), (0x21, 0x2B, 4, .ro), (0x41, 0x4B, 4, .ro)]
  else if 0x5410 ≤ ix ∧ ix ≤ 0x5417 then [(1, 2, 4, .ro)]
  else if 0x5500 ≤ ix ∧ ix ≤ 0x552F then [(1, 1, 1, .ro), (2, 2, 2, .ro), (3, 7, 1, .ro), (8, 8, 1, .rw), (9, 9, 1, .wo)]
  else if 0x6000 ≤ ix ∧ ix ≤ 0x63FF then [(1, 0x1E, 4, .ro)]
  else if 0x6400 ≤ ix ∧ ix ≤ 0x67FF then [(1, 4, 4, .ro)]
  else if 0x6800 ≤ ix ∧ ix ≤ 0x6BFF then [(1, 1, 9, .wo), (2, 2, 1, .ro)]
  else if ix = 0x6C00 then [(1, 1, 2, .ro)]
  else if ix = 0x7000 then [(1, 1, 9, .wo), (2, 3, 1, .ro), (4, 4, 3, .ro), (5, 5, 1, .rw)]
  else if ix = 0x7001 then [(1, 1, 2, .ro)]
  else if ix = 0x7100 then [(1, 1, 9, .ro), (2, 3, 0x0A, .ro)]
  else if ix = 0x7101 then [(1, 8, 9, .ro), (9, 9, 9, .wo), (0x0A, 0x0A, 3, .ro)]
  else if ix = 0x7102 then [(1, 1, 9, .wo), (2, 3, 0x0A, .ro)]
  else if ix = 0x7200 then [(1, 2, 0x0A, .wo), (3, 3, 1, .wo), (4, 4, 1, .ro), (5, 5, 3, .ro), (6, 6, 1, .ro)]
  else if ix = 0x8000 then [(1, 8, 2, .ro)]
  else if ix = 0x8001 then [(1, 8, 5, .ro)]
  else if ix = 0x8002 then [(1, 8, 1, .ro)]
  else if ix = 0x8003 then [(1, 8, 3, .ro)]
  else if ix = 0x8004 then [(1, 8, 2, .ro)]
  else if ix = 0x9000 then [(1, 3, 7, .ro), (4, 4, 3, .ro)]
  else if ix = 0x9001 then [(1, 2, 7, .ro), (3, 3, 7, .rw), (4, 4, 7, .ro)]
  else if ix = 0x9002 then [(1, 3, 4, .ro), (4, 4, 3, .ro)]
  else if ix = 0x9003 then [(1, 1, 3, .ro), (2, 2, 4, .ro)]
  else if ix = 0xA000 then [(1, 2, 1, .ro), (3, 3, 3, .ro), (4, 4, 1, .ro), (5, 8, 3, .ro)]
  else if ix = 0xA001 then [(1, 1, 7, .rw), (2, 9, 7, .ro)]
  else if ix = 0xA002 then [(1, 2, 1, .ro), (3, 3, 7, .ro), (4, 4, 7, .const)]
  else []

/-- The highest subindex in use of an index (R427). -/
def dictHighest (ix : Nat) : Nat := maxZ ((dictRows ix).map (fun r => r.2.1))

/-- An entry; subindex 0x00 of every index is a U8 CONST (R427). -/
def dictEntry (ix sub : Nat) : Option DictEntry :=
  if sub = 0 then (if (dictRows ix).isEmpty then none else some ⟨1, .const⟩)
  else ((dictRows ix).find? (fun r => decide (r.1 ≤ sub) && decide (sub ≤ r.2.1))).map (fun r => ⟨r.2.2.1, r.2.2.2⟩)

/-! ### RW entries -/

/-- The default of an RW entry, as its bits. -/
def dictDefault (ix sub : Nat) : Nat :=
  match ix, sub with
  | 0x1100, 3 => 255 | 0x1100, 4 => 8 | 0x1100, 5 => 32 | 0x1100, 7 => 47230
  | 0x2000, 1 => 0x44FA0000 | 0x2000, 3 => 0x44960000
  | 0x2001, 1 => 0 | 0x2001, _ => 32
  | 0x2004, 1 => 40
  | 0x3001, 2 => 31500
  | 0x3100, 1 => 100 | 0x3100, 2 => 5
  | 0x5000, 7 => 500 | 0x5000, 8 => 2000 | 0x5000, 9 => 1 | 0x5000, 0x0A => 1
  | 0x7000, 5 => 1
  | 0xA001, 1 => 0x42C80000
  | _, _ => if 0x5500 ≤ ix ∧ ix ≤ 0x552F ∧ sub = 8 then 1 else 0

/-- An enabled candidate of a route entry names a link above 47 (R276). -/
def routeBad (e : Nat) : Bool := (List.range 4).any (fun i => bitN e (24 + i) && decide (47 < bits e (6 * i + 5) (6 * i)))

/-- A value of an RW entry lies outside its stated range. -/
def dictRangeBad (ix sub v : Nat) : Bool :=
  let out (lo hi : Nat) : Bool := decide (v < lo) || decide (hi < v)
  let outReal (lo hi : Rat) : Bool := realBad v || decide (realOf v < lo) || decide (hi < realOf v)
  match ix, sub with
  | 0x1100, 2 => out 0 1 | 0x1100, 3 => out 0 254 | 0x1100, 4 => out 1 255 | 0x1100, 7 => out 1024 65535
  | 0x2000, 1 => realBad v | 0x2000, 2 => realBad v | 0x2000, 3 => outReal 800 2000
  | 0x2001, 1 => out 0 1
  | 0x2004, 1 => out 20 100
  | 0x2300, 2 => decide (v ≠ 0) && out 6 20
  | 0x3000, 1 => out 0 2 | 0x3000, 2 => out 0 47
  | 0x3001, 1 => out 0 10 | 0x3001, 2 => out 30000 33000
  | 0x3100, 1 => decide (v ≠ 0) && out 10 1000000 | 0x3100, 2 => decide (v ≠ 0) && out 1 10000
  | 0x5000, 1 => out 0 4095 | 0x5000, 2 => out 0 1 | 0x5000, 5 => out 0 1 | 0x5000, 6 => routeBad v
  | 0x5000, 7 => out 10 100000 | 0x5000, 8 => out 100 10000000 | 0x5000, 9 => out 1 15 | 0x5000, 0x0A => out 1 15
  | 0x7000, 5 => out 0 1
  | 0x9001, 3 => realBad v
  | 0xA001, 1 => outReal 70 110
  | _, _ =>
    if 0x5100 ≤ ix ∧ ix ≤ 0x511F then routeBad v
    else if 0x5500 ≤ ix ∧ ix ≤ 0x552F then out 0 1
    else false

/-- Persistent entries (R432). -/
def dictPersistent (ix sub : Nat) : Bool :=
  match ix with
  | 0x1100 => decide (2 ≤ sub) && decide (sub ≤ 7)
  | 0x2000 => sub == 2 || sub == 3
  | 0x2001 => decide (1 ≤ sub) && decide (sub ≤ 9)
  | 0x2004 => sub == 1
  | 0x3000 => sub == 1 || sub == 2
  | 0x3001 => sub == 1 || sub == 2
  | 0x3100 => sub == 1 || sub == 2
  | 0x5000 => sub == 1 || sub == 2 || (decide (5 ≤ sub) && decide (sub ≤ 0x0A))
  | 0x7000 => sub == 5
  | 0xA001 => sub == 1
  | _ => decide (0x5500 ≤ ix) && decide (ix ≤ 0x552F) && sub == 8

/-- The persistent ones of some values kept at index × 256 + subindex. -/
def persistentOf (m : FMap Nat) : FMap Nat := m.filter (fun p => dictPersistent (p.1 / 256) (p.1 % 256))

/-- Index of an entry that is served while the units are held in reset (R427): the always-on domain, identity, network, NV store status,
power and inputs. -/
def alwaysServed (ix : Nat) : Bool :=
  decide (ix < 0x3200) || (decide (0x5000 ≤ ix) && decide (ix < 0x5300)) || (decide (0x7000 ≤ ix) && decide (ix < 0x9002) && ix != 0x7001) ||
  decide (0x9003 ≤ ix) || (decide (0x6400 ≤ ix) && decide (ix < 0x6C00))

/-- Indices that a tenant of context c may read (R425); there are contexts 0 to 1,023 (R439). -/
def tenantReads (c ix : Nat) : Bool :=
  decide (c < 1024) && (ix == 0x1000 || ix == 0x6000 + c || ix == 0x6400 + c || ix == 0x9000 || ix == 0x9001)

end Sys2Proof.Machine
end

