-- ==== Sys2Proof/Machine/Links.lean ====
section
/-!
DEFINITION. Chip-to-chip links: packets as bytes and flits, sending and receiving, retry and credits, training, routing of whole packets
(R261 to R280, R305, R306).
-/

namespace Sys2Proof.Machine

/-! ### Packets and flits (R263, R267, R272 to R274) -/

/-- The 32 bytes of a packet's header (R273). -/
def packetHeader (p : Packet) : List Byte :=
  let w0 := p.op.toNat * 2 ^ 60 + p.vc.toNat * 2 ^ 58 + p.flow.toNat * 2 ^ 54 + p.hops.toNat * 2 ^ 48 + p.dstId.val * 2 ^ 36
    + p.srcId.val * 2 ^ 24 + p.dstDom.toNat * 2 ^ 23 + p.srcDom.toNat * 2 ^ 22 + p.len.toNat
  let w1 := p.tag.toNat * 2 ^ 48 + p.status.toNat * 2 ^ 32 + p.sel.toNat * 2 ^ 16 + p.mode.toNat * 2 ^ 15 + p.err.toNat * 2 ^ 14
  leBytes 8 w0 ++ leBytes 8 w1 ++ leBytes 8 p.addr.toNat ++ leBytes 8 p.aux.toNat

/-- A packet as it is sent: header and payload. -/
def packetBytes (p : Packet) : List Byte := packetHeader p ++ p.payload

/-- The virtual channel that R274 gives a kind; none for OP 0x9 to 0xF. -/
def vcOfOp (op : Nat) : Option Nat :=
  match op with
  | 0 | 1 | 2 | 3 => some 0
  | 4 | 5 | 6 => some 1
  | 7 => some 2
  | 8 => some 3
  | _ => none

/-- Read a packet from its bytes; `none` is a malformed one (R274): an unknown OP, another VC, a LEN above 4,096 or a payload of another
length. -/
def packetOf (bs : List Byte) : Option Packet :=
  if bs.length < 32 then none
  else
    let word (i : Nat) : Nat := leNat ((bs.drop (8 * i)).take 8)
    let w0 := word 0
    let w1 := word 1
    let op := bits w0 63 60
    let payload := bs.drop 32
    let len := bits w0 12 0
    if vcOfOp op ≠ some (bits w0 59 58) then none
    else if 4096 < len then none
    else if payload.length ≠ (if op = 0 then 0 else len) then none
    else some
      { op := BitVec.ofNat 4 op, vc := BitVec.ofNat 2 (bits w0 59 58), flow := BitVec.ofNat 4 (bits w0 57 54)
        hops := BitVec.ofNat 6 (bits w0 53 48), dstId := Fin.ofNat 4096 (bits w0 47 36), srcId := Fin.ofNat 4096 (bits w0 35 24)
        dstDom := bitN w0 23, srcDom := bitN w0 22, len := BitVec.ofNat 13 len, tag := BitVec.ofNat 16 (bits w1 63 48)
        status := BitVec.ofNat 16 (bits w1 47 32), sel := BitVec.ofNat 16 (bits w1 31 16), mode := bitN w1 15, err := bitN w1 14
        addr := BitVec.ofNat 64 (word 2), aux := BitVec.ofNat 64 (word 3), payload }

/-- The DATA flits of a packet, less SEQ, ACK and credits, which are set as each is sent. -/
def flitsOf (p : Packet) : List Flit :=
  let bs := packetBytes p
  let n := flitCount p
  (List.range n).map (fun i =>
    let piece := (bs.drop (244 * i)).take 244
    { ftype := 1, seq := 0, ack := 0, vc := p.vc, sop := decide (i = 0), eop := decide (i + 1 = n), len := BitVec.ofNat 8 piece.length
      bytes := piece })

/-- The 8 bytes of a flit's header (R267); Reserved bits are sent as 0. -/
def flitHeader (f : Flit) : Nat :=
  f.ftype.toNat * 2 ^ 60 + f.seq.toNat * 2 ^ 48 + f.ack.toNat * 2 ^ 36 + f.vc.toNat * 2 ^ 34 + f.sop.toNat * 2 ^ 33 + f.eop.toNat * 2 ^ 32
    + f.len.toNat * 2 ^ 24 + f.cvc.toNat * 2 ^ 22 + f.credits.toNat * 2 ^ 16

/-- Bytes 0 to 251 of a flit: header and 244 B of packet bytes, little-endian (R263, R267). What is not used of the 244 B is sent as 0 (DESIGN
CHOICE). -/
def flitBody (f : Flit) : List Byte := leBytes 8 (flitHeader f) ++ f.bytes ++ List.replicate (244 - f.bytes.length) 0

/-- The CRC-32C of a flit, over bytes 0 to 251 (R267). -/
def flitCrc (f : Flit) : W32 := BitVec.ofNat 32 (crc32c (flitBody f))

/-- A flit as the 256 bytes that are sent, byte 0 first (R263, R267). -/
def flitImage (f : Flit) : List Byte := flitBody f ++ leBytes 4 f.crc.toNat

/-- The flit that 256 bytes hold (R267). -/
def flitOf (bs : List Byte) : Flit :=
  let h := leNat (bs.take 8)
  { ftype := BitVec.ofNat 4 (bits h 63 60), seq := BitVec.ofNat 12 (bits h 59 48), ack := BitVec.ofNat 12 (bits h 47 36)
    vc := BitVec.ofNat 2 (bits h 35 34), sop := bitN h 33, eop := bitN h 32, len := BitVec.ofNat 8 (bits h 31 24)
    cvc := BitVec.ofNat 2 (bits h 23 22), credits := BitVec.ofNat 6 (bits h 21 16), bytes := (bs.drop 8).take 244
    crc := BitVec.ofNat 32 (leNat ((bs.drop 252).take 4)) }

/-- The FEC codewords in which the n-th flit of a direction has a byte (R261, R262): 514 symbols of 10 data bits to a codeword. -/
def codewordsOf (n : Nat) : List Nat :=
  (List.range ((2048 * n + 2047) / 5140 + 1 - 2048 * n / 5140)).map (2048 * n / 5140 + ·)

/-- More than 15 symbol errors make a codeword uncorrectable (R262). -/
def codewordLost (c : Nat × Bool) : Bool := decide (15 < c.1)

/-- Is the flit as it was sent: none of its codewords uncorrectable, and its CRC right (R262, R267)? -/
def flitGood (f : Flit) : Bool := !f.codewords.any codewordLost && f.crc == flitCrc f

/-- Symbols corrected in the codewords that end with a flit. -/
def flitCorrected (f : Flit) : Nat := ((f.codewords.filter (fun c => c.2 && !codewordLost c)).map (·.1)).foldl (· + ·) 0

/-- Uncorrectable codewords that end with a flit. -/
def flitUncorrectable (f : Flit) : Nat := (f.codewords.filter (fun c => c.2 && codewordLost c)).length

/-- Is sequence number a at or before b, modulo 4,096? -/
def seqLe (a b : BitVec 12) : Bool := decide ((b - a).toNat < 2048)

/-! ### Sending (R268, R270, R271) -/

/-- A link. -/
def State.link (s : State) (l : Nat) : Link := Assoc.get {} s.net.links l

/-- Change a link's counters. -/
def Link.count (k : Link) (f : LinkCounters → LinkCounters) : Link := { k with counters := f k.counters }

/-- Credits to return with the next flit: those of the lowest virtual channel with freed buffer, at most 63 (DESIGN CHOICE). -/
def Link.giveCredits (k : Link) : Link × Nat × Nat :=
  match k.freed.find? (fun p => decide (0 < p.2)) with
  | some (v, n) => ({ k with freed := Assoc.put k.freed v (n - min n 63) }, v, min n 63)
  | none => (k, 0, 0)

/-- Send one flit: acknowledgement, credits and the CRC are filled in, and it is counted. -/
def State.putFlit (s : State) (l : Nat) (f : Flit) : State :=
  let k := s.link l
  let (k, cvc, n) := k.giveCredits
  let f := { f with ack := k.rxLast, cvc := BitVec.ofNat 2 cvc, credits := BitVec.ofNat 6 n }
  let f := { f with crc := flitCrc f }
  let k := k.count (fun c => { c with
    sent := bumpAt c.sent f.ftype.toNat 1
    bytesSent := if f.ftype.toNat = 1 then bumpAt c.bytesSent f.vc.toNat f.len.toNat else c.bytesSent })
  (s.modNet (fun t => { t with links := Assoc.put t.links l k })).emit (.flit l f)

/-- An IDLE or RETRY_REQ flit carries the next SEQ that the sender will use (R267). -/
def bareFlit (k : Link) (ftype : BitVec 4) : Flit := { ftype := ftype, seq := k.txSeq, ack := 0 }

/-- Credits held on a virtual channel. -/
def Link.credit (k : Link) (vc : Nat) : Nat := Assoc.get 0 k.credits vc

/-- The packet at the head of an output queue, if its flits have credits (R270). -/
def Link.ready? (k : Link) (vc : Nat) : Option Packet :=
  match Assoc.get [] k.outq vc with
  | p :: _ => if flitCount p ≤ k.credit vc then some p else none
  | [] => none

/-- Deficit round robin of virtual channels 2 and 0 (R271): the channel served, and the link with its deficits. The quantum of a channel
is its weight times 17 flits, the largest packet (DESIGN CHOICE). -/
def Link.drr (k : Link) (quantum : Nat → Int) : Link × Option Nat :=
  let cost (v : Nat) : Option Int := (k.ready? v).map (fun p => (flitCount p : Int))
  let now := k.drrNext
  let other := 2 - now
  let d (v : Nat) : Int := Assoc.get 0 k.deficit v
  let serve (v : Nat) (have_ c : Int) (k : Link) : Link × Option Nat :=
    ({ k with deficit := Assoc.put k.deficit v (have_ - c), drrNext := v }, some v)
  match cost now, cost other with
  | some c, _ =>
    if c ≤ d now then serve now (d now) c k
    else
      match cost other with
      | some e => serve other (d other + quantum other) e k
      | none => serve now (d now + quantum now) c { k with deficit := Assoc.put k.deficit other 0 }
  | none, some e => serve other (d other + quantum other) e { k with deficit := Assoc.put k.deficit now 0 }
  | none, none => (k, none)

/-- The virtual channel whose packet is sent next at a packet boundary (R271). -/
def Link.choose (k : Link) (quantum : Nat → Int) : Link × Option Nat :=
  if (k.ready? 3).isSome then (k, some 3)
  else if (k.ready? 1).isSome then (k, some 1)
  else k.drr quantum

/-- Start a packet: it leaves its queue and takes its credits. -/
def Link.begin (k : Link) (vc : Nat) : Link :=
  match Assoc.get [] k.outq vc with
  | p :: rest =>
    { k with outq := Assoc.put k.outq vc rest, sending := flitsOf p, credits := Assoc.put k.credits vc (k.credit vc - flitCount p) }.letIn vc
      (Assoc.get [] k.waitq vc)
  | [] => k

/-- Send the next flit of the packet in progress: it takes the next SEQ and stays in the retry buffer (R268). -/
def State.sendData (s : State) (l : Nat) : State :=
  let k := s.link l
  match k.sending with
  | [] => s
  | f :: rest =>
    let f := { f with seq := k.txSeq }
    (s.modLink l (fun k => { k with sending := rest, txSeq := k.txSeq + 1, retry := k.retry ++ [f] })).putFlit l f

/-- A link output sends its next flit (R268, R270, R271). -/
def State.flitSend (s : State) (l : Nat) : State :=
  let k := s.link l
  if k.st ≠ .up then s
  else if k.retryDue then (s.modLink l (fun k => { k with retryDue := false })).putFlit l (bareFlit k 2)
  else
    match k.resend with
    | f :: rest => (s.modLink l (fun k => { k with resend := rest })).putFlit l f
    | [] =>
      if 512 ≤ k.retry.length then s.putFlit l (bareFlit k 0)
      else if !k.sending.isEmpty then s.sendData l
      else
        let weight (v : Nat) : Int := (17 * s.dictVal 0x5000 (if v = 2 then 9 else 10) 1 : Nat)
        match k.choose weight with
        | (k', some vc) => (s.modLink l (fun _ => k'.begin vc)).sendData l
        | (k', none) => (s.modLink l (fun _ => k')).putFlit l (bareFlit k 0)

/-- FLIT_SEND (R271). -/
def execFlitSend (link : LinkId) (s : State) : Host.Outcome State Fault Refusal := .next (s.flitSend link.val)

/-! ### Receiving (R267 to R270, R274, R305) -/

/-- May a packet whose source or destination lies in the other domain pass (R305)? -/
def crossAllowed (p : Packet) : Bool :=
  p.op == 8 || (p.op == 7 && decide (bits p.aux.toNat 31 28 = 7) && p.srcId == p.dstId && p.srcDom != p.dstDom)

/-- Count a malformed packet (R274, R306). -/
def State.malformedPacket (s : State) : State := s.modNetCounters (fun c => { c with malformed := bump c.malformed 1 })

/-- A management packet that reaches this device: ECHO and ECHO_REPLY are delivered, IDENT has its meaning in training only, and any other
MTYPE is discarded and counted (R288). -/
def State.deliverMgmt (s : State) (p : Packet) : State :=
  let m := bits p.addr.toNat 7 0
  if m = 2 ∨ m = 3 then s.modNet (fun n => { n with delivered := n.delivered ++ [p] })
  else if m = 1 then s
  else s.malformedPacket

/-- A whole packet has come in on a link: delivered, discarded, or kept at the input until it is forwarded. The answer tells whether it
still takes input buffer. -/
def State.packetIn (s : State) (l : Nat) (p : Packet) : State × Bool :=
  let k := s.link l
  let foreign : Bool := p.srcDom != s.net.ownDom || k.crossDomain
  if foreign && !(crossAllowed p && decide (s.dictVal 0x5000 5 0 ≠ 0)) then
    (s.modNetCounters (fun c => { c with crossDomain := bump c.crossDomain 1 }), false)
  else
    match s.hop p with
    | .deliver => (if p.op = 8 then s.deliverMgmt p else s.modNet (fun n => { n with delivered := n.delivered ++ [p] }), false)
    | .drop => (s.settle p, false)
    | _ => (s.modLink l (fun k => { k with inq := Assoc.put k.inq p.vc.toNat (Assoc.get [] k.inq p.vc.toNat ++ [p]) }), true)

/-- Input buffer of a virtual channel is free again (R267). -/
def Link.freeBuffer (k : Link) (vc n : Nat) : Link := { k with freed := Assoc.put k.freed vc (Assoc.get 0 k.freed vc + n) }

/-- Packet bytes of an accepted DATA flit are joined to the packet of their virtual channel. -/
def State.joinFlit (s : State) (l : Nat) (f : Flit) : State :=
  let k := s.link l
  let v := f.vc.toNat
  let mine := f.bytes.take f.len.toNat
  match (if f.sop then some ([], 0) else Assoc.find? k.partial_ v) with
  | none => s.malformedPacket.modLink l (fun k => k.freeBuffer v 1)
  | some (bs, n) =>
    if !f.eop then s.modLink l (fun k => { k with partial_ := Assoc.put k.partial_ v (bs ++ mine, n + 1) })
    else
      let s := s.modLink l (fun k => { k with partial_ := Assoc.del k.partial_ v })
      match packetOf (bs ++ mine) with
      | none => s.malformedPacket.modLink l (fun k => k.freeBuffer v (n + 1))
      | some p =>
        match s.packetIn l p with
        | (s, true) => s
        | (s, false) => s.modLink l (fun k => k.freeBuffer v (n + 1))

/-- A flit with a good CRC acknowledges and returns credits (R267). -/
def Link.takeAck (k : Link) (f : Flit) : Link :=
  let kept := k.retry.filter (fun x => !seqLe x.seq f.ack)
  { k with retry := kept, resend := k.resend.filter (fun x => !seqLe x.seq f.ack)
           retryCount := if kept.length = k.retry.length then k.retryCount else 0
           credits := Assoc.put k.credits f.cvc.toNat (min 64 (k.credit f.cvc.toNat + f.credits.toNat)) }

/-- RETRY_REQ: every DATA flit after ACK is sent again, in order (R268). -/
def Link.retryAll (k : Link) : Link :=
  if k.retry.isEmpty then k
  else { k with resend := k.retry, retryCount := k.retryCount + 1 }.count (fun c => { c with retries := bump c.retries 1 })

/-- A flit arrives on a link that is Up (R262, R267, R268). -/
def State.flitIn (s : State) (l : Nat) (f : Flit) : State :=
  let k := s.link l
  if k.st ≠ .up then s
  else
    let k := k.count (fun c => { c with
      fecCorrected := bump c.fecCorrected (flitCorrected f), uncorrectable := bump c.uncorrectable (flitUncorrectable f) })
    if !flitGood f then
      s.modLink l (fun _ => { k with rxBad := true, retryDue := true }.count (fun c => { c with crcErrors := bump c.crcErrors 1 }))
    else if 3 ≤ f.ftype.toNat then s.modLink l (fun _ => k.count (fun c => { c with unknown := bump c.unknown 1 }))
    else
      let k := (k.count (fun c => { c with received := bumpAt c.received f.ftype.toNat 1 })).takeAck f
      match f.ftype.toNat with
      | 0 => s.modLink l (fun _ => k)
      | 2 => s.modLink l (fun _ => k.retryAll)
      | _ =>
        if k.retryDue then s.modLink l (fun _ => k)
        else if f.seq = k.rxLast + 1 then
          let k := { k with rxLast := f.seq, rxBad := false }.count (fun c => { c with
            bytesReceived := bumpAt c.bytesReceived f.vc.toNat f.len.toNat })
          (s.modLink l (fun _ => k)).joinFlit l f
        else if k.rxBad || seqLe f.seq k.rxLast then s.modLink l (fun _ => k)
        else s.modLink l (fun _ => { k with rxBad := true, retryDue := true })

/-- DATA_FLIT (R268). -/
def execDataFlit (link : LinkId) (flit : Flit) (s : State) : Host.Outcome State Fault Refusal := .next (s.flitIn link.val flit)
/-- IDLE_FLIT (R267). -/
def execIdleFlit (link : LinkId) (flit : Flit) (s : State) : Host.Outcome State Fault Refusal := .next (s.flitIn link.val flit)
/-- RETRY_REQ (R268). -/
def execRetryReq (link : LinkId) (flit : Flit) (s : State) : Host.Outcome State Fault Refusal := .next (s.flitIn link.val flit)

/-! ### Training (R264, R265, R269) -/

/-- Everything that a link held for a neighbour that is no longer there (R269): the retry buffer, packets received in part, packets queued
for the output, which are counted. -/
def State.dropLink (s : State) (l : Nat) : State :=
  let n := (((s.link l).outq ++ (s.link l).waitq).map (fun q => q.2.length)).foldl (· + ·) 0
  let s := s.modNetCounters (fun c => { c with undeliverable := bump c.undeliverable n })
  s.modLink l (fun k => { k with retry := [], resend := [], retryCount := 0, partial_ := [], outq := [], waitq := [], sending := []
                                 txSeq := 0, rxLast := 0xFFF, rxBad := false, retryDue := false })

/-- Links train after all channels are Trained or one is Failed (R237). -/
def State.chansSettled (s : State) : Bool :=
  (List.range 32).any (fun c => match (s.chan c).train with | .failed _ => true | _ => false) ||
  (List.range 32).all (fun c => decide ((s.chan c).train = .trained))

/-- READY[2]: once every enabled link has been trained or has failed (R444). -/
def State.linksSettled (s : State) : State :=
  let done (l : Nat) : Bool := !(s.link l).enabled || (s.link l).st == .up || (s.link l).st == .failed
  if s.chansSettled && (List.range 48).all done then { s with boot := { s.boot with links := true } } else s

/-- The IDENT packet of this device on a link (R265, R288). -/
def State.identPacket (s : State) (l : Nat) : Packet :=
  { op := 8, vc := 3, dstId := 0, srcId := Fin.ofNat 4096 s.net.ownId, dstDom := s.net.ownDom, srcDom := s.net.ownDom, len := 8, addr := 1
    payload := leBytes 8 (s.net.ownId + s.net.ownDom.toNat * 2 ^ 12 + l * 2 ^ 16) }

/-- The next training step starts; step 5 sends IDENT, in a flit that takes no sequence number (DESIGN CHOICE). A link in state Down that
is enabled starts step 1 once the memory channels have been trained (R237, R264). -/
def State.trainStep (s : State) (l : Nat) (find : LaneFind) : State :=
  let k := s.link l
  match k.st with
  | .down => if k.enabled && s.chansSettled then s.modLink l (fun k => { k with st := .training 1 }) else s
  | .training n =>
    if 5 ≤ n then s
    else
      let s := s.modLink l (fun k => { k with
        st := .training (n + 1), swapped := if n = 2 then find.swapped else k.swapped
        polarity := if n = 2 then find.polarity else k.polarity })
      if n = 4 then (flitsOf (s.identPacket l)).foldl (fun s f => s.putFlit l f) s else s
  | _ => s

/-- TRAINING_STEP (R264). -/
def execTrainingStep (link : LinkId) (find : LaneFind) (s : State) : Host.Outcome State Fault Refusal := .next (s.trainStep link.val find)

/-- A training step takes too long (R264). -/
def State.trainTimeout (s : State) (l : Nat) : State :=
  let k := s.link l
  match k.st with
  | .training _ =>
    let failed : Bool := decide (3 ≤ k.attempts + 1)
    let s := s.modLink l (fun k => { k with st := if failed then .failed else .down, attempts := k.attempts + 1 }.count
      (fun c => { c with trainFailures := bump c.trainFailures 1 }))
    if failed then (s.dropLink l).linksSettled else s
  | _ => s

/-- TRAINING_TIMEOUT (R264). -/
def execTrainingTimeout (link : LinkId) (s : State) : Host.Outcome State Fault Refusal := .next (s.trainTimeout link.val)

/-- The neighbour's IDENT in step 5 (R265, R269). -/
def State.identIn (s : State) (l id : Nat) (dom : Bool) (peerLink : Nat) : State :=
  let k := s.link l
  if k.st ≠ .training 5 then s
  else
    let peer : Option (Nat × Bool × Nat) := some (id, dom, peerLink)
    if id = s.net.ownId ∧ dom = s.net.ownDom then
      ((s.modLink l (fun k => { k with st := .failed, peer })).dropLink l).linksSettled
    else
      let same : Bool := k.lastPeer == peer
      let s := if same then s.modLink l (fun k => { k with resend := k.retry }) else s.dropLink l
      (s.modLink l (fun k => { k with
        st := .up, attempts := 0, peer, lastPeer := peer, crossDomain := dom != s.net.ownDom, retryCount := 0
        credits := [(0, 64), (1, 64), (2, 64), (3, 64)], freed := [] })).linksSettled

/-- IDENT (R265). -/
def execIdent (link : LinkId) (id : DeviceId) (dom : Bool) (peerLink : Nat) (s : State) : Host.Outcome State Fault Refusal :=
  .next (s.identIn link.val id.val dom peerLink)

/-- An Up link retrains from step 1 (R269); it is counted, and in the retrain rate (R369). -/
def State.retrain (s : State) (l : Nat) (cause : RetrainCause) : State :=
  let k := s.link l
  let due : Bool := match cause with | .retryLimit => decide (16 ≤ k.retryCount) | _ => true
  if k.st ≠ .up ∨ !due then s
  else
    let s := s.modLink l (fun k => { k with st := .training 1, retryCount := 0 }.count (fun c => { c with retrains := bump c.retrains 1 }))
    { s with resil := { s.resil with retrain := (s.resil.retrain.headD 0 + 1) :: s.resil.retrain.tail } }

/-- LINK_RETRAIN (R269). -/
def execLinkRetrain (link : LinkId) (cause : RetrainCause) (s : State) : Host.Outcome State Fault Refusal := .next (s.retrain link.val cause)

/-! ### Forwarding (R275, R277, R280) -/

/-- The whole packet at the head of a link's input is forwarded; it waits while the output queue has no room for it (R270). -/
def State.forwardIn (s : State) (l vc : Nat) : State :=
  match Assoc.get [] (s.link l).inq vc with
  | [] => s
  | p :: rest =>
    let room : Bool := match s.hop p with
      | .out o => (s.link o).room vc p
      | _ => true
    if !room then s
    else (s.modLink l (fun k => { k with inq := Assoc.put k.inq vc rest }.freeBuffer vc (flitCount p))).forward p

/-- PACKET_FORWARD (R277). -/
def execPacketForward (link : LinkId) (vc : BitVec 2) (s : State) : Host.Outcome State Fault Refusal := .next (s.forwardIn link.val vc.toNat)

end Sys2Proof.Machine
end

