-- ==== Sys2Proof/Machine/Memory.lean ====
section
/-!
DEFINITION. Fetches of ells: read slots, the DRAM access, the return of grains and the fill (R186, R187, R192, R193, R202, R203, R209,
R210, R219 to R222), refresh (R235), erasures (R221), row remaps (R223), and the hour buckets (R221, R369).
-/

namespace Sys2Proof.Machine

/-! ### Issue of a fetch (R186, R187) -/

/-- DRAM banks of a channel that hold 32 read slots. -/
def Tent.capped (t : Tent) (chan : Nat) : Nat :=
  ((List.range 64).filter (fun b => decide (32 ≤ t.bankSlots (some (chan * 64 + b))))).length

/-- Put a miss register. -/
def Tent.setMiss (t : Tent) (reg : Nat) (m : MissReg) : Tent := { t with miss := Assoc.put t.miss reg m }

/-- A waiting miss register of a device ell takes a read slot (R187). -/
def State.takeSlot (s : State) (tent reg : Nat) (m : MissReg) : State :=
  let p := placeOf m.ell
  let s := s.modTent tent (fun t => t.setMiss reg { m with st := .issued })
  let peak := (s.tent tent).capped p.channel
  s.modChan p.channel (fun c =>
    { c with reads := Assoc.put c.reads (dramBank m.ell) (Assoc.get [] c.reads (dramBank m.ell) ++ [reg])
             counters := { c.counters with banksAtCapPeak := max c.counters.banksAtCapPeak peak } })

/-- A waiting miss register of a host ell asks the host for the grains that it lacks (R185). -/
def State.askHost (s : State) (tent reg : Nat) (m : MissReg) : State :=
  let gs := ((List.range 16).filter (fun g => !m.copy.has g)).map (grainOfEll m.ell)
  let s := s.modTent tent (fun t => t.setMiss reg { m with st := if gs.isEmpty then .returning [] else .host gs })
  gs.foldl (fun s g =>
    (s.modHub (fun h => { h with hostReads := h.hostReads ++ [⟨g, none⟩] })).emit (.cxlRead (g - hostGrain))) s

/-! ### Waiters and the fill -/

/-- Does a frame hold the ell, or is one reserved for it? -/
def Tent.framed (t : Tent) (m : MissReg) : Bool := m.frame.isSome || (t.frameOf? m.ell).isSome

/-- May a waiter be served on the copy that has been fetched: what it reads is there, its header has been compared (R222), and the host has
been snooped for what it has come to hold since (R355)? -/
def State.waiterReady (s : State) (c : EllCopy) (framed : Bool) (q : BReq) : State × Bool :=
  let q := s.keyed c q
  if !c.readyFor q framed || (c.owned q.key q.gen && !s.headerChecked c.ell) then (s, false) else s.clearFor q

/-- Serve the reads of the waiter list that are ready, and that no write to the same grain precedes (R186). -/
def serveWaiters (s : State) (c : EllCopy) (framed : Bool) (ws : List BReq) : State × EllCopy × List BReq :=
  ws.foldl (fun (acc : State × EllCopy × List BReq) q =>
    let (s, c, rest) := acc
    if q.kind.writes || rest.any (fun x => x.kind.writes && (x.grain == q.grain || x.kind.onImage)) then (s, c, rest ++ [q])
    else
      match s.waiterReady c framed q with
      | (s, false) => (s, c, rest ++ [q])
      | (s, true) => let (s, c) := s.performReq c (s.keyed c q); (s, c, rest)) (s, c, [])

/-- Serve the waiters in list order, up to the first that is not ready (R202). -/
def serveInOrder (s : State) (c : EllCopy) (framed : Bool) (ws : List BReq) : State × EllCopy × List BReq :=
  match ws with
  | [] => (s, c, [])
  | q :: rest =>
    match s.waiterReady c framed q with
    | (s, false) => (s, c, q :: rest)
    | (s, true) => let (s, c) := s.performReq c (s.keyed c q); serveInOrder s c framed rest

/-- What a complete fetch leaves: the ell `c` as fetched in its frame, `new` as the waiters left it; without a frame it goes back to DRAM. -/
def State.placeFill (s : State) (tent : Nat) (m : MissReg) (c new : EllCopy) : State :=
  let dead : Bool := decide (new.dead ≠ 0)
  match (s.tent tent).frameOf? m.ell, m.frame with
  | some _, _ => (s.setCopy { new with size := 1024 }).putAfter { c with dirty := 0 } new dead
  | none, some k =>
    let r := (s.dropFrame tent k).install c
    if r.2 then r.1.putAfter c new dead else r.1.storeEll new
  | none, none => s.storeEll new

/-- What is to be fetched has come: the waiters are served in list order, the frame holds the ell, and the register is free (R186, R192,
R202). A waiter that needs grains which have not been fetched makes the register fetch again; while one waits for the host, or the frame for
room, the register stands. -/
def State.completeFill (s : State) (tent reg : Nat) (m : MissReg) : State :=
  let framed := (s.tent tent).framed m
  let c := { m.copy with size := if isHostEll m.ell then 1024 else 64 * (s.header m.ell).stored }
  let put (s : State) (m : MissReg) : State := s.modTent tent (fun t => t.setMiss reg m)
  match serveInOrder s c framed m.waiters with
  | (s, c', q :: rest) =>
    let k := s.keyed c' q
    let ready : Bool := c'.readyFor k framed && !(c'.owned k.key k.gen && !s.headerChecked m.ell)
    put s { m with copy := c', waiters := q :: rest, st := if ready then .returning [] else .waiting
                   bypass := (q :: rest).all (fun x => x.kind.noAlloc) }
  | (s', new, []) =>
    let dead : Bool := decide (new.dead ≠ 0)
    let reserved : Bool := m.frame.isSome && ((s.tent tent).frameOf? m.ell).isNone
    -- data that the host gave back may have made the ell of a foreign reader one that is stored again
    if !framed && s'.lacks new then put s' { m with copy := new, waiters := [new.fillReq], st := .waiting }
    else
      match (if !reserved then s.prepare new dead else if dead && new.spent then s.needHeader [] m.ell else (s, true)) with
      | (s, false) => put s { m with st := .returning [] }
      | (s, true) =>
        match serveInOrder s c framed m.waiters with
        | (s, new, _) => ((s.modTent tent (fun t => { t with miss := Assoc.del t.miss reg })).placeFill tent m c new).retryHeld

/-- A step of a fetch once something has come back: the waiters that can be are served, and the last item completes it (R186). -/
def State.fillStep (s : State) (tent reg : Nat) : State :=
  match Assoc.find? (s.tent tent).miss reg with
  | none => s
  | some m =>
    match m.st with
    | .returning [] => s.completeFill tent reg m
    | .returning _ | .host _ =>
      let (s, c, ws) := serveWaiters s m.copy ((s.tent tent).framed m) m.waiters
      s.modTent tent (fun t => t.setMiss reg { m with copy := c, waiters := ws })
    | _ => s

/-- Every fetch of an ell that waits for the host or for a frame goes on. -/
def State.resumeFill (s : State) (ell : Nat) : State :=
  let tent := homeTent ell
  ((s.tent tent).miss.filter (fun m => m.2.ell == ell && m.2.st == .returning [])).foldl (fun s m => s.fillStep tent m.1) s

/-- The item of a fetch that is the header, beside the slots 0 to 15. -/
def headerItem : Nat := 16

/-- What a register fetches (R166, R186, R219, R230): nothing for requesters to which the ell is foreign; for its owner the header, unless it
has been compared, and, when a waiter needs data, every stored slot of the grains that the copy lacks, those of the first waiter's grain
first. -/
def State.toFetch (s : State) (tent : Nat) (m : MissReg) : List Nat :=
  let h := s.header m.ell
  let framed := (s.tent tent).framed m
  let mine := (m.waiters.map (s.keyed m.copy)).filter (fun q => m.copy.owned q.key q.gen)
  let head := if mine.isEmpty || s.headerChecked m.ell then [] else [headerItem]
  if mine.all (fun q => m.copy.readyFor q framed) then head
  else
    let absent := (List.range 16).filter (fun g => !m.copy.has g)
    let slots := (List.range 16).filter (fun x => absent.any (fun g => (slotsOfGrain h g).contains x))
    let first := match m.waiters.find? (fun q => absent.contains q.grain) with | some q => slotsOfGrain h q.grain | none => []
    head ++ first ++ slots.filter (fun x => !first.contains x)

/-! ### Issue -/

/-- A waiting miss register issues its fetch: the first of its DRAM bank to have begun to wait, once there is a read slot, the header frame is
in the bushel, and a frame is reserved unless every request on its list asks for none (R183, R186, R187, R192). Fetches without a frame for
the stream detector are counted (R190). A register that stands goes on. -/
def State.issueFetch (s : State) (tent reg : Nat) : State :=
  let t := s.tent tent
  match Assoc.find? t.miss reg with
  | none => s
  | some m =>
    let k := bankKey m.ell
    let host := isHostEll m.ell
    let first : Bool := !(t.miss.any (fun x => x.2.st == .waiting && bankKey x.2.ell == k && !host && decide (x.2.order < m.order)))
    let slot : Bool := host || (decide (t.bankSlots k < 32) && decide (t.chanSlots (placeOf m.ell).channel < 256))
    if m.st = .returning [] then s.fillStep tent reg
    else if m.st ≠ .waiting ∨ !first ∨ !slot then s
    else
      let (s, ok) := s.needHeader [] m.ell
      if !ok then s
      else
        let held := (s.tent tent).frameOf? m.ell
        let need : Bool := !m.bypass && m.frame.isNone && held.isNone
        let (s, k) := if need then s.reserve tent m.ell else (s, m.frame.or held)
        if need && k.isNone then s
        else
          let s := if m.bypass && m.waiters.any (fun q => q.kind.isStream) then
              s.modTentCounters tent (fun c => { c with bypass := bump c.bypass 1 })
            else s
          let m := { m with frame := k }
          if host then (s.askHost tent reg m).fillStep tent reg else s.takeSlot tent reg m

/-- MISS_FETCH_ISSUE (R187). -/
def execMissFetchIssue (tent : TentId) (reg : Nat) (s : State) : Host.Outcome State Fault Refusal := .next (s.issueFetch tent.val reg)

/-! ### The DRAM bank's turn (R209, R210) -/

/-- Is a row of the ell being remapped (R223)? -/
def Chan.rowBusy (c : Chan) (e : Nat) : Bool :=
  c.remapping.any (fun r => r.bank == dramBank e && r.row == (placeOf e).row)

/-- Banks of a channel whose head read can be served. -/
def State.readyBanks (s : State) (chan : Nat) : List Nat :=
  let c := s.chan chan
  (c.reads.filter (fun p => match p.2 with
    | [] => false
    | reg :: _ => match Assoc.find? (s.tent (chan / 4)).miss reg with
      | some m => !c.rowBusy m.ell
      | none => false)).map (·.1)

/-- A DRAM bank serves the read at its head: the ell access opens its row and its grains are on their way. -/
def State.dramRead (s : State) (chan bank : Nat) : State :=
  let tent := chan / 4
  let c := s.chan chan
  let ready := s.readyBanks chan
  let later : Bool := c.taken.contains bank && ready.any (fun b => !c.taken.contains b)
  match Assoc.get [] c.reads bank with
  | [] => s
  | reg :: rest =>
    match Assoc.find? (s.tent tent).miss reg with
    | none => s
    | some m =>
      if !ready.contains bank || later then s
      else
        let taken := if c.taken.contains bank then [bank] else c.taken ++ [bank]
        let left := s.toFetch tent m
        let slots := left.filter (· != headerItem)
        let s := s.modChan chan (fun c =>
          { c with reads := if rest.isEmpty then Assoc.del c.reads bank else Assoc.put c.reads bank rest, taken, wrote := false })
        let s := (s.countMoved m.ell (left.length + tagGrains slots) 0).openRow m.ell !slots.isEmpty
        let s := if left.length = slots.length then s else s.openHeaderRow m.ell
        (s.modTent tent (fun t => t.setMiss reg { m with st := .returning left })).fillStep tent reg

/-- A batch of at most 32 write-backs; between two batches a read that is ready has its turn (R210). Writes to a row that is being remapped
wait (R223). -/
def State.dramWrites (s : State) (chan : Nat) : State :=
  let c := s.chan chan
  if c.wrote && !(s.readyBanks chan).isEmpty then s
  else
    let batch := (c.writes.filter (fun e => !c.rowBusy e)).take 32
    s.modChan chan (fun c => { c with writes := batch.foldl List.erase c.writes, wrote := true })

/-- DRAM_ACCESS (R210): one bank's turn, or a batch of at most 32 write-backs. -/
def execDramAccess (chan : ChanId) (turn : DramTurn) (s : State) : Host.Outcome State Fault Refusal :=
  .next (match turn with
    | .read bank => s.dramRead chan.val bank.val
    | .writes => s.dramWrites chan.val)

/-! ### What comes back from the module (R186, R220 to R222, R226, R227) -/

/-- What the decoder makes of one beat: the symbols corrected, or an uncorrectable beat. -/
inductive Beat where
  | good
  | corrected (sym : Nat)
  | bad
deriving DecidableEq, Repr

/-- One beat with its erroneous symbols (R220, R221): one is corrected; with an erasure, whose symbol is restored, none beside it is. Three or
more erroneous symbols count as two do (DESIGN CHOICE: the manual speaks of any two). -/
def decodeBeat (erased : Option Nat) (syms : List Nat) : Beat :=
  match syms.filter (fun x => some x != erased) with
  | [] => .good
  | [x] => if erased.isSome then .bad else .corrected x
  | _ => .bad

/-- The symbols corrected and the number of uncorrectable beats of one grain. -/
def decodeGrain (erased : Option Nat) (beats : List (List Nat)) : List Nat × Nat :=
  let r := beats.map (decodeBeat erased)
  (r.filterMap (fun b => match b with | .corrected x => some x | _ => none), (r.filter (· == .bad)).length)

/-- What has been found with one item of a fetch: corrected symbols and uncorrectable beats of slot, tag grain and header, and mismatches. -/
structure EccFound where
  data : List Nat × Nat := ([], 0)
  tag : List Nat × Nat := ([], 0)
  header : List Nat × Nat := ([], 0)
  tagDiffers : Bool := false
  headerDiffers : Bool := false
deriving DecidableEq, Repr

/-- Does a waiter of the register own the ell? -/
def State.ownedBy (s : State) (m : MissReg) : Bool :=
  m.waiters.any (fun q => let q := s.keyed m.copy q; m.copy.owned q.key q.gen)

/-- Decode and compare what came back with an item of a fetch (R220 to R222, R226, R227): a slot with its tag, or the header. The tag of a
slot whose data or tag grain is poisoned is not compared; nor is anything of an ell that is foreign to every request (R230). -/
def State.decodeItem (s : State) (e item : Nat) (owned : Bool) (x : Ecc) : EccFound :=
  let p := placeOf e
  let c := s.chan p.channel
  let erased (sub : Nat) : Option Nat := Assoc.find? c.erasures (p.rank * 2 + sub)
  let d := s.dramEll e
  if item = headerItem then
    let header := decodeGrain (erased (p.k % 2)) x.header
    { header, headerDiffers := owned && header.2 == 0 && (x.headerMismatch || d.headerDiffers s.boot.metaKey e) }
  else
    let h := s.header e
    let data := decodeGrain (erased (slotPlace e item).1) x.data
    let tag := decodeGrain (erased (tagByte item).1) x.tag
    { data, tag, tagDiffers := owned && data.2 == 0 && tag.2 == 0 && (x.tagMismatch || d.tagDiffers (s.ownerKey h.owner h.gen) e h.gen item) }

/-- Count what has been found (R221, R223, R238): corrections by device position, those and uncorrectable beats of a data row by row. -/
def State.countEcc (s : State) (e item : Nat) (x : EccFound) : State :=
  let p := placeOf e
  let sub := if item = headerItem then p.k % 2 else (slotPlace e item).1
  let pos (sym : Nat) : Nat := p.rank * 20 + sub * 10 + sym
  let syms := x.data.1 ++ x.tag.1 ++ x.header.1
  let s := s.modChan p.channel (fun c =>
    let k := c.counters
    let corrected := syms.foldl (fun m q => Assoc.put m (pos q) (satAdd 64 (Assoc.get 0 m (pos q)) 1)) k.corrected
    let buckets := syms.foldl (fun m q =>
      let l := Assoc.get [0] m (pos q)
      Assoc.put m (pos q) ((l.headD 0 + 1) :: l.tail)) c.buckets
    let row : RowId := ⟨dramBank e, sub, p.row⟩
    let hits := x.data.1.length
    let old := ((c.rowCorr.find? (fun r => r.1 == row)).map (·.2)).getD [0]
    let rowCorr := if hits = 0 then c.rowCorr else (row, (old.headD 0 + hits) :: old.tail) :: c.rowCorr.filter (fun r => r.1 != row)
    let rowBad := if 0 < x.data.2 ∧ !c.rowBad.contains row then c.rowBad ++ [row] else c.rowBad
    { c with buckets, rowCorr, rowBad
             counters := { k with corrected, badData := bump k.badData x.data.2, badTag := bump k.badTag x.tag.2
                                  badHeader := bump k.badHeader x.header.2, tagMismatch := bump k.tagMismatch x.tagDiffers.toNat
                                  headerMismatch := bump k.headerMismatch x.headerDiffers.toNat } })
  { s with resil := { s.resil with corr := (s.resil.corr.headD 0 + syms.length) :: s.resil.corr.tail } }

/-- The grains of an ell that a failure affects, each with its reason (R222). A header failure affects all 16; another one the stored, live
grains with bytes in the slot, or in a slot that the tag grain covers. -/
def affected (h : EllHeader) (item : Nat) (x : EccFound) : List (Nat × Nat) :=
  let live := (List.range 16).filter (fun g => !mapBit h.dead g)
  let sharing (p : Nat → Bool) (r : Nat) : List (Nat × Nat) :=
    (live.filter (fun g => (slotsOfGrain h g).any p)).map (fun g => (g, r))
  if 0 < x.header.2 ∨ x.headerDiffers then (List.range 16).map (fun g => (g, 4))
  else
    (if 0 < x.tag.2 then sharing (fun s => s % 2 == item % 2) 3 else []) ++
    (if 0 < x.data.2 then sharing (· == item) 2 else []) ++
    (if x.tagDiffers then sharing (· == item) 1 else [])

/-- A grain affected by several failures carries the reason of the first in the order header, tag grain, data slot, tag mismatch: the largest
of the reasons 4, 3, 2, 1 (R222). -/
def addReasons (m : FMap Nat) (l : List (Nat × Nat)) : FMap Nat := l.foldl (fun m p => Assoc.put m p.1 (max p.2 (Assoc.get 0 m p.1))) m

/-- Mark the affected grains in the module and in the copy; grains written since the fetch began are not of the module. A reader to which the
ell is foreign reads zeros all the same (R222, R230, R239). -/
def State.markEcc (s : State) (c : EllCopy) (item : Nat) (owned : Bool) (x : EccFound) : State × EllCopy :=
  if !owned then (s, c)
  else
    let m := (affected (s.header c.ell) item x).filter (fun p => !mapBit c.dirty p.1)
    let d := s.dramEll c.ell
    if m.isEmpty then (s, c)
    else (s.setDram c.ell { d with bad := addReasons d.bad m }, { c with bad := addReasons c.bad m })

/-- The grains of a copy whose stored slots have all come, `rest` being still to come: their plaintext is held (R186, R218, R225). -/
def State.gatherSlots (s : State) (c : EllCopy) (rest : List Nat) : EllCopy :=
  let h := s.header c.ell
  let d := s.dramEll c.ell
  let k := s.ownerKey h.owner h.gen
  ((List.range 16).filter (fun g => !c.has g && (slotsOfGrain h g).all (fun x => !rest.contains x))).foldl
    (fun c g => { c.setGrain g (d.plain h k c.ell g) with present := setBit c.present g }) c

/-- A stored slot or the header arrives from the module: decoded, decrypted and compared with its tag; waiters are served (R186, R220 to
R222, R225 to R227). -/
def State.grainReturn (s : State) (tent reg : Nat) (ecc : Ecc) : State :=
  match Assoc.find? (s.tent tent).miss reg with
  | none => s
  | some m =>
    match m.st with
    | .returning (item :: rest) =>
      let owned := s.ownedBy m
      let x := s.decodeItem m.ell item owned ecc
      let s := s.countEcc m.ell item x
      let p := headerFrame m.ell
      let s := if item = headerItem && owned then s.modHeaderFrame m.ell (fun hs ch ck => .header p.1 hs ch (setBit ck p.2)) else s
      let (s, c) := s.markEcc (s.gatherSlots m.copy rest) item owned x
      (s.modTent tent (fun t => t.setMiss reg { m with copy := c, st := .returning rest })).fillStep tent reg
    | _ => s

/-- A grain of a host ell arrives for the miss register of its home tent that waits for it (R185, R308). -/
def State.hostGrainReturn (s : State) (g : Nat) (bytes : List Byte) (poison : Bool) : State :=
  let ell := ellOfGrain g
  let tent := homeTent ell
  let i := grainInEll g
  let regs := (s.tent tent).miss.filter (fun m => m.2.ell == ell)
  regs.foldl (fun s p =>
    match p.2.st with
    | .host left =>
      if !left.contains g then s
      else
        let left := left.filter (fun x => x != g)
        let c := { p.2.copy.setGrain i bytes with present := setBit p.2.copy.present i }
        let c := if poison then { c with bad := Assoc.put c.bad i 2 } else c
        (s.modTent tent (fun t => t.setMiss p.1 { p.2 with copy := c, st := if left.isEmpty then .returning [] else .host left })).fillStep tent p.1
    | _ => s) s

/-! ### Refresh, erasures, remaps, rates -/

/-- REFRESH (R235): the bank's rows are closed by the refresh (DEDUCED), its 130 ns and the cycles it blocks are time. -/
def execRefresh (chan : ChanId) (bank : DramBankId) (s : State) : Host.Outcome State Fault Refusal :=
  .next (s.modChan chan.val (fun c => { c with rowOpen := Assoc.del c.rowOpen bank.val }))

/-- Corrections of a position in the last 24 hours (R221). -/
def Chan.corrections (c : Chan) (pos : Nat) : Nat := (Assoc.get [] c.buckets pos).foldl (· + ·) 0

/-- A position whose count has reached 16 becomes an erasure, unless its rank and subchannel already has one (R221). -/
def State.markErasure (s : State) (chan rank sub sym : Nat) : State :=
  let c := s.chan chan
  let key := rank * 2 + sub
  if c.corrections (rank * 20 + sub * 10 + sym) < 16 then s
  else match Assoc.find? c.erasures key with
    | some x =>
      if x = sym then s
      else s.modChanCounters chan (fun k => { k with erasuresRefused := bump k.erasuresRefused 1 })
    | none =>
      (s.modChan chan (fun c =>
        { c with erasures := Assoc.put c.erasures key sym
                 counters := { c.counters with erasuresMarked := bump c.counters.erasuresMarked 1 } })).saveChans

/-- ERASURE_MARK (R221). -/
def execErasureMark (chan : ChanId) (rank sub : Fin 2) (sym : Fin 10) (s : State) : Host.Outcome State Fault Refusal :=
  .next (s.markErasure chan.val rank.val sub.val sym.val)

/-- A row with 8 corrections or an uncorrectable beat is copied to a spare row, if its bank has one left (R223). -/
def State.startRemap (s : State) (chan : Nat) (r : RowId) : State :=
  let c := s.chan chan
  let corr : Nat := (((c.rowCorr.find? (fun x => x.1 == r)).map (·.2)).getD []).foldl (· + ·) 0
  let due : Bool := decide (8 ≤ corr) || c.rowBad.contains r
  let busy : Bool := c.remapping.contains r
  let used := (c.remaps.filter (fun x => x.1.bank == r.bank && x.1.sub == r.sub)).length +
    (c.remapping.filter (fun x => x.bank == r.bank && x.sub == r.sub)).length
  if !due || busy then s
  else if 64 ≤ used then s.modChan chan (fun c => { c with noSpare := insertNat r.bank c.noSpare })
  else s.modChan chan (fun c => { c with remapping := c.remapping ++ [r] })

/-- ROW_REMAP (R223). -/
def execRowRemap (chan : ChanId) (bank : DramBankId) (sub : Fin 2) (row : Nat) (s : State) : Host.Outcome State Fault Refusal :=
  .next (s.startRemap chan.val ⟨bank.val, sub.val, row⟩)

/-- The remap copy has ended: the row is redirected to the next spare row, and the table is saved (R223). -/
def State.endRemap (s : State) (chan : Nat) (r : RowId) : State :=
  let c := s.chan chan
  if !c.remapping.contains r then s
  else
    let spare := (c.remaps.filter (fun x => x.1.bank == r.bank && x.1.sub == r.sub)).length
    let s := s.modChan chan (fun c =>
      { c with remapping := c.remapping.erase r, remaps := c.remaps ++ [(r, spare)]
               rowCorr := c.rowCorr.filter (fun x => x.1 != r), rowBad := c.rowBad.erase r })
    (s.modChanCounters chan (fun k =>
      { k with sparesUsed := Assoc.put k.sparesUsed r.bank (Assoc.get 0 k.sparesUsed r.bank + 1) })).saveChans

/-- ROW_REMAP_COMPLETE (R223). -/
def execRowRemapComplete (chan : ChanId) (bank : DramBankId) (sub : Fin 2) (row : Nat) (s : State) : Host.Outcome State Fault Refusal :=
  .next (s.endRemap chan.val ⟨bank.val, sub.val, row⟩)

/-- A new hour bucket before the others; the 25th is dropped. -/
def rollBucket (l : List Nat) : List Nat := (0 :: l).take 24

/-- RATE_BUCKET_ROLL (R221, R223, R369): every 24-hour window drops its oldest hour. -/
def execRateBucketRoll (s : State) : Host.Outcome State Fault Refusal :=
  .next { s with
    chans := Assoc.mapVals (fun _ (c : Chan) => { c with
      buckets := Assoc.mapVals (fun _ => rollBucket) c.buckets, rowCorr := c.rowCorr.map (fun r => (r.1, rollBucket r.2)) }) s.chans
    resil := { s.resil with corr := rollBucket s.resil.corr, retrain := rollBucket s.resil.retrain, loss := rollBucket s.resil.loss } }

end Sys2Proof.Machine
end

