-- ==== Sys2Proof/Machine/Trust.lean ====
section
/-!
DEFINITION. The key manifest and the firmware image: layout, and what makes one pass (R447 to R450, R452); the sealed identity (R453).
-/

namespace Sys2Proof.Machine

/-- A little-endian field of some bytes. -/
def fieldAt (b : List Byte) (at_ n : Nat) : Nat := leNat ((b.drop at_).take n)

/-! ### The manifest (R448) -/

/-- ROOT_INDEX. -/
def rootIndexOf (m : List Byte) : Nat := fieldAt m 6 1
/-- ROOT_FLOOR. -/
def rootFloorOf (m : List Byte) : Nat := fieldAt m 7 1
/-- MANIFEST_VERSION. -/
def manifestVersionOf (m : List Byte) : Nat := fieldAt m 8 4
/-- FW_VERSION_FLOOR. -/
def fwFloorOf (m : List Byte) : Nat := fieldAt m 12 4
/-- KEY_COUNT. -/
def keyCountOf (m : List Byte) : Nat := fieldAt m 16 1

/-- The public key of a firmware key that the manifest lists. -/
def manifestKey? (m : List Byte) (id : Nat) : Option (List Byte) :=
  ((List.range (keyCountOf m)).find? (fun i => fieldAt m (88 + 72 * i) 4 == id)).map (fun i => (m.drop (96 + 72 * i)).take 64)

/-- A manifest is valid (R448). -/
def manifestOk (m : List Byte) : Bool :=
  let n := keyCountOf m
  let body := m.take (88 + 72 * n)
  m.take 4 == ascii "EZMF" && fieldAt m 4 2 == 1 && decide (1 ≤ n) && decide (n ≤ 8) && decide (152 + 72 * n ≤ m.length) &&
  decide (rootIndexOf m < 4) && beNat (Sm3.hash ((m.drop 24).take 64)) == (Config.romRootHash (rootIndexOf m)).toNat &&
  decide (rootFloorOf m ≤ rootIndexOf m) && Sm2.verify ((m.drop 24).take 64) body ((m.drop (88 + 72 * n)).take 64) "EZ4832-ROOT"

/-! ### The firmware image (R449) -/

/-- FW_VERSION. -/
def fwVersionOf (b : List Byte) : Nat := fieldAt b 4 4
/-- KEY_ID. -/
def fwKeyOf (b : List Byte) : Nat := fieldAt b 8 4
/-- STAGE_COUNT. -/
def stageCountOf (b : List Byte) : Nat := fieldAt b 12 1
/-- The digest that the header gives for a stage. -/
def stageDigest (b : List Byte) (s : Nat) : List Byte := (b.drop (32 + 48 * s)).take 32
/-- A stage lies inside the image and its digest matches. -/
def stageOk (b : List Byte) (s : Nat) : Bool :=
  let off := fieldAt b (20 + 48 * s) 4
  let len := fieldAt b (24 + 48 * s) 4
  decide (off + len ≤ b.length) && Sm3.hash ((b.drop off).take len) == stageDigest b s

/-- What a firmware image fails by. -/
inductive FwFail where
  | signature | key | floor | stageH | digest
deriving DecidableEq, Repr

/-- The first check of R449, R450 that an image fails under a manifest, in the order in which the ROM makes them. -/
def fwFails (m b : List Byte) : Option FwFail :=
  match manifestKey? m (fwKeyOf b) with
  | none => some .key
  | some pub =>
    if !(decide (4096 ≤ b.length) && b.take 4 == ascii "EZFW" && decide (1 ≤ stageCountOf b) && decide (stageCountOf b ≤ 8) &&
        Sm2.verify pub (b.take 4032) ((b.drop 4032).take 64) "EZ4832-FW") then some .signature
    else if fwVersionOf b < fwFloorOf m then some .floor
    else if fieldAt b 16 1 ≠ 0 ∨ 2 ^ 20 < fieldAt b 24 4 then some .stageH
    else if !((List.range (stageCountOf b)).all (stageOk b)) then some .digest
    else none

/-- BOOT_ERROR of a failure in both copies (R450). -/
def FwFail.bootError : FwFail → Nat
  | .signature | .key | .floor => 2
  | .digest => 3
  | .stageH => 4

/-- FW_UPDATE_RESULT of a failure (R458); a stage H that is out of order has no value of its own and reads as 4 (DESIGN CHOICE). -/
def FwFail.result : FwFail → Nat
  | .signature => 1 | .key => 2 | .floor => 3 | .digest => 4 | .stageH => 4

/-! ### The ROM's choice of a copy (R450) -/

/-- The valid banks of set `n`, the chosen one first. -/
def NvSet.copies (x : NvSet) (n : Nat) : List (Nat × NvBank) :=
  let of (i : Nat) : List (Nat × NvBank) := match x.valid? n i with | some b => [(i, b)] | none => []
  if x.chosenBank? n = some 1 then of 1 ++ of 0 else of 0 ++ of 1

/-- The first copy of a set that passes, with its bank; and whether it is the second one tried (R450). -/
def NvSet.firstPass {α : Type} (x : NvSet) (n : Nat) (pass : NvBank → Option α) : Option (Nat × α × Bool) :=
  ((x.copies n).filterMap (fun c => (pass c.2).map (fun a => (c.1, a, some c.1 != x.chosenBank? n)))).head?

/-- The bytes of a copy. -/
def NvBank.bytes (b : NvBank) : List Byte := match b.content with | .bytes l => l | _ => []

/-- What the ROM finds in sets 5 and 0: BOOT_ERROR of a recovery, or manifest, image, its bank, and BOOT_ERROR. -/
inductive RomFind where
  | recovery (error : Nat) (manifest : Option (List Byte))
  | boot (manifest image : List Byte) (bank error : Nat)
deriving DecidableEq, Repr

/-- The ROM's verification (R450). Where the two copies of the image fail differently, BOOT_ERROR is that of the second (DESIGN CHOICE). -/
def romVerify (set5 set0 : NvSet) : RomFind :=
  match set5.firstPass 5 (fun b => if manifestOk b.bytes then some b.bytes else none) with
  | none => .recovery 1 none
  | some (_, m, second5) =>
    match set0.firstPass 0 (fun b => if (fwFails m b.bytes).isNone then some b.bytes else none) with
    | some (bank, img, second0) => .boot m img bank (if second5 || second0 then 0x10 else 0)
    | none =>
      let e := match (set0.copies 0).getLast? with
        | some (_, b) => ((fwFails m b.bytes).map FwFail.bootError).getD 2
        | none => 2
      .recovery e (some m)

/-! ### The sealed identity (R453) -/

/-- The key of the sealed block: HMAC-SM3(K_PUF, "EZ4832 seal"); SM4 takes its first 16 bytes (DESIGN CHOICE: the manual does not cut it). -/
def sealKey (kPuf : BitVec 256) : W128 := BitVec.ofNat 128 (beNat ((hmacSm3 (beBytes 32 kPuf.toNat) (ascii "EZ4832 seal")).take 16))

/-- What is sealed: DS, the identity private key, and OPERATOR_KEY behind a byte that tells whether there is one. The manual gives no
layout (DESIGN CHOICE). -/
def Identity.secrets (i : Identity) : List Byte :=
  i.ds ++ i.priv ++ (match i.operatorKey with | some k => 1#8 :: k | none => [0#8])

/-- Seal an identity as set 4 holds it. -/
def Identity.seal (i : Identity) (nonce : List Byte) : SealedId :=
  { helper := i.helper, nonce, block := Sm4.gcmSeal (sealKey i.kPuf) nonce i.secrets, pub := i.pub, cert := i.cert, chain := i.chain }

/-- Open a copy of set 4 under a K_PUF: `none` where the block does not authenticate. -/
def SealedId.openWith (x : SealedId) (k : BitVec 256) : Option Identity :=
  (Sm4.gcmOpen (sealKey k) x.nonce x.block).map (fun b =>
    { kPuf := k, ds := b.take 32, priv := (b.drop 32).take 32
      operatorKey := if (b.drop 64).head? = some 1#8 then some (b.drop 65) else none
      helper := x.helper, pub := x.pub, cert := x.cert, chain := x.chain })

/-- Unseal a copy of set 4 with what the PUF SRAM held: `none` where K_PUF is not reconstructed either. -/
def SealedId.unseal (x : SealedId) (sram : W64) : Option Identity := (Config.fuzzyExtract sram x.helper).bind x.openWith

end Sys2Proof.Machine
end

