-- ==== Sys2Proof/Machine/Yard.lean ====
section
/-!
DEFINITION. The steelyard: metering, the cap and its law, shares, thermal floors, energy intervals (R385 to R403), and what the control
period of 10 µs does.
-/

namespace Sys2Proof.Machine

/-! ### Metering (R385, R400) -/

/-- Rails of R385 in table order: 0 to 7 the tents, 8 to 14 the non-tent rails. -/
def railCount : Nat := 15

/-- The sum of some numbers. -/
def ratSum (l : List Rat) : Rat := l.foldl (· + ·) 0

/-- The calibration coefficients in the NV store (R400). -/
def State.coefficients (s : State) : List Byte := match s.nvContent? 8 with | some (.calibration r _) => r | _ => []

/-- A sample: what the inputs read is brought to µW by the calibration coefficients; the sums of the period, the device energy and that of
the second in progress grow. -/
def State.meterSample (s : State) (x : RailSample) : State :=
  let p := (List.range railCount).map (fun i => Config.calibratedPower s.coefficients i (x.mV.getD i 0) (x.mA.getD i 0))
  let all := p.foldl (· + ·) 0
  s.modYard (fun y => { y with
    sums := (List.range railCount).map (fun i => y.sums.getD i 0 + p.getD i 0), samples := y.samples + 1
    energy := y.energy + all, secEnergy := y.secEnergy + all })

/-- METER_SAMPLE (R400). -/
def execMeterSample (sample : RailSample) (s : State) : Host.Outcome State Fault Refusal := .next (s.meterSample sample)

/-- Does the record of set 8 pass its check (R400, R435)? -/
def State.calibrated (s : State) : Bool :=
  match s.nvContent? 8 with
  | some (.calibration _ good) => good
  | _ => false

/-- METER_OK (R400). -/
def State.meterOk (s : State) : Bool := s.clocks.refStable && s.calibrated

/-- Microjoules of an energy in microwatt samples of 160 ns: whole ones. -/
def microJoules (e : Nat) : Nat := e * 16 / 10 ^ 8

/-! ### The effective cap (R392) -/

/-- No write of CAP_W has arrived for CAP_LEASE_S seconds (R392): 100,000 control periods make a second. -/
def State.leaseRunOut (s : State) : Bool :=
  let lease := realOf (s.dictVal 0x2000 2 0)
  decide (lease ≠ 0) && decide (lease * 100000 ≤ ((s.periods - s.yard.capWritten : Nat) : Rat))

/-- The effective cap as it stands now (R392). -/
def State.capNow (s : State) : Rat :=
  let a := min (realOf s.yard.capW.toNat) 2000
  if s.yard.lapsed && s.leaseRunOut then min a (realOf (s.dictVal 0x2000 3 0x44960000)) else a

/-- CAP_LEASE_EXPIRY (R392): the fall-back cap comes into force, from the next control period on. -/
def execCapLeaseExpiry (s : State) : Host.Outcome State Fault Refusal :=
  .next (if s.leaseRunOut then s.modYard (fun y => { y with lapsed := true }) else s)

/-! ### Shares and the law (R393 to R395) -/

/-- Is the ring island of a tent Active? -/
def State.tentActive (s : State) (t : Nat) : Bool := decide ((s.island t).st = .active)

/-- The level in force on a tent (R391). -/
def State.levelInForce (s : State) (t : Nat) : Nat := if s.braked then 56 else Assoc.get 0 s.yard.level t

/-- Mean powers of the rails over the period that has ended, in watt; those of the period before where no sample came. -/
def Steelyard.meanPower (y : Steelyard) : List Rat :=
  if y.samples = 0 then (List.range railCount).map (fun i => y.power.getD i 0)
  else (List.range railCount).map (fun i => (y.sums.getD i 0 : Rat) / ((y.samples * 10 ^ 6 : Nat) : Rat))

/-- mix[t][ph] of R395: the part of the tent's booth issue slots of the period that went to a phase. -/
def Steelyard.mixOf (y : Steelyard) (t ph : Nat) : Rat :=
  let given := ((List.range 5).map (fun p => Assoc.get 0 y.mix (t * 5 + p))).foldl (· + ·) 0
  let all := max given (Assoc.get 0 y.slots t)
  if all = 0 then 0 else ((Assoc.get 0 y.mix (t * 5 + ph) : Nat) : Rat) / (all : Rat)

/-- P_STATIC of a tent in watt (R388). -/
def State.pStatic (s : State) (t : Nat) : Rat := ((s.island t).pStatic : Rat) / 1000

/-- One tent of learned_shares (R395): D afterwards, and what the tent wants. -/
def State.learnTent (s : State) (power : List Rat) (learned : FMap Rat) (t : Nat) : FMap Rat × Rat :=
  let y := s.yard
  let p := power.getD t 0
  let issued : Bool := (List.range 5).any (fun ph => decide (0 < Assoc.get 0 y.mix (t * 5 + ph)))
  if !s.tentActive t || !issued then (learned, p)
  else
    let est := (p - s.pStatic t) * 64 / ((64 - s.levelInForce t : Nat) : Rat)
    let learned := (List.range 5).foldl (fun d ph =>
      let m := y.mixOf t ph
      let old := Assoc.get 0 d (t * 5 + ph)
      if 0 < m then Assoc.put d (t * 5 + ph) (old + (est - old) * m / 16) else d) learned
    (learned, s.pStatic t + ratSum ((List.range 5).map (fun ph => y.mixOf t ph * Assoc.get 0 learned (t * 5 + ph))))

/-- What every tent wants, and D afterwards (R395). -/
def State.wants (s : State) (power : List Rat) : FMap Rat × List Rat :=
  (List.range 8).foldl (fun acc t =>
    let r := s.learnTent power acc.1 t
    (r.1, acc.2 ++ [r.2])) (s.yard.learned, [])

/-- The budgets of R394 or R395. Where no tent wants anything and the pool is below zero the manual's quotient has no value: `open_`. -/
def State.budgets (s : State) (power : List Rat) (pool open_ : Rat) : FMap Rat × List Rat :=
  if s.dictVal 0x2001 1 0 = 0 then (s.yard.learned, (List.range 8).map (fun t => pool * (s.yard.fracs.getD t 0 : Rat) / 256))
  else
    let (learned, want) := s.wants power
    let all := ratSum want
    (learned, want.map (fun w => if all ≤ pool then w + (pool - all) / 8 else if all = 0 then open_ else pool * w / all))

/-- The change d of R393 for a tent's power and budget; at power 0 the manual's quotient has no value: `open_`. -/
def capStep (p budget : Rat) (open_ : Int) : Int :=
  let x := p - budget
  if p = 0 then open_
  else if 0 < x then ratCeil (64 * x / p) else -(ratFloor (64 * (-x) / p))

/-- cap_level after a change, kept from 0 to 56. -/
def capLevelAfter (old : Nat) (d : Int) : Nat := (min (max ((old : Int) + d) 0) 56).toNat

/-- The thermal floor after a period (R398). -/
def thermalAfter (old : Nat) (junction throttle : Rat) : Nat :=
  if throttle ≤ junction then min (old + 4) 56 else if junction < throttle - 5 then old - 1 else old

/-- The control law of R393 over the period that has ended, with the thermal floors of R398 and the level of R391. While the brake is held,
cap_level of an Active tent stands at 56, from where the law lowers it after the release (R399, R417, DEDUCED). -/
def State.controlLaw (s : State) (power : List Rat) (junction : List Int) : State :=
  let (s, v) := s.freeW64
  let openB : Rat := (v.toInt : Rat)
  let nontent := ratSum (power.drop 8)
  let (learned, budget) := s.budgets power (s.yard.effective - nontent) openB
  let above (t : Nat) : Bool := s.tentActive t && decide (budget.getD t 0 < power.getD t 0)
  let cap (t : Nat) : Nat :=
    if !s.tentActive t then 0 else if s.braked then 56 else capLevelAfter (Assoc.get 0 s.yard.capLevel t) (capStep (power.getD t 0) (budget.getD t 0) v.toInt)
  let throttle := realOf (s.dictVal 0xA001 1 0x42C80000)
  let floor (t : Nat) : Nat := thermalAfter (Assoc.get 0 s.yard.thermal t) ((junction.getD t 0 : Rat) / 1000) throttle
  let tab (f : Nat → Nat) : FMap Nat := (List.range 8).map (fun t => (t, f t))
  let under := if (List.range 8).all (fun t => !above t) then s.yard.underCount + 1 else 0
  s.modYard (fun y => { y with
    learned, capLevel := tab cap, thermal := tab floor, level := tab (fun t => max (cap t) (floor t))
    overCount := tab (fun t => if above t && Assoc.get 0 y.capLevel t == 56 then Assoc.get 0 y.overCount t + 1 else 0)
    underCount := under, unattainable := y.unattainable && decide (under < 100) })

/-- CAP_UNATTAINABLE (R393): 100 consecutive periods of a tent at cap_level 56 with x above 0 set the flag. -/
def execCapUnattainable (tent : TentId) (s : State) : Host.Outcome State Fault Refusal :=
  .next (if 100 ≤ Assoc.get 0 s.yard.overCount tent.val then s.modYard (fun y => { y with unattainable := true }) else s)

/-! ### Energy intervals (R401 to R403) -/

/-- Contexts with a started command that is not complete (R318, R365, R401). -/
def State.holding (s : State) : List Nat :=
  s.hub.cmds.foldl (fun l c => match c.2.ctx with
    | some x => if isFlip c.2.words && decide (c.2.st = .accepted) then l else insertNat x l
    | none => l) []

/-- The records of an interval (R402). -/
def Steelyard.logRecords (y : Steelyard) : List (List W64) :=
  let n := y.ivHolders.length
  let parts := max 1 (ceilDiv n 16)
  (List.range parts).map (fun k =>
    let field (i : Nat) : Nat := (y.ivHolders[k * 16 + i]?).getD 0xFFFF
    let names (w : Nat) : W64 :=
      BitVec.ofNat 64 (field (4 * w) + field (4 * w + 1) * 2 ^ 16 + field (4 * w + 2) * 2 ^ 32 + field (4 * w + 3) * 2 ^ 48)
    [y.ivSeq, BitVec.ofNat 64 (microJoules y.ivEnergy), BitVec.ofNat 64 y.ivPeriods,
     BitVec.ofNat 64 (n * 2 ^ 48 + k * 2 ^ 40 + parts * 2 ^ 32 + (if y.ivMeterOk then 1 else 0)), names 0, names 1, names 2, names 3])

/-- Can the energy log be reached: firmware runs, so that the hub and the bushels are out of reset, and CXL.cache is on for a log in host
memory (R443, R469, R472)? -/
def State.logReachable (s : State) (host : Bool) : Bool := decide (s.boot.state = 2) && (!host || s.cxlOn)

/-- Write one record to the energy log, or drop and count it (R402). A record that cannot be written because the log is out of reach is
dropped and counted too (DESIGN CHOICE). -/
def State.logRecord (s : State) (r : List W64) : State :=
  let size := s.dictVal 0x2300 2 0
  if size = 0 then s
  else
    let tail := s.yard.elogTail
    let base := s.dictVal 0x2300 1 0
    if 2 ^ size ≤ (tail - BitVec.ofNat 32 (s.dictVal 0x2300 3 0)).toNat || !s.logReachable (bitN base 63) then
      s.modYard (fun y => { y with elogLost := y.elogLost + 1 })
    else
      let s := s.modYard (fun y => { y with elogTail := tail + 1 })
      s.writePlace (bitN base 63) (bits base 51 12 * 4096 + 64 * (tail.toNat % 2 ^ size)) (r.flatMap (fun w => leBytes 8 w.toNat)) .none

/-- The totals of R403 take an interval. -/
def Steelyard.addTotals (y : Steelyard) : Steelyard :=
  let alone : Bool := y.ivHolders.length == 1
  { y with totals := y.ivHolders.foldl (fun m c =>
      let e := Assoc.get {} m c
      Assoc.put m c (if alone then { e with excl := e.excl + y.ivEnergy, exclPeriods := e.exclPeriods + y.ivPeriods }
                     else { e with shared := e.shared + y.ivEnergy, sharedPeriods := e.sharedPeriods + y.ivPeriods })) y.totals }

/-- The open interval ends: its records and totals are written. -/
def State.closeInterval (s : State) : State :=
  if s.yard.ivPeriods = 0 then s
  else
    let s := s.yard.logRecords.foldl State.logRecord s
    s.modYard (fun y => { y.addTotals with ivSeq := y.ivSeq + 1, ivPeriods := 0, ivEnergy := 0, ivMeterOk := true })

/-- The period that has ended joins the open interval, or opens one of its own holders (R401). -/
def State.addPeriod (s : State) : State :=
  let now := s.holding
  let holders := unionNat s.yard.holders now
  let s := if s.yard.ivHolders = holders then s else s.closeInterval
  let ok := s.meterOk
  let s := s.modYard (fun y => { y with
    ivHolders := holders, ivEnergy := y.ivEnergy + (y.energy - y.lastEnergy), ivPeriods := y.ivPeriods + 1
    ivMeterOk := y.ivMeterOk && y.meterStart && ok, meterStart := ok, lastEnergy := y.energy, holders := now })
  if 100000 ≤ s.yard.ivPeriods then s.closeInterval else s

/-! ### Idle islands (R409, R410) -/

/-- The rings of a tent. -/
def ringsOfTent (t : Nat) : List Nat := (List.range 192).filter (fun r => tentOfRing r == t)

/-- No troupe is resident and no state is kept for the debugger. -/
def Ring.idle (r : Ring) : Bool := r.groups.isEmpty && !r.debug && r.booths.all (fun y => y.2.troupes.isEmpty)

/-- A ring group of a fixed placement waits for a ring (R323, R410). -/
def State.awaited (s : State) (ring : Nat) : Bool :=
  s.hub.cmds.any (fun c => match c.2.dispatch with
    | some d => decide (c.2.st = .running) && d.fixed && (s.groupFor d ring).isSome
    | none => false)

/-- Is the ring island of a tent idle (R410)? -/
def State.islandIdle (s : State) (t : Nat) : Bool := (ringsOfTent t).all (fun r => (s.ring r).idle && !s.awaited r)

/-- No request of a ring is outstanding at a fabric port, a combiner, a DMA issue queue or a matrix queue (R409), and no line waits to be
written back. -/
def Ring.quiet (r : Ring) : Bool :=
  r.combiner.isEmpty && r.satoms.isEmpty && r.dmaq.isEmpty && r.ldq.isEmpty && r.loads.isEmpty && r.writes.isEmpty && r.allocs.isEmpty &&
  r.sreqs.isEmpty && r.l1.all (fun l => l.2.dirty == 0) &&
  r.booths.all (fun y => y.2.mq.isEmpty && y.2.feed.isEmpty && y.2.pipe.isEmpty && y.2.drain.isEmpty)

/-- May an island be stopped: idle, and nothing outstanding? -/
def State.islandQuiet (s : State) (t : Nat) : Bool := s.islandIdle t && (ringsOfTent t).all (fun r => (s.ring r).quiet)

/-- A ring whose power has been cut: slots, L1, scratchpad and accumulators are gone, its context association stays (R410). -/
def Ring.gated (r : Ring) : Ring := { ctx := r.ctx, nextGroup := r.nextGroup, nextOp := r.nextOp, nextSeq := r.nextSeq }

/-- Open the power switches of an island (R409 step 5, R410). -/
def State.gate (s : State) (t : Nat) : State :=
  let s := s.modIsland t (fun i => { i with st := .gated })
  { s with rings := Assoc.mapVals (fun r x => if tentOfRing r = t then x.gated else x) s.rings }

/-- The period in which idleness of every island began is noted: at the end of the first period in or before which the last troupe left; a
fenced island that is idle is gated (R410, R415). -/
def State.noteIdle (s : State) : State :=
  (List.range 8).foldl (fun (s : State) t =>
    let idle := s.islandIdle t
    let since : Option Nat := if idle then some ((s.island t).idleSince.getD (s.periods - 1)) else none
    let s := s.modIsland t (fun i => { i with idleSince := since })
    if (s.island t).fenced && decide ((s.island t).st ≠ .gated) && s.islandQuiet t then s.gate t else s) s

/-- The control periods, the one in progress among them, in which an island has been idle. Time within a period is not modelled, so that the
island may have been idle for any time short of them (DESIGN CHOICE). -/
def State.idleFor (s : State) (t : Nat) : Option Nat := (s.island t).idleSince.map (fun p => s.periods + 1 - p)

/-- IDLE_STOP (R410): idle for IDLE_STOP_US. -/
def execIdleStop (tent : TentId) (s : State) : Host.Outcome State Fault Refusal :=
  let t := tent.val
  let us := s.dictVal 0x3100 1 100
  .next (match s.idleFor t with
    | some n =>
      if decide ((s.island t).st = .active) && decide (us ≠ 0) && decide (us < 10 * n) && s.islandQuiet t then
        s.modIsland t (fun i => { i with st := .stopped })
      else s
    | none => s)

/-- IDLE_GATE (R410): a Clock-stopped island idle for IDLE_GATE_MS from the start of idleness. -/
def execIdleGate (tent : TentId) (s : State) : Host.Outcome State Fault Refusal :=
  let t := tent.val
  let ms := s.dictVal 0x3100 2 5
  .next (match s.idleFor t with
    | some n =>
      if decide ((s.island t).st = .stopped) && !(s.island t).waking && decide (ms ≠ 0) && decide (100 * ms < n) && s.islandQuiet t then s.gate t
      else s
    | none => s)

/-- A DISPATCH that the barker has fetched, and whose groups are not all placed, allows rings of the tent (R411). -/
def State.dispatchWants (s : State) (t : Nat) : Bool :=
  let allows (w : List W64) : Bool := cmdOp w == 1 && (allowedRings w).any (fun r => tentOfRing r == t)
  s.hub.queues.any (fun q => !q.2.admin && q.2.fetched.any (fun c => allows c.words)) ||
  s.hub.cmds.any (fun c => c.2.ctx.isSome && (c.2.st == .accepted || c.2.st == .running) && allows c.2.words)

/-- 24 hours of operation in control periods (R412). -/
def dayPeriods : Nat := 24 * 3600 * 100000

/-- Is an ageing measurement of the tent due: none since the start, or 24 hours since the last (R412)? -/
def State.ageingDue (s : State) (t : Nat) : Bool :=
  match (s.island t).measured with
  | none => true
  | some p => decide (p + dayPeriods ≤ s.periods)

/-- WAKE_REQUEST (R411): for a dispatch or for an ageing measurement, and for nothing else; a fenced island stays gated. -/
def execWakeRequest (tent : TentId) (s : State) : Host.Outcome State Fault Refusal :=
  let i := s.island tent.val
  let wanted : Bool := s.dispatchWants tent.val || s.ageingDue tent.val
  .next (if i.fenced || decide (i.st = .active) || i.waking || decide (s.boot.state ≠ 2) || !wanted then s
    else s.modIsland tent.val (fun i => { i with
      waking := true, wakes := if i.st = .gated then bump i.wakes 1 else i.wakes }))

/-- ISLAND_ACTIVE (R411): an island fenced since its request stays gated (R415). -/
def execIslandActive (tent : TentId) (s : State) : Host.Outcome State Fault Refusal :=
  .next (if !(s.island tent.val).waking then s
    else if (s.island tent.val).fenced then s.modIsland tent.val (fun i => { i with waking := false })
    else s.modIsland tent.val (fun i => { i with st := .active, waking := false, idleSince := none }))

/-! ### The control period (R392, R393, R398, R401) -/

/-- CONTROL_PERIOD: a period of 10 µs has ended. The law uses the cap that stood at its start; the cap of the next period is then found. -/
def State.controlPeriod (s : State) (x : PeriodSense) : State :=
  let power := s.yard.meanPower
  let junction := (List.range 9).map (fun i => (x.junctionMilliC[i]?).getD (s.yard.junction.getD i 0))
  let s := s.controlLaw power junction
  let s := { s with
    periods := s.periods + 1
    trip := { s.trip with hot := (List.range 9).filter (fun i => decide (125000 ≤ junction.getD i 0)) } }
  let s := s.modYard (fun y =>
    let full : Bool := decide (100000 ≤ y.secPeriods + 1)
    { y with power, junction, sums := [], samples := 0, mix := [], slots := []
             secEnergy := if full then 0 else y.secEnergy, secPeriods := if full then 0 else y.secPeriods + 1
             power1s := if full then (y.secEnergy * 16 : Rat) / (10 ^ 14 : Nat) else y.power1s })
  let s := s.addPeriod
  let s := s.noteIdle
  s.modYard (fun y => { y with effective := s.capNow })

/-- CONTROL_PERIOD (R393). -/
def execControlPeriod (sense : PeriodSense) (s : State) : Host.Outcome State Fault Refusal := .next (s.controlPeriod sense)

/-! ### AVSBus (R387, R388, R479) -/

/-- The target of a tent for its voltage table and margin (R388). -/
def targetMv (vTest mAge : Nat) : Nat := min (max (vTest + 25 + mAge) 600) 900

/-- The next step of a target, of at most 10 mV, is sent unless one is under way, the goal is reached or the regulator is dead. -/
def State.avsNext (s : State) (t : Nat) : State :=
  let i := s.island t
  if i.stepping || i.dead || i.mv == i.goal then s
  else
    let mv := if i.mv < i.goal then min (i.mv + 10) i.goal else max (i.mv - 10) i.goal
    (s.modIsland t (fun i => { i with mv, stepping := true })).emit (.avs t mv)

/-- A tent takes a new goal. -/
def State.setGoal (s : State) (t goal : Nat) : State := (s.modIsland t (fun i => { i with goal })).avsNext t

/-- Have all tents been measured that are not fenced (R412, R444)? -/
def State.tentsMeasured (s : State) : Bool := (List.range 8).all (fun t => (s.island t).fenced || (s.island t).measured.isSome)

/-- READY[0]: once every tent has been measured the barker accepts queues, if the port is up (R412, R444). -/
def State.queuesReady (s : State) : State := { s with boot := { s.boot with queues := s.boot.cfgSpace && (s.boot.queues || s.tentsMeasured) } }

/-- AVS_STEP_DONE (R387). -/
def execAvsStepDone (tent : TentId) (s : State) : Host.Outcome State Fault Refusal :=
  let t := tent.val
  .next (if (s.island t).stepping then
      (s.modIsland t (fun i => { i with stepping := false, confirmed := i.mv, raised := i.raised && i.mv != i.goal })).avsNext t
    else s)

/-- REGULATOR_NO_ANSWER (R479): the target stays where it was, and the tent is fenced if a re-plan had raised it. -/
def execRegulatorNoAnswer (tent : TentId) (s : State) : Host.Outcome State Fault Refusal :=
  .next (if (s.island tent.val).stepping then
      (s.modIsland tent.val (fun i => { i with
        dead := true, stepping := false, mv := i.confirmed, goal := i.confirmed, fenced := i.fenced || i.raised, stuck := i.stuck || i.raised
        raised := false })).queuesReady
    else s)

/-! ### Ageing (R412 to R415) -/

/-- The fields of a margin word (R413). -/
def marginWord (vTest mAge drift slack st : Nat) : W64 :=
  BitVec.ofNat 64 (vTest % 2 ^ 16 * 2 ^ 48 + mAge % 256 * 2 ^ 40 + drift % 2 ^ 20 * 2 ^ 20 + slack % 1024 * 2 ^ 10 + st % 4 * 2 ^ 8)

/-- M_AGE, RO_DRIFT, SLACK_PS and STATE of a margin word. -/
def mAge (w : W64) : Nat := bits w.toNat 47 40
/-- RO_DRIFT of a margin word. -/
def roDrift (w : W64) : Nat := bits w.toNat 39 20
/-- SLACK_PS of a margin word. -/
def slackPs (w : W64) : Nat := bits w.toNat 19 10
/-- STATE of a margin word. -/
def ageState (w : W64) : Nat := bits w.toNat 9 8

/-- The drift of R412 in ppm: the mean over the 16 oscillators. -/
def driftOf (fTest fNow : List Nat) : Rat :=
  ratSum ((List.range 16).map (fun i => ((fTest.getD i 0 : Rat) - (fNow.getD i 0 : Rat)) / (fTest.getD i 0 : Rat))) * 10 ^ 6 / 16

/-- A drift as the field holds it; the manual does not say how a fraction of a ppm is rounded: `up` decides. -/
def driftField (d : Rat) (up : Bool) : Nat :=
  let n := if up then ratCeil d else ratFloor d
  (min (max n 0) 1048575).toNat

/-- m of R414. -/
def marginNeed (drift slack : Nat) : Nat := ceilDiv (drift * 6) 10000 + (if slack < 15 then 10 else 0)

/-- STATE of R414. -/
def ageStateOf (vTest m : Nat) : Nat :=
  let required := vTest + 25 + m
  if 900 < required then 3 else if 900 - required < 50 then 2 else if m = 0 then 0 else 1

/-- The margin word after a measurement (R414); M_AGE stops at 255, the largest value of its field (DESIGN CHOICE). -/
def replan (old : W64) (vTest drift slack : Nat) : W64 :=
  let m := min (max (mAge old) (marginNeed drift slack)) 255
  marginWord vTest m drift slack (ageStateOf vTest m)

/-- The margin record as set 2 holds it. -/
def State.saveMargins (s : State) : State := s.nvStart 2 (.margin ((List.range 8).map (fun t => (s.island t).margin)))

/-- AGEING_MEASUREMENT: firmware runs, and the tent has a voltage table. -/
def State.ageing (s : State) (t : Nat) (x : AgeSense) : State :=
  let i := s.island t
  if s.boot.state ≠ 2 ∨ i.vTest = 0 then s
  else
    let (s, v) := s.freeW64
    let drift := driftField (driftOf i.fTest x.fNow) (v.getLsbD 0)
    let slack := min (minD 1023 (x.slackPs.take 8)) 1023
    let w := replan i.margin i.vTest drift slack
    let goal := targetMv i.vTest (mAge w)
    let raise : Bool := decide (i.goal < goal)
    let fence : Bool := ageState w == 3 || (i.dead && raise)
    let s := s.modIsland t (fun i => { i with
      margin := w, fenced := i.fenced || fence, stuck := i.stuck || (i.dead && raise), raised := i.raised || (raise && !i.dead)
      measured := some s.periods })
    let s := if w = i.margin then s else s.saveMargins
    (if i.dead then s else s.setGoal t goal).queuesReady

/-- AGEING_MEASUREMENT (R412 to R415). -/
def execAgeingMeasurement (tent : TentId) (sense : AgeSense) (s : State) : Host.Outcome State Fault Refusal := .next (s.ageing tent.val sense)

/-! ### Clocks (R404, R406) and the module sensor (R235) -/

/-- REFCLK_LOSS (R406). -/
def execRefclkLoss (s : State) : Host.Outcome State Fault Refusal :=
  .next { s with clocks := { s.clocks with refLost := true, holdover := true } }

/-- REFCLK_RETURN (R406): REFCLK has been stable for 10 ms. -/
def execRefclkReturn (s : State) : Host.Outcome State Fault Refusal :=
  .next { s with clocks := { s.clocks with refLost := false, holdover := false, refStable := true } }

/-- REFERENCE_FALLBACK (R406): a recovered source is off frequency or lost; while REFCLK is absent the root only holds over. -/
def execReferenceFallback (s : State) : Host.Outcome State Fault Refusal :=
  let c := s.clocks
  .next (if c.active = 0 then s
    else if c.refLost then { s with clocks := { c with holdover := true } }
    else { s with clocks := { c with active := 0, fallbacks := c.fallbacks + 1 } })

/-- The activation limit after a reading of the module sensor: above 95 °C it holds, until the sensor reads 90 °C (R235). -/
def throttleAfter (old : Bool) (milliC : Int) : Bool := if 95000 < milliC then true else if milliC ≤ 90000 then false else old

/-- MODULE_SENSOR_READ (R235): the refresh interval is time, which the model does not count; the activation limit is held. -/
def execModuleSensorRead (chan : ChanId) (milliC : Int) (s : State) : Host.Outcome State Fault Refusal :=
  .next (s.modChan chan.val (fun c => { c with milliC, throttle := throttleAfter c.throttle milliC }))

end Sys2Proof.Machine
end

