-- ==== Sys2Proof/Machine/Boot.lean ====
section
/-!
DEFINITION. Rails, resets, start-up from ROM, memory-channel training, the NV store, the board inputs and the thermal trip (R232, R233,
R236, R432 to R435, R441 to R460, R466 to R474).
-/

namespace Sys2Proof.Machine

/-! ### Reset of the units (R442, R443) -/

/-- Net after the reset of the units: links are Down and nothing is in flight; routes, exclusions and ids are the dictionary's. -/
def Net.reset (n : Net) : Net :=
  { links := Assoc.mapVals (fun _ (k : Link) => { enabled := k.enabled }) n.links, routes := n.routes, excluded := n.excluded
    ownId := n.ownId, ownDom := n.ownDom, echoTarget := n.echoTarget }

/-- Every unit but the always-on domain and the management controller is reset: contexts are lost without teardown; device memory keeps
its ells and the journal, in which no step is recorded any longer; the security engine holds no identity and no quote until the next start
(R20, R458, R460). -/
def State.resetUnits (s : State) : State :=
  { s with
    rings := [], tents := [], chans := []
    hub := { journal := s.hub.journal.map (fun j => if j.complete then j else { j with closed := true }) }
    net := s.net.reset
    islands := Assoc.mapVals (fun _ (i : Island) => { i with st := .gated, waking := false, idleSince := none, measured := none }) s.islands
    yard := { s.yard with droop := [], mix := [], slots := [] }
    dict := { s.dict with tenantKeys := [], sessions := s.dict.sessions.filter (fun p => p.2.cls != 1) }
    boot := { s.boot with
      state := 0, cfgSpace := false, mailbox := false, queues := false, memory := false, links := false, identity := none, metaKey := 0
      quote := none } }

/-! ### The NV store (R432 to R435) -/

/-- A save of the dictionary set starts with the persistent values as they stand (R432). -/
def State.saveDict (s : State) : State :=
  ({ s with dict := { s.dict with unsaved := false } }).nvStart 3 (.dict (persistentOf s.dict.vals) s.resil.fatalCount.toNat)

/-- NV_SAVE_START (R432): the writes that arrive during a save are kept for the next one. -/
def execNvSaveStart (s : State) : Host.Outcome State Fault Refusal :=
  .next (if s.dict.unsaved && (Assoc.find? s.nvSaving 3).isNone then s.saveDict else s)

/-- The saved ceilings are those in force (R232). -/
def Hub.takeCeilings (h : Hub) (base : Nat) (c : FMap Nat) : Hub :=
  let known := h.keySlots.map (fun k => (k.1, { k.2 with ceiling := Assoc.get base c k.1 }))
  { h with slotCeil := base
           keySlots := c.foldl (fun m p => if (Assoc.find? m p.1).isSome then m else Assoc.put m p.1 { gen := h.slotGen, ceiling := p.2 }) known }

/-- A save finishes (R434): its bank is valid, and what waited for it goes on. -/
def State.saveDone (s : State) (n : Nat) (c : NvContent) : State :=
  let s := { s with nv := Assoc.put s.nv n ((s.nvSet n).save n c), nvSaving := Assoc.del s.nvSaving n }
  match c with
  | .dict _ _ => { s with dict := { s.dict with saves := s.dict.saves + 1 } }
  | .ceilings base l => s.modHub (fun h => h.takeCeilings base l)
  | .bytes _ => if s.boot.state = 3 then { s with boot := { s.boot with state := 0 } } else { s with boot := { s.boot with fwPending := true } }
  | _ => s

/-- NV_SAVE_COMPLETE (R434). -/
def execNvSaveComplete (set : Fin 9) (s : State) : Host.Outcome State Fault Refusal :=
  .next (match Assoc.find? s.nvSaving set.val with
    | some c => s.saveDone set.val c
    | none => s)

/-! ### Power (R442, R444, R473) -/

/-- The persistent dictionary is read, and what takes effect at power-up does (R272, R432, R435, R436). -/
def State.loadDict (s : State) : State :=
  let (v, fatal) : FMap Nat × Nat := match s.nvContent? 3 with
    | some (.dict v f) => (v, f)
    | _ => ([], 0)
  let s := { s with dict := { s.dict with vals := v }, resil := { s.resil with fatalCount := BitVec.ofNat 32 fatal } }
  let off := (List.range 48).filter (fun n => s.dictVal (0x5500 + n) 8 1 == 0)
  let s := off.foldl (fun (s : State) n => s.modLink n (fun k => { k with enabled := false })) s
  { s with
    net := { s.net with ownId := s.dictVal 0x5000 1 0, ownDom := s.dictVal 0x5000 2 0 == 1 }
    dict := { s.dict with udpPort := s.dictVal 0x1100 7 47230 }
    boot := { s.boot with loaded := true } }

/-- The link-local address of the management port: fe80::/64 with the modified EUI-64 form of the MAC address (R419). -/
def portAddress : Nat :=
  let b (i : Nat) : Byte := Config.macByte i
  0xFE80 * 2 ^ 112 + beNat [b 0 ^^^ 2, b 1, b 2, 0xFF, 0xFE, b 3, b 4, b 5]

/-- The management port starts, and looks for a duplicate of its address (R419); the PUF SRAM is read before any write (R444, R453). -/
def State.portStart (s : State) : State :=
  let (s, v) := s.freeW64
  ({ s with boot := { s.boot with puf := v } }).emit (.addressProbe portAddress)

/-- RAILS_GOOD (R441, R444): the dictionary is loaded at power-up; after a rail fault it stands. -/
def execRailsGood (s : State) : Host.Outcome State Fault Refusal :=
  .next (if s.boot.rails || s.trip.latched then s
    else
      let s := if s.boot.loaded then s else s.loadDict.portStart
      { s with boot := { s.boot with rails := true, state := 0 } })

/-- The filters as they stand until VDD_IO is good (R468). -/
def Inputs.preIo (i : Inputs) : Inputs :=
  { sysReset := { filtered := false, last := false, rejects := i.sysReset.rejects }
    perst := { filtered := false, last := false, rejects := i.perst.rejects }
    brake := { filtered := true, last := true, rejects := i.brake.rejects }
    alert := { filtered := true, last := true, rejects := i.alert.rejects }, brakeEvents := i.brakeEvents }

/-- RAIL_FAULT (R442): not while a trip is latched, but for the levels that the inputs take when VDD_IO falls (R468, R480). A save of set 4
ends, and its other bank stays (R460). -/
def execRailFault (rails : W16) (s : State) : Host.Outcome State Fault Refusal :=
  let r := rails &&& 0x7FFF#16
  let s := if r.getLsbD 1 then { s with inputs := s.inputs.preIo } else s
  .next (if r = 0#16 ∨ s.trip.latched then s
    else
      let s := s.resetUnits
      { s with boot := { s.boot with rails := false, railFault := r }, nvSaving := Assoc.del s.nvSaving 4 })

/-- The part after its power has been lost: everything is as at power-up but the NV store, in which the banks being written stay erased
(R434, R435). -/
def State.powerLoss (s : State) : State := { State.reset with pending := s.pending, free := s.free, out := s.out, nv := s.nv }

/-- POWER_LOSS (R473): VDD_AON has fallen below its threshold; the trip latch is cleared. -/
def execPowerLoss (s : State) : Host.Outcome State Fault Refusal := .next s.powerLoss

/-! ### Measurements (R456) -/

/-- An extension of a measurement register with a digest of 32 B; the event type of the record is not given by the manual. The answer is
false when the log is full. -/
def State.extendMr (s : State) (i : Nat) (d : List Byte) : State × Bool :=
  let b := s.boot
  if 256 ≤ b.log.length then ({ s with boot := { b with refusedExt := min (b.refusedExt + 1) 0xFFFF } }, false)
  else
    let (s, v) := s.freeW64
    let r := [BitVec.ofNat 8 i, v.setWidth 8] ++ List.replicate 30 0#8 ++ d
    ({ s with boot := { b with mr := patch b.mr i [Sm3.hash ((b.mr.getD i []) ++ d)], log := b.log ++ [r] } }, true)

/-- MR2's digest of a set: number, chosen bank and SEQ as 8 B, hashed (R456). The manual does not divide the 8 bytes: number in byte 0, bank
in bytes 1 to 3, SEQ in bytes 4 to 7 (DESIGN CHOICE); of an absent set it gives no bank and no SEQ, and the digest is free. -/
def State.setDigest (s : State) (n : Nat) : State × List Byte :=
  let x := s.nvSet n
  match x.chosenBank? n with
  | some b => (s, Sm3.hash (leBytes 1 n ++ leBytes 3 b ++ leBytes 4 (x.bank b).seq.toNat))
  | none => s.freeBytes 2

/-- MR3's digest of a set: SM3 of its chosen copy, whose bytes the manual does not lay out (R456); of an absent set it is free. -/
def State.copyDigest (s : State) (n : Nat) : State × List Byte :=
  match s.nvContent? n with
  | some c => (s, Sm3.hash (Config.copyBytes n c.image))
  | none => s.freeBytes 2

/-- The extensions of a start from ROM, in order (R456). ROM_VERSION is followed by zeros up to the 32 bytes of a digest, and MR3 is extended
once for each of sets 1 and 3 (DESIGN CHOICE). -/
def State.measure (s : State) (manifest image : List Byte) : State :=
  let s := { s with boot := { s.boot with mr := List.replicate 8 (List.replicate 32 0#8), log := [], refusedExt := 0 } }
  let ext (s : State) (i : Nat) (d : List Byte) : State := (s.extendMr i d).1
  let s := ext s 0 (leBytes 4 Config.romVersion.toNat ++ List.replicate 28 0#8)
  let s := ext s 0 (Sm3.hash manifest)
  let s := ext s 1 (Sm3.hash (image.take 4096))
  let s := (List.range (stageCountOf image)).foldl (fun s k => ext s 1 (stageDigest image k)) s
  let s := (List.range 9).foldl (fun (s : State) n => let r := s.setDigest n; ext r.1 2 r.2) s
  [1, 3].foldl (fun (s : State) n => let r := s.copyDigest n; ext r.1 3 r.2) s

/-! ### Start-up from ROM (R232, R435, R444, R446, R450, R455, R459) -/

/-- A new generation epoch: default headers everywhere, every slot at generation 1 (R232). -/
def State.newEpoch (s : State) : State :=
  ({ s with dram := [], hub := { s.hub with keySlots := [], slotGen := 1, slotCeil := 1 } }).nvStart 7 (.ceilings 1025 [])

/-- Every slot starts from its ceiling, and new ceilings are written; no generation is used before they are saved (R232). -/
def State.startKeys (s : State) : State :=
  match s.nvContent? 7 with
  | some (.ceilings base c) =>
    if 0xFFFFF ≤ base ∨ c.any (fun p => decide (0xFFFFF ≤ p.2)) then s.newEpoch
    else
      ({ s with hub := { s.hub with slotGen := base, slotCeil := base
                                    keySlots := c.map (fun (p : Nat × Nat) => (p.1, ({ gen := p.2, ceiling := p.2 } : KeySlot))) } }).nvStart 7
        (.ceilings (nextCeiling base) (c.map (fun (p : Nat × Nat) => (p.1, nextCeiling p.2))))
  | _ => s.newEpoch

/-- The margin word that a tent starts with: STATE follows from the voltage table and M_AGE (R413, R414); without a record, M_AGE is 0
(R435). -/
def startMargin (vTest : Nat) (old : Option W64) : W64 :=
  match old with
  | some w => marginWord vTest (mAge w) (roDrift w) (slackPs w) (ageStateOf vTest (mAge w))
  | none => marginWord vTest 0 0 1023 (ageStateOf vTest 0)

/-- One tent at start-up: its target is set and its island powered, or it is fenced: without a voltage table (R459), when its margin is
exhausted, or when a raised target could not be applied under the same table (R388, R415, R435, R479). -/
def State.startTent (s : State) (volt : Option (List TestedTent)) (same : Bool) (words : Option (List W64)) (t : Nat) : State :=
  match volt with
  | none => s.modIsland t (fun i => { i with st := .gated, waking := false, fenced := true, vTest := 0 })
  | some l =>
    let v := l.getD t ⟨0, 0, []⟩
    let w := startMargin v.vTest (words.bind (fun ws => ws[t]?))
    let stuck : Bool := same && (s.island t).stuck
    let fenced : Bool := ageState w == 3 || stuck
    (s.modIsland t (fun i => { i with
      st := if fenced then .gated else .active, waking := false, fenced, stuck, idleSince := none, dead := i.dead && stuck, raised := false
      vTest := v.vTest, pStatic := v.pStatic, fTest := v.fTest, margin := w })).setGoal t (targetMv v.vTest (mAge w))

/-- V_TEST lies from 500 to 900 mV, and 16 oscillators were measured at test (R412, R413). -/
def TestedTent.fits (e : TestedTent) : Bool :=
  decide (500 ≤ e.vTest) && decide (e.vTest ≤ 900) && e.fTest.length == 16 && e.fTest.all (fun f => decide (0 < f))

/-- The voltage table of a copy of set 1, of 8 tents. -/
def NvBank.voltTable? (b : NvBank) : Option (W32 × List TestedTent) :=
  match b.content with
  | .voltage l => if l.length = 8 ∧ l.all TestedTent.fits then some (b.seq, l) else none
  | _ => none

/-- The voltage table that the ROM takes: of the first copy that passes (R450). -/
def State.voltTable? (s : State) : Option (Nat × (W32 × List TestedTent) × Bool) := (s.nvSet 1).firstPass 1 NvBank.voltTable?

/-- The tents at start-up, from sets 1 and 2. -/
def State.startTents (s : State) : State :=
  let volt := s.voltTable?.map (fun v => v.2.1)
  let same : Bool := volt.any (fun v => s.boot.voltSeq == some v.1)
  let words : Option (List W64) := match s.nvContent? 2 with | some (.margin l) => some l | _ => none
  let s := (List.range 8).foldl (fun (s : State) t => s.startTent (volt.map (·.2)) same words t) s
  { s with boot := { s.boot with voltSeq := volt.map (·.1) } }

/-- The identity that the security engine unseals: of the first copy of set 4 that can be unsealed (R450, R453, R455). -/
def State.unsealed (s : State) : Option (Nat × Identity × Bool) :=
  (s.nvSet 4).firstPass 4 (fun b => match b.content with
    | .identity i => i.unseal s.boot.puf
    | _ => none)

/-- The f-cycle counters of the tents begin to run (R405): from 0 at each start (DESIGN CHOICE). -/
def State.startCycles (s : State) : State :=
  (List.range 8).foldl (fun (s : State) t => s.modTent t (fun x => { x with cycles := 0, cyclesFrom := s.periods })) s

/-- Firmware runs: keys, tents, identity, measurements and readiness (R444); the queues become ready once the tents have been measured. Where
several of R450, R455 and R459 apply, BOOT_ERROR has the bits of each (DESIGN CHOICE). -/
def State.bootFrom (s : State) (manifest image : List Byte) (bank error : Nat) : State :=
  let found := s.unsealed
  let identity := found.map (fun x => x.2.1)
  let volt := s.voltTable?
  let second : Bool := error != 0 || found.any (fun x => x.2.2) || volt.any (fun x => x.2.2)
  let error := (if second then 0x10 else 0) + (if identity.isNone then 0x20 else 0) + (if volt.isNone then 0x40 else 0)
  let s := { s with boot := { s.boot with metaKey := BitVec.ofNat 128 (match identity with
    | some i => beNat ((kdf i.ds "EZ4832 metadata").take 16)
    | none => 0) } }
  let s := (s.measure manifest image).startKeys.startTents.startCycles
  -- every channel begins to train once its tent is powered up (R236)
  let s := (List.range 32).foldl (fun (s : State) c => s.modChan c (fun x => { x with train := .training 1 })) s
  let up := s.inputs.perst.filtered
  { s with
    clocks := { s.clocks with refStable := true, rootLocked := true }
    dict := { s.dict with sessions := [], staged0 := none }
    boot := { s.boot with
      state := 2, error := BitVec.ofNat 16 error, cfgSpace := up, mailbox := up, queues := up && s.tentsMeasured, memory := false
      links := false
      fwBank := bank, fwPending := false, fwVersion := BitVec.ofNat 32 (fwVersionOf image), manifest := some manifest, identity
      quoteSeq := 0, quote := none } }

/-- Recovery (R450, R451): only the ROM runs; the measurement registers are zero. -/
def State.recover (s : State) (error : Nat) (manifest : Option (List Byte)) : State :=
  { s with
    clocks := { s.clocks with refStable := true, rootLocked := true }
    dict := { s.dict with sessions := [], staged0 := none }
    boot := { s.boot with
      state := 3, error := BitVec.ofNat 16 error, fwPending := false, fwVersion := 0, manifest, identity := none
      mr := List.replicate 8 (List.replicate 32 0#8), log := [], refusedExt := 0, quoteSeq := 0, quote := none } }

/-- May the ROM run: rails good, no trip, SYS_RESET_N inactive, REFCLK present (R443, R444, R472)? -/
def State.canStart (s : State) : Bool :=
  s.boot.rails && s.boot.state == 0 && !s.trip.latched && s.inputs.sysReset.filtered && !s.clocks.refLost

/-- START_FROM_ROM (R450). -/
def execStartFromRom (s : State) : Host.Outcome State Fault Refusal :=
  .next (if !s.canStart then s
    else match romVerify (s.nvSet 5) (s.nvSet 0) with
      | .recovery e m => s.recover e m
      | .boot m img bank e => s.bootFrom m img bank e)

/-! ### Memory channels (R206, R207, R221, R233, R236) -/

/-- Device memory becomes ready once all 32 channels have trained and the metadata key is present (R207, R446). -/
def State.memorySettled (s : State) : State :=
  let all : Bool := (List.range 32).all (fun c => decide ((s.chan c).train = .trained))
  (if all && s.boot.identity.isSome then { s with boot := { s.boot with memory := true } } else s).linksSettled

/-- Does a module differ from R205 in no row? It may be rated above 13,200 MT/s, at which it is not operated. -/
def spdFits (x : Spd) : Bool := { x with rate := 13200 } == ({} : Spd) && decide (13200 ≤ x.rate)

/-- Steps 5 to 7 of R236: the channel's part of set 6 is loaded; a new module gets default headers, and its erasures are cleared. -/
def State.loadChan (s : State) (c serial : Nat) : State :=
  let known : Option NvChan := match s.nvContent? 6 with
    | some (.memory m) => Assoc.find? m c
    | _ => none
  let n := known.getD {}
  let same : Bool := n.serial == some serial
  let s := s.modChan c (fun x => { x with
    train := .trained, serial, nvSerial := some serial, erasures := if same then n.erasures else [], remaps := n.remaps })
  if same then s else ({ s with dram := s.dram.filter (fun e => (placeOf e.1).channel != c) }).saveChans

/-- CHANNEL_TRAINED (R206, R236): commands that waited for device memory may be fetched. -/
def execChannelTrained (chan : ChanId) (result : TrainResult) (s : State) : Host.Outcome State Fault Refusal :=
  let c := chan.val
  let open_ : Bool := match (s.chan c).train with | .untrained | .training _ => true | _ => false
  .next (if s.boot.state ≠ 2 || !open_ then s
    else match result with
      | .trained serial spd =>
        let s := s.modChan c (fun x => { x with spd := some spd })
        -- step 1 refuses a module that differs from R205
        if spdFits spd then ((s.loadChan c serial).memorySettled).retryHeld.retryFetch
        else (s.modChan c (fun x => { x with train := .failed 1 })).linksSettled
      | .failed step => (s.modChan c (fun x => { x with train := .failed step })).linksSettled)

/-! ### Board inputs (R399, R443, R460, R468, R469) -/

/-- An access of the host that waits at a bushel has nobody to answer: its write is made, its read is nobody's. -/
def BReq.hostGone (q : BReq) : BReq :=
  match q.kind with
  | .read (.mem _ _ _ _ _) => { q with kind := .read .nobody }
  | .write (.mem _ _ _ _) bs => { q with kind := .write .none bs }
  | _ => q

/-- A read of the queues, of the barker for a command, or of the host. -/
def Asker.ofPort (a : Asker) : Bool := match a with | .slot _ _ | .cmd _ | .mem _ _ _ _ _ => true | _ => false

/-- A host read that the host will not answer gives poison. -/
def State.readLost (s : State) (r : HostRd) : State :=
  match r.who with
  | none => s.hostGrainReturn r.grain zeroGrain true
  | some who => s.putAnswer who r.grain (.bad 2)

/-- Everything that PERST_N holds in reset (R443): every context is lost and torn down, queues, host windows and registers cease. What the
device was writing to host memory is lost, and what it was reading comes as poison (DESIGN CHOICE). -/
def State.perstDown (s : State) : State :=
  let s := { s with boot := { s.boot with cfgSpace := false, mailbox := false, queues := false } }
  let s := ((s.hub.ctxs.map (·.1)).foldl State.teardown s).forgetAnswers Asker.ofPort
  let reads := s.hub.hostReads
  let lost := s.hub.hostWrites.filter (fun w => isHostGrain w.grain)
  let s := s.modHub (fun h => { h with
    queues := [], cmds := [], hostWindows := [], filter := [], snoops := [], hostReads := []
    hostReqs := [], evq := {}, adm := {}, msix := [], msixPending := [], teardowns := []
    hostWrites := h.hostWrites.filter (fun w => !isHostGrain w.grain) })
  let s := { s with tents := Assoc.mapVals (fun _ (t : Tent) => t.mapRequests BReq.hostGone) s.tents }
  let s := reads.foldl State.readLost s
  let s := lost.foldl (fun s w => s.unsent w.who) s
  s.retryWrites.sendAcks.freeWaitingKeys

/-- The port trains again, and configuration space answers (R443, R445). -/
def State.perstUp (s : State) : State :=
  if s.boot.state = 2 then { s with boot := { s.boot with cfgSpace := true, mailbox := true, queues := s.tentsMeasured } } else s

/-- A board input. -/
def Inputs.pin (i : Inputs) (p : BoardInput) : InputFilter :=
  match p with | .sysReset => i.sysReset | .perst => i.perst | .brake => i.brake | .alert => i.alert
/-- Put a board input. -/
def Inputs.setPin (i : Inputs) (p : BoardInput) (f : InputFilter) : Inputs :=
  match p with
  | .sysReset => { i with sysReset := f } | .perst => { i with perst := f }
  | .brake => { i with brake := f } | .alert => { i with alert := f }

/-- The brake takes hold: cap_level of every Active tent, and its level, stand at 56 when it is released (R399, R417, DEDUCED). -/
def State.brakeOn (s : State) : State :=
  let put (m : FMap Nat) : FMap Nat := (List.range 8).foldl (fun m t => if s.tentActive t then Assoc.put m t 56 else m) m
  s.modYard (fun y => { y with capLevel := put y.capLevel, level := put y.level })

/-- A filtered level has changed (R469, R480): a pin is active low. -/
def State.levelChanged (s : State) (p : BoardInput) (high : Bool) : State :=
  match p with
  | .sysReset => if high || s.trip.latched then s else s.resetUnits
  | .perst =>
    if s.boot.state ≠ 2 then s
    else if high then s.perstUp else s.perstDown
  | .brake | .alert =>
    if high then s
    else { s.brakeOn with inputs := { s.inputs with brakeEvents := BitVec.ofNat 32 (satAdd 32 s.inputs.brakeEvents.toNat 1) } }

/-- An input whose run has reached 8 samples changes its filtered level (R468). -/
def State.applyDue (s : State) (p : BoardInput) : State :=
  let f := s.inputs.pin p
  if f.due then
    ({ s with inputs := s.inputs.setPin p { f with filtered := !f.filtered, due := false } }).levelChanged p (!f.filtered)
  else s

/-- FILTERED_LEVEL_CHANGE (R468). -/
def execFilteredLevelChange (input : BoardInput) (s : State) : Host.Outcome State Fault Refusal := .next (s.applyDue input)

/-- One sample of one input (R468); a run of 8 makes the change due. -/
def InputFilter.sample (f : InputFilter) (level : Bool) : InputFilter :=
  let run := if level = f.filtered then 0 else if 0 < f.run ∧ level = f.last then f.run + 1 else 1
  let due : Bool := run == 8
  let run := if due then 0 else run
  let filtered := if due then level else f.filtered
  let reject : Bool := run == 0 && level == filtered && f.last != filtered && f.lastRunOpen
  { filtered := f.filtered, run, due, last := level, lastRunOpen := decide (0 < run)
    rejects := if reject then BitVec.ofNat 32 (satAdd 32 f.rejects.toNat 1) else f.rejects }

/-- INPUT_SAMPLE: a change that is due has acted by now. Samples are taken only once VDD_IO is good: a sample tells that it is (R468,
DEDUCED). -/
def State.sampleInputs (s : State) (l : InputLevels) : State :=
  let s := (((s.applyDue .sysReset).applyDue .perst).applyDue .brake).applyDue .alert
  let i := s.inputs
  { s with inputs := { i with sysReset := i.sysReset.sample l.sysReset, perst := i.perst.sample l.perst
                              brake := i.brake.sample l.brake, alert := i.alert.sample l.alert } }

/-- INPUT_SAMPLE (R468). -/
def execInputSample (levels : InputLevels) (s : State) : Host.Outcome State Fault Refusal := .next (s.sampleInputs levels)

/-! ### The thermal trip (R472) -/

/-- A sensor reads 125 °C or more for the second control period in a row. -/
def State.thermalTrip (s : State) (sensor : Nat) (milliC : Int) : State :=
  if s.trip.latched || decide (milliC < 125000) || !s.trip.hot.contains sensor then s
  else
    let s := s.resetUnits
    ({ s with dram := [], hub := {}, clocks := { s.clocks with stopped := true }
              trip := { s.trip with latched := true, sensor, milliC } }).emit .thermtrip

/-- THERMAL_TRIP (R472). -/
def execThermalTrip (sensor : Nat) (milliC : Int) (s : State) : Host.Outcome State Fault Refusal := .next (s.thermalTrip sensor milliC)

end Sys2Proof.Machine
end

