-- ==== Sys2Proof/Machine/ObjCommands.lean ====
section
/-!
DEFINITION. The admin commands over memory objects, pools, translations, remote windows and host windows (R281, R309, R321, R333, R338,
R339, R357).
-/

namespace Sys2Proof.Machine

/-! ### Objects (R338) -/

/-- A granule-aligned, non-empty range that lies in device memory. -/
def rangeOk (base len : Nat) : Bool :=
  decide (base % 65536 = 0) && decide (len % 65536 = 0) && decide (0 < len) && decide (base + len ≤ Config.dpaLimit)

/-- OBJ_CREATE. -/
def State.objCreate (s : State) (ref : CmdRef) (c : Cmd) : State :=
  let n := bits (cmdWord c.words 1) 63 44
  let base := bits (cmdWord c.words 2) 41 0
  let len := cmdWord c.words 3
  let ctx := bits (cmdWord c.words 4) 63 54
  let key := bits (cmdWord c.words 4) 11 0
  if 0x7FFFF < n ∨ (Assoc.find? s.hub.objs n).isSome ∨ !rangeOk base len ∨ (s.hub.keySlot key).st ≠ .live ∨ (s.ctx? ctx).isNone then s.malformed ref
  else (s.putObj n { runs := [(base / 65536, len / 65536)], key, ctx }).finishCmd ref 0 false

/-- OBJ_CREATE (R338). -/
def execObjCreate (ref : CmdRef) (s : State) : Host.Outcome State Fault Refusal := .next (s.runCmd ref 0x8A anyWords (s.objCreate ref))

/-- Drop one handle reference: one that OBJ_REF added before the one that ALLOC gave. -/
def Obj.dropHandle (o : Obj) : Obj :=
  if o.ownHandle ∧ o.handles = 1 then { o with handles := 0, ownHandle := false } else { o with handles := o.handles - 1 }

/-- OBJ_REF: handle and mapping references. An object that waits for its reclaim is no longer named (DESIGN CHOICE). -/
def State.objRef (s : State) (ref : CmdRef) (c : Cmd) : State :=
  let n := bits (cmdWord c.words 1) 63 44
  let add := bitN (cmdWord c.words 2) 8
  let ctx := bits (cmdWord c.words 3) 63 54
  match Assoc.find? s.hub.objs n with
  | none => s.malformed ref
  | some o =>
    if o.count = 0 then s.malformed ref
    else if bits (cmdWord c.words 2) 1 0 = 0 then
      if add then (s.putObj n { o with handles := o.handles + 1 }).finishCmd ref 0 false
      else if o.handles = 0 then s.malformed ref
      else (s.putObj n o.dropHandle).finishCmd ref 0 false
    else if add then
      if !s.ctxLive ctx then s.malformed ref
      else
        let mappings := if o.mappings.contains ctx then o.mappings else o.mappings ++ [ctx]
        let mapped := if o.mapped.contains ctx then o.mapped else o.mapped ++ [ctx]
        (s.putObj n { o with mappings, mapped }).finishCmd ref 0 false
    else if o.mappings.contains ctx then
      (s.putObj n { o with mappings := o.mappings.filter (fun x => x != ctx) }).finishCmd ref 0 false
    else s.malformed ref

/-- OBJ_REF with w2 [8] 1 (R338). -/
def execObjRefAdd (ref : CmdRef) (s : State) : Host.Outcome State Fault Refusal :=
  .next (s.runCmd ref 0x8B (fun w => bitN (cmdWord w 2) 8) (s.objRef ref))
/-- OBJ_REF with w2 [8] 0 (R338). -/
def execObjRefDrop (ref : CmdRef) (s : State) : Host.Outcome State Fault Refusal :=
  .next (s.runCmd ref 0x8B (fun w => !bitN (cmdWord w 2) 8) (s.objRef ref))

/-! ### Pools (R321, R339) -/

/-- POOL_GRANT: granules, and on the first grant the arena. -/
def State.poolGrant (s : State) (ref : CmdRef) (c : Cmd) : State :=
  let n := bits (cmdWord c.words 1) 63 54
  let pool := bits (cmdWord c.words 1) 3 0
  let base := bits (cmdWord c.words 2) 41 0
  let count := cmdWord c.words 3
  let arena := bits (cmdWord c.words 4) 56 0
  let len := cmdWord c.words 5
  match s.ctx? n with
  | none => s.malformed ref
  | some x =>
    let first : Bool := (Assoc.find? x.pools pool).isNone
    let arenaOk : Bool := decide (arena % 65536 = 0) && decide (len % 65536 = 0) && decide (0 < len) && decide (arena + len ≤ 2 ^ 57)
    if x.st ≠ .live ∨ !rangeOk base (65536 * count) ∨ (first ∧ !arenaOk) then s.malformed ref
    else
      let p := Assoc.get { base := arena, len, free := [] } x.pools pool
      let p := { p with free := Runs.add p.free (base / 65536, count) }
      (s.setCtx n { x with pools := Assoc.put x.pools pool p }).finishCmd ref 0 false

/-- POOL_GRANT (R321). -/
def execPoolGrant (ref : CmdRef) (s : State) : Host.Outcome State Fault Refusal := .next (s.runCmd ref 0x8C anyWords (s.poolGrant ref))

/-- POOL_RECLAIM: every granule of the pool that no object holds returns to the driver; the record counts them. -/
def State.poolReclaim (s : State) (ref : CmdRef) (c : Cmd) : State :=
  let n := bits (cmdWord c.words 1) 63 54
  let pool := bits (cmdWord c.words 1) 3 0
  match s.ctx? n with
  | none => s.malformed ref
  | some x =>
    match Assoc.find? x.pools pool with
    | none => s.finishCmd ref 0 false
    | some p =>
      let s := s.setCtx n { x with pools := Assoc.put x.pools pool { p with free := [] } }
      s.setCmd ref { c.finish 0 false with partMap := BitVec.ofNat 64 p.free.total }

/-- POOL_RECLAIM (R321). -/
def execPoolReclaim (ref : CmdRef) (s : State) : Host.Outcome State Fault Refusal := .next (s.runCmd ref 0x8D anyWords (s.poolReclaim ref))

/-! ### Translations (R333) -/

/-- TLB_INVALIDATE: no tent MMU holds a translation of the range any longer; length 0 is the whole space. -/
def State.tlbInvalidate (s : State) (ref : CmdRef) (c : Cmd) : State :=
  let n := bits (cmdWord c.words 1) 63 54
  let base := bits (cmdWord c.words 2) 56 0
  let len := cmdWord c.words 3
  if (s.ctx? n).isNone then s.malformed ref
  else
    let r : Nat × Nat := if len = 0 then (0, 2 ^ 57) else (base, len)
    ({ s with tents := Assoc.mapVals (fun _ (t : Tent) => t.dropTlb n r.1 r.2) s.tents }).finishCmd ref 0 false

/-- TLB_INVALIDATE (R333). -/
def execTlbInvalidate (ref : CmdRef) (s : State) : Host.Outcome State Fault Refusal := .next (s.runCmd ref 0x8E anyWords (s.tlbInvalidate ref))

/-! ### Remote windows (R281) -/

/-- The objects that the pages of a range of a context lie in: `none` while a page-table grain is awaited. Pages without a translation, and
host pages, lie in none. -/
def State.objsOver (s : State) (ctx base pages : Nat) : State × Option (List Nat) :=
  (List.range pages).foldl (fun (acc : State × Option (List Nat)) i =>
    match acc.2 with
    | none => acc
    | some l =>
      match acc.1.translate 0 ctx (base + 65536 * i) false with
      | (s, .held) => (s, none)
      | (s, .fault) => (s, some l)
      | (s, .ok p) => (s, some (if p.host then l else unionNat l (s.hub.objsIn p.addr 65536)))) (s, some [])

/-- WINDOW_CREATE: the window holds a reference on each object it covers. -/
def State.windowCreate (s : State) (ref : CmdRef) (c : Cmd) : State :=
  let ctx := bits (cmdWord c.words 1) 63 54
  let n := bits (cmdWord c.words 1) 9 0
  let base := bits (cmdWord c.words 2) 56 0
  let len := cmdWord c.words 3
  let d := cmdWord c.words 4
  if !s.ctxLive ctx ∨ (Assoc.find? s.hub.windows n).isSome ∨ base % 65536 ≠ 0 ∨ len % 65536 ≠ 0 ∨ len = 0 ∨ 2 ^ 40 < len ∨ 2 ^ 57 < base + len then
    s.malformed ref
  else
    match s.objsOver ctx base (len / 65536) with
    | (s, none) => s
    | (s, some objs) =>
      let objs := objs.filter (fun o => match Assoc.find? s.hub.objs o with | some x => decide (x.count ≠ 0) | none => false)
      let w : Window := { ctx, base, len, read := bitN d 2, write := bitN d 1, atomic := bitN d 0
                          source := if bitN d 16 then none else some (bits d 27 16), objs }
      let s := s.modHub (fun h => { h with windows := Assoc.put h.windows n w })
      (objs.foldl (fun (s : State) o => s.modObj o (fun x => { x with windows := x.windows + 1 })) s).finishCmd ref 0 false

/-- WINDOW_CREATE (R281). -/
def execWindowCreate (ref : CmdRef) (s : State) : Host.Outcome State Fault Refusal := .next (s.runCmd ref 0x8F anyWords (s.windowCreate ref))

/-- WINDOW_DESTROY. -/
def State.windowDestroy (s : State) (ref : CmdRef) (c : Cmd) : State :=
  let n := bits (cmdWord c.words 1) 9 0
  if (Assoc.find? s.hub.windows n).isNone then s.malformed ref else (s.dropWindow n).finishCmd ref 0 false

/-- WINDOW_DESTROY (R321). -/
def execWindowDestroy (ref : CmdRef) (s : State) : Host.Outcome State Fault Refusal := .next (s.runCmd ref 0x90 anyWords (s.windowDestroy ref))

/-! ### Host windows (R309, R357) -/

/-- The host window that a HOST_WINDOW_SET asks for; `none` disables it. -/
def hostWindowOf (w : List W64) : Option HostWindow :=
  if bitN (cmdWord w 1) 63 then
    some { base := bits (cmdWord w 2) 41 0, len := cmdWord w 3, key := bits (cmdWord w 4) 11 0, readOnly := bitN (cmdWord w 4) 16 }
  else none

/-- Size, alignment and place of a host window, and no overlap with another enabled one (R309). -/
def Hub.hostWindowOk (h : Hub) (n : Nat) (w : HostWindow) : Bool :=
  decide (w.base % 2097152 = 0) && decide (w.len % 2097152 = 0) && decide (0 < w.len) && decide (w.base + w.len ≤ Config.dpaLimit) &&
  h.hostWindows.all (fun x => x.1 == n || decide (w.base + w.len ≤ x.2.base) || decide (x.2.base + x.2.len ≤ w.base))

/-- HOST_WINDOW_SET: host copies of the old range are snooped out before a change of key slot, range or enable (R357). -/
def State.hostWindowSet (s : State) (ref : CmdRef) (c : Cmd) : State :=
  let n := bits (cmdWord c.words 1) 5 0
  let new := hostWindowOf c.words
  let ok : Bool := match new with | some w => s.hub.hostWindowOk n w | none => true
  if !ok then s.malformed ref
  else
    let old := Assoc.find? s.hub.hostWindows n
    let same : Bool := match old, new with
      | some a, some b => decide (a.base = b.base) && decide (a.len = b.len) && decide (a.key = b.key)
      | none, _ => true
      | _, _ => false
    let inside : List FilterEnt := match old with
      | some a => s.hub.filter.filter (fun e => decide (a.base ≤ 64 * e.grain) && decide (64 * e.grain < a.base + a.len))
      | none => []
    if !same && !inside.isEmpty then
      inside.foldl (fun (s : State) e => s.snoop e.grain true) (s.setCmd ref { c with st := .running })
    else
      let s := s.modHub (fun h => { h with hostWindows := match new with
        | some w => Assoc.put h.hostWindows n w
        | none => Assoc.del h.hostWindows n })
      s.finishCmd ref 0 false

/-- HOST_WINDOW_SET (R309). -/
def execHostWindowSet (ref : CmdRef) (s : State) : Host.Outcome State Fault Refusal := .next (s.runCmdOn ref 0x91 anyWords (s.hostWindowSet ref))

end Sys2Proof.Machine
end

