-- ==== Sys2Proof/Machine/StepEnd.lean ====
section
/-!
DEFINITION. STEP_BOUNDARY: the end of a step and the opening of the next (R159, R248 to R254, R260, R327, R377, R380, R381).
-/

namespace Sys2Proof.Machine

/-- Has every dispatch, copy and collective of the context accepted before a position completed, and every STAT.W of its dispatches been
taken (R253, step 1)? -/
def State.stepQuiet (s : State) (ctx accept : Nat) : Bool :=
  s.hub.cmds.all (fun c => c.2.ctx != some ctx || decide (accept ≤ c.2.accept) || !([1, 2, 3].contains (cmdOp c.2.words))) &&
  s.tents.all (fun t => t.2.statq.all (fun q => q.ctx != ctx || decide (accept < q.accept)))

/-- What the boundary decides for one tag: the record, the new decision-table entry (FMT, SCALE) and the new e_ref. -/
structure TagEnd where
  record : List Byte
  fmt : Nat
  scale : Nat
  eref : Int
deriving DecidableEq, Repr

/-- The 8-byte entry `i` of a table that has been read. -/
def entryOf (bs : List Byte) (i : Nat) : Nat := leNat ((bs.drop (8 * i)).take 8)

/-- Step 3 of R253 for one tag, from its configuration and decision entries. -/
def Ctx.endTag (c : Ctx) (tag cfg dec : Nat) : TagEnd :=
  let m := c.merged tag
  let pf := bits dec 15 12
  let ps := bits dec 7 0
  let eref := Assoc.get 0 c.eref tag
  let d := m.decide (tagCfg cfg) pf ((ps : Int) - 127) eref c.skip
  { record := (tagRecord tag m pf ps eref d c.step).flatMap (fun w => leBytes 8 w.toNat), fmt := d.fmt, scale := wrapInt 8 (d.k + 127)
    eref := d.eref }

/-- A decision-table entry (R252). -/
def decisionWord (fmt scale : Nat) : Nat := fmt % 16 * 2 ^ 12 + scale % 256

/-- REPLAY_STATUS at the end of a replayed step (R381). -/
def Replay.status (r : Replay) (records : List Byte) : W32 :=
  let b (x : Bool) : Nat := if x then 1 else 0
  let (k, a) := r.diverged.getD (0, 0)
  BitVec.ofNat 32 (1 + 2 * b r.diverged.isSome + k % 4 * 4 + 16 * b (records == r.records) + a % 65536 * 65536)

/-- The tag state that the replay of the step being opened brings, from the journal (R380). -/
def State.armedTags (s : State) (ctx : Nat) : Option (List (Nat × Nat × Nat)) :=
  match Assoc.find? s.hub.replays (2 * ctx + 1) with
  | none => none
  | some r => (s.hub.heldStep? ctx r.step.toNat).map (·.tags)

/-- The journal at the boundary: the old step is complete unless oversize, the new one holds the tag state it starts with (R377, R378). -/
def State.endJournal (s : State) (ctx : Nat) (c : Ctx) (records : List Byte) (tags : List (Nat × Nat × Nat)) : State :=
  let old (j : JrnStep) : JrnStep :=
    if j.ctx = ctx ∧ j.step = c.step ∧ j.open? then { j.closeAll with records, complete := true, open_ := [] } else j
  let new (j : JrnStep) : JrnStep := if j.ctx = ctx ∧ j.step = c.step + 1 ∧ j.open? then { j with tags } else j
  let mine (j : JrnStep) : Bool := j.ctx == ctx && (j.step == c.step || j.step == c.step + 1)
  s.modHub (fun h => h.fitJournal mine (h.journal.map (fun j => new (old j))))

/-- The replay of the step that ends is over, and that of the step that opens takes its place (R380, R381). -/
def State.endReplay (s : State) (ctx : Nat) (records : List Byte) : State :=
  let h := s.hub
  let status := match Assoc.find? h.replays (2 * ctx) with | some r => r.status records | none => h.replayStatus
  let rest := Assoc.del (Assoc.del h.replays (2 * ctx)) (2 * ctx + 1)
  let replays := match Assoc.find? h.replays (2 * ctx + 1) with | some r => Assoc.put rest (2 * ctx) r | none => rest
  { s with hub := { h with replayStatus := status, replays } }

/-- Steps 5 of R253 in the context: entries cleared, flags cleared, the step counted, and the values that belong to the new step binned
against its e_ref (R260). -/
def Ctx.nextStep (c : Ctx) (eref : FMap Int) : Ctx :=
  let n : Ctx :=
    { c with tags := [], eref, stepNf := false, skip := false, later := []
             skipped := if c.skip then BitVec.ofNat 64 (satAdd 64 c.skipped.toNat 1) else c.skipped, step := c.step + 1 }
  c.later.foldl (fun n p => n.weigh p.1 p.2) n

/-- Steps 2 to 5 of R253, once both tables have been read and may be written. -/
def State.endStep (s : State) (ref : CmdRef) (ctx : Nat) (c : Ctx) (cfg dec : List Byte) : State :=
  let n := c.tagCount
  let ends := (List.range n).map (fun i => c.endTag i (entryOf cfg i) (entryOf dec i))
  let records := ends.flatMap (·.record)
  let mine := ends.map (fun e => (e.fmt, e.scale, wrapInt 8 (e.eref + 127)))
  let tags := match s.armedTags ctx with
    | some l => (List.range n).map (fun i => l.getD i (mine.getD i (0, 0, 0)))
    | none => mine
  let armed : Bool := (s.armedTags ctx).isSome
  let eref : FMap Int := (List.range n).map (fun i =>
    (i, if armed then ((tags.getD i (0, 0, 0)).2.2 : Int) - 127 else (ends[i]?.map (·.eref)).getD 0))
  let table := tags.flatMap (fun t => leBytes 8 (decisionWord t.1 t.2.1))
  let s := if n = 0 then s else (s.writeVa 0 ctx c.tagRecVa records (.command ref)).1
  let s := if n = 0 then s else (s.writeVa 0 ctx c.tagDecVa table (.command ref)).1
  let s := s.endJournal ctx c records tags
  let s := s.endReplay ctx records
  (s.modCtx ctx (fun x => x.nextStep eref)).finishCmd ref 0 false

/-- STEP_BOUNDARY (R253). A fault on one of the tables of R249, R251 and R252 loses the context (DESIGN CHOICE). -/
def State.stepBoundary (s : State) (ref : CmdRef) (c : Cmd) : State :=
  let ctx := c.ctx.getD 0
  let s := s.setCmd ref { c with st := .running }
  match s.ctx? ctx with
  | none => s
  | some x =>
    let n := x.tagCount
    if !s.stepQuiet ctx c.accept then s
    else
    -- the folds that the replayed step made after its last request (R381, R382)
    match s.foldsDue s.redCount ctx (fun _ => true) with
    | (s, false) => s
    | (s, true) =>
    if n = 0 then s.endStep ref ctx x [] []
    else
      match s.copyPlan 0 ctx x.tagRecVa 0 (List.replicate (192 * n) 0) with
      | (s, .held) => s
      | (s, .fault _ a) => s.cmdFault ref 3 a
      | (s, .ok _) =>
        match s.copyPlan 0 ctx x.tagDecVa 0 (List.replicate (8 * n) 0) with
        | (s, .held) => s
        | (s, .fault _ a) => s.cmdFault ref 3 a
        | (s, .ok _) =>
          let (s, cfg, _) := s.peekVa (.cmd ref) 0 ctx x.tagCfgVa (8 * n)
          let (s, dec, _) := s.peekVa (.cmd ref) 0 ctx x.tagDecVa (8 * n)
          match cfg, dec with
          | .fault, _ => s.cmdFault ref 3 x.tagCfgVa
          | _, .fault => s.cmdFault ref 3 x.tagDecVa
          | .ok cfg, .ok dec => (s.forgetAnswers (· == .cmd ref)).endStep ref ctx x cfg dec
          | _, _ => s

/-- STEP_BOUNDARY (R253). -/
def execStepBoundary (ref : CmdRef) (s : State) : Host.Outcome State Fault Refusal := .next (s.runCmdOn ref 7 anyWords (s.stepBoundary ref))

end Sys2Proof.Machine
end

