-- ==== Sys2Proof/Machine/Swing.lean ====
section
/-!
DEFINITION. Swing pairs and their drains, the export, import and arming of journalled steps, and DIGEST (R282, R362 to R368, R372, R377,
R378, R380).
-/

namespace Sys2Proof.Machine

/-- OP of a SWING (R363). -/
def swingOp (w : List W64) : Nat := bits (cmdWord w 1) 63 60
/-- PAIR of a SWING. -/
def swingPair (w : List W64) : Nat := bits (cmdWord w 1) 59 56
/-- Run a row of SWING. -/
def isSwing (op : Nat) (w : List W64) : Bool := swingOp w == op

/-- The swing pair of a context. -/
def State.swing? (s : State) (ctx pair : Nat) : Option SwingPair := (s.ctx? ctx).bind (fun c => Assoc.find? c.swings pair)
/-- Put a swing pair. -/
def State.putSwing (s : State) (ctx pair : Nat) (p : SwingPair) : State := s.modCtx ctx (fun c => { c with swings := Assoc.put c.swings pair p })

/-! ### DECLARE and RELEASE (R362, R364) -/

/-- Do two ranges of one length meet? -/
def meet (a la b lb : Nat) : Bool := decide (a < b + lb) && decide (b < a + la)

/-- R362 for a new pair: alignment, length, and no overlap. -/
def Ctx.swingOk (c : Ctx) (a b len : Nat) : Bool :=
  decide (a % 65536 = 0) && decide (b % 65536 = 0) && decide (len % 65536 = 0) && decide (0 < len) && decide (len ≤ 2 ^ 39) && !meet a len b len &&
  c.swings.all (fun p => !meet a len p.2.a p.2.len && !meet a len p.2.b p.2.len && !meet b len p.2.a p.2.len && !meet b len p.2.b p.2.len)

/-- DECLARE. -/
def State.declare (s : State) (ref : CmdRef) (c : Cmd) : State :=
  let ctx := c.ctx.getD 0
  let a := cmdWord c.words 2
  let b := cmdWord c.words 3
  let len := cmdWord c.words 4
  let pair := swingPair c.words
  match s.ctx? ctx with
  | none => s
  | some x =>
    if 2 ^ 57 ≤ a ∨ 2 ^ 57 ≤ b ∨ (Assoc.find? x.swings pair).isSome ∨ !x.swingOk a b len then s.malformed ref
    else (s.putSwing ctx pair { a, b, len }).finishCmd ref 0 false

/-- DECLARE (R364). -/
def execDeclare (ref : CmdRef) (s : State) : Host.Outcome State Fault Refusal := .next (s.runCmd ref 11 (isSwing 0) (s.declare ref))

/-- RELEASE: it waits for the pair's drain; a pair that is not declared is refused. -/
def State.release (s : State) (ref : CmdRef) (c : Cmd) : State :=
  let ctx := c.ctx.getD 0
  let pair := swingPair c.words
  match s.swing? ctx pair with
  | none => s.malformed ref
  | some p =>
    if cmdWord c.words 2 ≠ 0 ∨ cmdWord c.words 3 ≠ 0 ∨ cmdWord c.words 4 ≠ 0 then s.malformed ref
    else if p.drain.isSome then s.setCmd ref { c with st := .running }
    else (s.modCtx ctx (fun x => { x with swings := Assoc.del x.swings pair })).finishCmd ref 0 false

/-- RELEASE (R364). -/
def execRelease (ref : CmdRef) (s : State) : Host.Outcome State Fault Refusal := .next (s.runCmdOn ref 11 (isSwing 2) (s.release ref))

/-! ### FLIP and the drain (R365 to R368) -/

/-- What FLIP finds of the pages of a buffer. -/
inductive FlipPlan where
  | ok (map : FMap DrainBit)
  | fault (va : Nat)
  | held
deriving DecidableEq, Repr

/-- The drain bits of a buffer, added to those that are set: a page on host memory has no ell of the device, and counts as having no
translation (DESIGN CHOICE). -/
def State.flipPlan (s : State) (ctx pair base len : Nat) : State × FlipPlan :=
  (List.range (len / 65536)).foldl (fun (acc : State × FlipPlan) i =>
    match acc.2 with
    | .ok map =>
      let va := base + 65536 * i
      match acc.1.translate 0 ctx va false with
      | (s, .held) => (s, .held)
      | (s, .fault) => (s, .fault va)
      | (s, .ok p) =>
        if p.host then (s, .fault va)
        else (s, .ok ((List.range 64).foldl (fun m j => Assoc.put m (p.addr / 1024 + j) ⟨ctx, pair, 65536 * i + 1024 * j, p.key⟩) map))
    | _ => acc) (s, .ok s.hub.drainMap)

/-- Drain bits on a channel. -/
def bitsOn (m : FMap DrainBit) (chan : Nat) : Nat := (m.filter (fun e => (placeOf e.1).channel == chan)).length

/-- Does the new map take an ell that another drain still holds? -/
def Hub.drainClash (h : Hub) (ctx pair : Nat) (m : FMap DrainBit) : Bool :=
  h.drainMap.any (fun e => match Assoc.find? m e.1 with | some d => d.ctx == ctx && d.pair == pair && !(e.2.ctx == ctx && e.2.pair == pair) | none => false)

/-- The snapshot point: every bit is set, and on each tent the drain engines get their copies. -/
def State.flipNow (s : State) (ref : CmdRef) (c : Cmd) (pair : Nat) (p : SwingPair) (map : FMap DrainBit) : State :=
  let ctx := c.ctx.getD 0
  let w := c.words
  let buf := bitN (cmdWord w 1) 55
  let op : CopyOp :=
    { ctx, cmd := ref, dmaq := false, phase := cmdPhase w, src := .va (if buf then p.b else p.a), dst := copyEnd 0 0 0 (cmdWord w 3)
      len := p.len, handle := c.handle, inc := c.inc, order := c.order, swing := some pair }
  let ops := List.replicate (bits (cmdWord w 1) 54 52 + 1) op
  let s := s.modHub (fun h => { h with drainMap := map })
  let s := s.putSwing ctx pair { p with drain := some ref, buf, started := s.periods, stage := 0 }
  let s := s.setCmd ref { c with st := .running }
  let s := s.modYard (fun y => { y with holders := insertNat ctx y.holders })
  (List.range 8).foldl (fun (s : State) t => s.modTent t (fun x => { x with copyq := x.copyq ++ ops })) s

/-- Does a fetch in progress of an ell of the map have waiters that a drain would hold: writes, folds, .DEAD reads (R366)? -/
def State.writesComing (s : State) (ctx pair : Nat) (map : FMap DrainBit) : Bool :=
  let mine (e : Nat) : Bool := (Assoc.find? map e).any (fun d => d.ctx == ctx && d.pair == pair)
  s.tents.any (fun t => t.2.miss.any (fun m => mine m.2.ell && m.2.waiters.any (fun q => q.kind.writes || q.kind.isDead)))

/-- FLIP: it waits for the commands accepted before it and for the pair's previous drain; for another drain that holds one of its ells, and
for the writes that fetches in progress of its ells will make, which come before the snapshot point (DESIGN CHOICE). -/
def State.flip (s : State) (ref : CmdRef) (c : Cmd) : State :=
  let ctx := c.ctx.getD 0
  let pair := swingPair c.words
  match s.swing? ctx pair with
  | none => s.malformed ref
  | some p =>
    if cmdWord c.words 2 ≠ 0 ∨ cmdWord c.words 4 ≠ 0 ∨ !copyAddrOk (cmdWord c.words 3) then s.malformed ref
    else if p.drain.isSome ∨ s.hub.cmds.any (fun x => x.2.ctx == some ctx && decide (x.2.accept < c.accept)) then s
    else
      let base := if bitN (cmdWord c.words 1) 55 then p.b else p.a
      match s.flipPlan ctx pair base p.len with
      | (s, .held) => s
      | (s, .fault va) => s.cmdFault ref 3 va
      | (s, .ok map) =>
        if (List.range 32).any (fun ch => decide (16777216 < bitsOn map ch)) then s.malformed ref
        else if s.hub.drainClash ctx pair map || s.writesComing ctx pair map then s
        else s.flipNow ref c pair p map

/-- FLIP (R365). -/
def execFlip (ref : CmdRef) (s : State) : Host.Outcome State Fault Refusal := .next (s.runCmd ref 11 (isSwing 1) (s.flip ref))

/-- Can bytes at an offset from a FLIP's target be written: `none` while a translation waits, `some false` when there is none? -/
def State.trailerReady (s : State) (ctx target off n : Nat) : State × Option Bool :=
  if bitN target 62 then (s, some true)
  else
    match s.copyPlan 0 ctx (target + off) 0 (List.replicate n 0) with
    | (s, .held) => (s, none)
    | (s, .fault _ _) => (s, some false)
    | (s, .ok _) => (s, some true)

/-- Write bytes at an offset from a FLIP's target. -/
def State.trailerWrite (s : State) (ref : CmdRef) (ctx target off : Nat) (bs : List Byte) : State :=
  if bitN target 62 then
    let at_ := bits target 39 0 + off
    let first := min bs.length (4096 - at_ % 4096)
    let pieces := [(at_, bs.take first), (at_ + first, bs.drop first)].filter (fun p => !p.2.isEmpty)
    pieces.foldl (fun (s : State) p =>
      (s.modCmd ref (fun c => { c with outstanding := c.outstanding + 1 })).request
        (writePacketOf (bits target 61 50) (bits target 49 40) (bits target 39 0) p.1 p.2) (.command ref)) s
  else (s.writeVa 0 ctx (target + off) bs (.command ref)).1

/-- The trailer of R367 but for word 3. -/
def trailerBody (step : W64) (len pair : Nat) (buf : Bool) : List Byte × List Byte :=
  (leBytes 8 step.toNat ++ leBytes 8 len ++ leBytes 8 (pair + (if buf then 16 else 0)), List.replicate 32 0)

/-- A drain is over: its pair is free for the next, its bits are cleared, and waiting accesses go on (R366). -/
def State.endSwing (s : State) (ctx pair : Nat) (p : SwingPair) : State :=
  let s := s.putSwing ctx pair { p with drain := none, stage := 0 }
  (s.modHub (fun h => h.clearDrains ctx pair)).retryHeld

/-- A swing drain whose trailer faults: its context is lost and its FLIP ends PARTIAL with the trailer's part failed (R174, R365). -/
def State.drainFailed (s : State) (ref : CmdRef) (ctx pair : Nat) (p : SwingPair) (c : Cmd) (target : Nat) : State :=
  let s := s.loseCtx ctx (some { code := 3, ctx, pcB := target + p.len, queue := ref.queue.val, accept := c.accept }) none false
  (s.modCmd ref (fun c => { c.finish 8 true with cause := 12, partMap := 0xFFFFFFFFFFFFFFFF, firstFail := BitVec.ofNat 64 p.len })).endSwing
    ctx pair p

/-- The next stage of a drain's trailer: its bytes but word 3, then word 3, then the end of the FLIP (R365). Nothing of a stage is written
before all of it can be. -/
def State.drainStage (s : State) (ref : CmdRef) (ctx pair : Nat) (p : SwingPair) (c : Cmd) : State :=
  let target := cmdWord c.words 3
  let step := c.words.getD 7 0
  let body := trailerBody step p.len pair p.buf
  let stage (off n : Nat) (write : State → State) : State :=
    match s.trailerReady ctx target (p.len + off) n with
    | (s, none) => s
    | (s, some false) => s.drainFailed ref ctx pair p c target
    | (s, some true) => (write s).putSwing ctx pair { p with stage := p.stage + 1 }
  match p.stage with
  | 0 => stage 0 64 (fun s => (s.trailerWrite ref ctx target p.len body.1).trailerWrite ref ctx target (p.len + 32) body.2)
  | 1 => stage 24 8 (fun s => s.trailerWrite ref ctx target (p.len + 24) (leBytes 8 step.toNat))
  | _ =>
    let s := { s with resil := { s.resil with drains := ((s.periods - p.started) :: s.resil.drains).take 16 } }
    (s.finishCmd ref 0 false).endSwing ctx pair p

/-- A step of the end of a drain: once every engine has ended, the trailer is written, word 3 of it last, and then FLIP finishes. -/
def State.drainEnd (s : State) (ctx pair : Nat) : State :=
  match s.swing? ctx pair with
  | none => s
  | some p =>
    match p.drain with
    | none => s
    | some ref =>
      let mine (o : CopyOp) : Bool := o.ctx == ctx && o.swing == some pair
      if s.tents.any (fun t => t.2.copyq.any mine || t.2.engines.any (fun e => mine e.2)) then s
      else
        match s.cmd? ref with
        | none => s.endSwing ctx pair p
        | some c =>
          if c.st ≠ .running then s.endSwing ctx pair p
          else if !s.covered ref c then s
          else if c.cause ≠ 0 then (s.setCmd ref (c.finish 8 true)).endSwing ctx pair p
          else s.drainStage ref ctx pair p c

/-- SWING_DRAIN_END (R365). -/
def execSwingDrainEnd (ctx : CtxId) (pair : Nat) (s : State) : Host.Outcome State Fault Refusal := .next (s.drainEnd ctx.val pair)

/-! ### The image of a journalled step (R376 to R378) -/

/-- Bytes padded with zeros to a multiple of 16. -/
def pad16 (bs : List Byte) : List Byte := bs ++ List.replicate (16 * ceilDiv bs.length 16 - bs.length) 0

/-- A command entry. -/
def JrnCmd.image (c : JrnCmd) : List Byte :=
  leBytes 8 (c.accept % 2 ^ 48 * 65536 + c.queue % 4096 * 16) ++
  leBytes 8 (c.opcode % 256 * 2 ^ 56 + c.kernelId % 65536 * 2 ^ 40 + c.slots % 2 ^ 32) ++ pad16 (c.rings.map (BitVec.ofNat 8))

/-- A tag-state entry. -/
def tagImage (t : Nat × Nat × Nat) : List Byte := leBytes 8 (decisionWord t.1 t.2.1 + t.2.2 % 256 * 65536)

/-- A collective order record. -/
def JrnColl.image (c : JrnColl) : List Byte :=
  let n := ((List.range c.ranks.length).zip c.ranks).foldl (fun a p => a + p.2 % 4096 * 2 ^ (12 * p.1)) 0
  leBytes 8 (c.seq % 65536 * 2 ^ 48 + c.key % 65536 * 2 ^ 32 + c.seg % 2 ^ 32) ++
  leBytes 8 (c.size % 8192 * 2 ^ 51 + c.tent % 8 * 2 ^ 48) ++ leBytes (8 * ceilDiv (12 * c.size) 64) n

/-- A run entry. -/
def RunEnt.image (r : RunEnt) : List Byte := leBytes 8 r.w0.toNat ++ leBytes 8 r.w1.toNat

/-- A step without the filling of its last block: header, commands, tag state, weighmaster records, collective orders, runs. The order of the
records and of their counts in header words 5 to 9 is a DESIGN CHOICE. -/
def JrnStep.image (j : JrnStep) : List Byte :=
  let cmds := j.cmds.flatMap JrnCmd.image
  let tags := j.tags.flatMap tagImage
  let colls := j.colls.flatMap JrnColl.image
  let runs := j.runs.flatMap RunEnt.image
  let b (x : Bool) : Nat := if x then 1 else 0
  let head := [j.step.toNat, j.seed.toNat, j.ctx % 1024 + j.tags.length * 65536, b j.complete + 2 * b j.oversize, j.blocks, cmds.length, tags.length
               , j.records.length, colls.length, runs.length]
  head.flatMap (leBytes 8) ++ List.replicate 176 0 ++ cmds ++ tags ++ j.records ++ colls ++ runs

/-- 64-bit word i of an image. -/
def imageWord (bs : List Byte) (i : Nat) : Nat := entryOf bs i

/-- Read command entries off an image. -/
def readCmds (fuel : Nat) (bs : List Byte) : List JrnCmd :=
  match fuel with
  | 0 => []
  | n + 1 =>
    if bs.length < 16 then []
    else
      let a := imageWord bs 0
      let b := imageWord bs 1
      let slots := bits b 31 0
      let rings := ((bs.drop 16).take slots).map (·.toNat)
      { accept := bits a 63 16, queue := bits a 15 4, opcode := bits b 63 56, kernelId := bits b 55 40, slots, rings } ::
        readCmds n (bs.drop (16 + 16 * ceilDiv slots 16))

/-- Read collective order records off an image. -/
def readColls (fuel : Nat) (bs : List Byte) : List JrnColl :=
  match fuel with
  | 0 => []
  | n + 1 =>
    if bs.length < 16 then []
    else
      let a := imageWord bs 0
      let b := imageWord bs 1
      let size := bits b 63 51
      let len := 8 * ceilDiv (12 * size) 64
      let ranks := leNat ((bs.drop 16).take len)
      { seq := bits a 63 48, key := bits a 47 32, seg := bits a 31 0, size, tent := bits b 50 48
        ranks := (List.range size).map (fun k => bits ranks (12 * k + 11) (12 * k)) } :: readColls n (bs.drop (16 + len))

/-- The step that an image holds, stored for a context as a given step (R378). -/
def stepOfImage (ctx step : Nat) (bs : List Byte) : JrnStep :=
  let len (i : Nat) : Nat := imageWord bs i
  let at_ (i : Nat) : Nat := 256 + ((List.range i).map (fun k => len (5 + k))).foldl (· + ·) 0
  let part (i : Nat) : List Byte := (bs.drop (at_ i)).take (len (5 + i))
  let tag (w : Nat) : Nat × Nat × Nat := (bits w 15 12, bits w 7 0, bits w 23 16)
  let run (b : List Byte) : RunEnt := ⟨BitVec.ofNat 64 (imageWord b 0), BitVec.ofNat 64 (imageWord b 1)⟩
  { ctx, step := BitVec.ofNat 64 step, seed := BitVec.ofNat 64 (len 1), tags := (List.range (len 6 / 8)).map (fun i => tag (entryOf (part 1) i))
    cmds := readCmds (len 5) (part 0), records := part 2, colls := readColls (len 8) (part 3)
    runs := (List.range (len 9 / 16)).map (fun i => run ((part 4).drop (16 * i))), complete := true }

/-! ### JOURNAL_EXPORT, JOURNAL_IMPORT, REPLAY_ARM (R364, R378, R380) -/

/-- JOURNAL_EXPORT: a complete step is copied into the buffer, header first; the rest of its last block is free values. -/
def State.journalExport (s : State) (ref : CmdRef) (c : Cmd) : State :=
  let ctx := c.ctx.getD 0
  let va := cmdWord c.words 2
  match s.hub.heldStep? ctx (cmdWord c.words 7) with
  | none => s.malformed ref
  | some j =>
    if 2 ^ 57 ≤ va ∨ cmdWord c.words 3 ≠ 0 ∨ cmdWord c.words 4 < 4096 * j.blocks then s.malformed ref
    else
      let image := j.image
      match s.copyPlan 0 ctx va 0 (List.replicate (4096 * j.blocks) 0) with
      | (s, .held) => s
      | (s, .fault _ a) => s.cmdFault ref 3 a
      | (s, .ok _) =>
        let (s, fill) := s.freeTake (4096 * j.blocks - image.length)
        ((s.writeVa 0 ctx va (image ++ fill) (.command ref)).1).finishCmd ref 0 false

/-- JOURNAL_EXPORT (R378). -/
def execJournalExport (ref : CmdRef) (s : State) : Host.Outcome State Fault Refusal :=
  .next (s.runCmd ref 11 (isSwing 3) (s.journalExport ref))

/-- JOURNAL_IMPORT: the image in the buffer is stored as the given step, in place of one of that number. -/
def State.journalImport (s : State) (ref : CmdRef) (c : Cmd) : State :=
  let ctx := c.ctx.getD 0
  let va := cmdWord c.words 2
  let len := cmdWord c.words 4
  let step := cmdWord c.words 7
  if 2 ^ 57 ≤ va ∨ cmdWord c.words 3 ≠ 0 ∨ len < 4096 then s.malformed ref
  else
    match s.peekVa (.cmd ref) 0 ctx va 256 with
    | (s, .held, _) => s
    | (s, .fault, _) => s.cmdFault ref 3 va
    | (s, .ok head, _) =>
      let n := 4096 * imageWord head 4
      if n = 0 ∨ len < n then s.malformed ref
      else
        match s.readVa (.cmd ref) 0 ctx va n with
        | (s, .held) => s
        | (s, .fault) => s.cmdFault ref 3 va
        | (s, .ok bs) =>
          let j := stepOfImage ctx step bs
          let rest := s.hub.journal.filter (fun x => !(x.ctx == ctx && x.step == j.step && x.complete))
          (s.modHub (fun h => h.fitJournal (· == j) (rest ++ [j]))).finishCmd ref 0 false

/-- JOURNAL_IMPORT (R378). -/
def execJournalImport (ref : CmdRef) (s : State) : Host.Outcome State Fault Refusal :=
  .next (s.runCmd ref 11 (isSwing 4) (s.journalImport ref))

/-- REPLAY_ARM: the step must be held complete; while it is armed, its blocks are kept. -/
def State.replayArm (s : State) (ref : CmdRef) (c : Cmd) : State :=
  let ctx := c.ctx.getD 0
  let step := cmdWord c.words 7
  match s.hub.heldStep? ctx step with
  | none => s.malformed ref
  | some _ =>
    if cmdWord c.words 2 ≠ 0 ∨ cmdWord c.words 3 ≠ 0 ∨ cmdWord c.words 4 ≠ 0 then s.malformed ref
    else (s.modCtx ctx (fun x => { x with armed := some step })).finishCmd ref 0 false

/-- REPLAY_ARM (R380). -/
def execReplayArm (ref : CmdRef) (s : State) : Host.Outcome State Fault Refusal := .next (s.runCmd ref 11 (isSwing 5) (s.replayArm ref))

/-! ### Reading as a copy reads (R170, R194, R222) -/

/-- What a scan of a range gives: bytes, zeros for a grain that failed, and the offsets of grains that failed. -/
inductive Scan where
  | ok (bytes : List Byte) (bad : List Nat)
  | fault (va : Nat)
  | held
deriving DecidableEq, Repr

/-- One more grain of a scan: its place in the range, and what came of it. -/
def Scan.add (x : Scan) (va g : Nat) (got : CopyGot) : Scan :=
  match x, got with
  | .fault a, _ => .fault a
  | _, .fault a => .fault (max a va)
  | .held, _ => .held
  | _, .held => .held
  | .ok bs bad, .ok b => .ok (bs ++ b) bad
  | .ok bs bad, .integrity => .ok (bs ++ zeroGrain) (bad ++ [64 * g - va])

/-- Read the whole grain at a grain-aligned virtual address, without taking it, and name it. -/
def State.scanGrain (s : State) (who : Asker) (ctx va : Nat) : State × CopyGot × Nat :=
  match s.translate 0 ctx va false with
  | (s, .held) => (s, .held, 0)
  | (s, .fault) => (s, .fault va, 0)
  | (s, .ok p) =>
    match s.homeRead who p.key (p.gen s) p.grain with
    | (s, none) => (s, .held, p.grain)
    | (s, some .dead) => (s.deadRead ctx, .ok zeroGrain, p.grain)
    | (s, some (.bad _)) => (s, .integrity, p.grain)
    | (s, some (.ok b)) => (s, .ok b, p.grain)

/-- Read `n` bytes at a virtual address as a copy reads them, without taking them; the grains are named. -/
def State.scanPeek (s : State) (who : Asker) (ctx va n : Nat) : State × Scan × List Nat :=
  let first := va / 64
  let gs := (List.range ((va + n + 63) / 64 - first)).map (fun i => first + i)
  let (s, r, got) := gs.foldl (fun (acc : State × Scan × List Nat) g =>
    let (s, x, k) := acc.1.scanGrain who ctx (64 * g)
    (s, acc.2.1.add va g x, k :: acc.2.2)) (s, .ok [] [], [])
  (s, (match r with | .ok bs bad => .ok ((bs.drop (va - 64 * first)).take n) bad | x => x), got)

/-- Read `n` bytes at a virtual address as a copy reads them; nothing is taken before every grain is there. A reader whose read faults wants no
more of what has come for it. -/
def State.scanVa (s : State) (who : Asker) (ctx va n : Nat) : State × Scan :=
  match s.scanPeek who ctx va n with
  | (s, .ok bs bad, got) => (s.takeAnswers who got, .ok bs bad)
  | (s, .fault a, _) => (s.forgetAnswers (· == who), .fault a)
  | (s, .held, _) => (s, .held)

/-! ### DIGEST (R372) -/

/-- The digests of the chunks of a range, in order; a chunk with a failed grain gives zeros and counts as failed. -/
def digestsOf (size : Nat) (bytes : List Byte) (bad : List Nat) : List (List Byte × Bool) :=
  (List.range (bytes.length / size)).map (fun i =>
    if bad.any (fun b => b / size == i) then (List.replicate 32 0, true)
    else (Sm3.hash (leBytes 8 (i * size) ++ (bytes.drop (i * size)).take size), false))

/-- Parts of a destination of `len` bytes, with the bytes that have failed (R174, R301). -/
def failMap (len : Nat) (fails : List Nat) : W64 :=
  let parts := fails.foldl (fun l b => insertNat (b / partSize len) l) []
  BitVec.ofNat 64 (parts.foldl (fun m i => m - 2 ^ i) (2 ^ 64 - 1))

/-- A command that ends as a copy does: success, or PARTIAL with the destination bytes that have no final value (R301). -/
def State.finishParts (s : State) (ref : CmdRef) (len : Nat) (fails : List Nat) (cause : Nat) : State :=
  match fails with
  | [] => s.finishCmd ref 0 false
  | f :: _ => s.modCmd ref (fun c => { c.finish 8 true with partMap := failMap len fails, firstFail := BitVec.ofNat 64 f, cause })

/-- A page fault of a command that reads and writes as a copy does (R174). -/
def State.partsFault (s : State) (ref : CmdRef) (ctx accept len va : Nat) : State :=
  let s := s.loseCtx ctx (some { code := 3, ctx, pcB := va, queue := ref.queue.val, accept }) none false
  let all := ((List.range 64).map (fun i => i * partSize len)).filter (fun a => decide (a < len))
  s.modCmd ref (fun c => { c.finish 8 true with partMap := failMap len all, firstFail := 0, cause := 12 })

/-- DIGEST. -/
def State.digest (s : State) (ref : CmdRef) (c : Cmd) : State :=
  let ctx := c.ctx.getD 0
  let src := cmdWord c.words 1
  let len := cmdWord c.words 2
  let size := 2 ^ bits (cmdWord c.words 3) 5 0
  let dst := cmdWord c.words 4
  let n := len / size
  if n = 0 then s.finishCmd ref 0 false
  else
    match s.copyPlan 0 ctx dst 0 (List.replicate (32 * n) 0) with
    | (s, .held) => s
    | (s, .fault _ a) => s.partsFault ref ctx c.accept (32 * n) a
    | (s, .ok _) =>
      match s.scanVa (.cmd ref) ctx src len with
      | (s, .held) => s
      | (s, .fault a) => s.partsFault ref ctx c.accept (32 * n) a
      | (s, .ok bs bad) =>
        let ds := digestsOf size bs bad
        let s := (s.writeVa 0 ctx dst (ds.flatMap (·.1)) (.command ref)).1
        let fails := ((List.range n).zip ds).filterMap (fun p => if p.2.2 then some (32 * p.1) else none)
        s.finishParts ref (32 * n) fails 5

/-- DIGEST (R372). -/
def execDigest (ref : CmdRef) (s : State) : Host.Outcome State Fault Refusal := .next (s.runCmd ref 12 anyWords (s.digest ref))

end Sys2Proof.Machine
end

