-- ==== Sys2Proof/Machine/Remote.lean ====
section
/-!
DEFINITION. Remote requests at their target and their responses at the requester (R281 to R288), and the failure of a mesh link (R28).
-/

namespace Sys2Proof.Machine

/-! ### Delivered packets -/

/-- The first delivered packet of a kind that no earlier one of its source, channel and flow precedes (R277). -/
def Net.nextOf? (n : Net) (op : Nat) (sel : Packet → Bool) : Option Packet :=
  let same (p q : Packet) : Bool := p.srcId == q.srcId && p.srcDom == q.srcDom && p.vc == q.vc && p.flow == q.flow
  let rec find (seen rest : List Packet) : Option Packet :=
    match rest with
    | [] => none
    | p :: t => if p.op.toNat = op ∧ sel p ∧ !(seen.any (same p)) then some p else find (p :: seen) t
  find [] n.delivered

/-- Take a delivered packet off the list. -/
def State.takePacket (s : State) (p : Packet) : State := s.modNet (fun n => { n with delivered := n.delivered.erase p })

/-- Answer a request packet and take it off the list. -/
def State.answer (s : State) (p : Packet) (status : Nat) (payload : List Byte) : State :=
  let s := s.takePacket p
  s.forward (respond s p status payload)

/-! ### The target (R281, R283, R285, R287) -/

/-- The window of a request and the virtual address it names, or the STATUS with which the request fails (R281, R285). -/
def State.windowOf (s : State) (p : Packet) (len : Nat) (right : Window → Bool) : Except Nat (Window × Nat) :=
  let off := bits p.addr.toNat 39 0
  if bits p.sel.toNat 15 10 ≠ 0 ∨ len = 0 then .error 10
  else
    match Assoc.find? s.hub.windows (bits p.sel.toNat 9 0) with
    | none => .error 2
    | some w =>
      if w.source.isSome ∧ w.source ≠ some p.srcId.val then .error 2
      else
        match s.ctx? w.ctx with
        | none => .error 2
        | some c =>
          if c.st ≠ .live then .error 6
          else if w.len < off + len then .error 3
          else if !right w then .error 4
          else .ok (w, w.base + off)

/-- A remote READ is served (R283): each grain is read whole under R170. -/
def State.servePacketRead (s : State) (p : Packet) : State :=
  let n := p.len.toNat
  match s.windowOf p n (·.read) with
  | .error e => s.answer p e []
  | .ok (w, va) =>
    match s.scanVa (.link p.srcDom p.srcId.val p.tag.toNat) w.ctx va n with
    | (s, .held) => s
    | (s, .fault _) => s.answer p 12 []
    | (s, .ok bytes bad) =>
      if bad.isEmpty then s.answer p 0 bytes else s.answer p 5 []

/-- READ_PACKET (R283). -/
def execReadPacket (s : State) : Host.Outcome State Fault Refusal :=
  .next (match s.net.nextOf? 0 (fun _ => true) with | some p => s.servePacketRead p | none => s)

/-- Begin to serve a remote write or atomic: its response is sent once its writes are performed. -/
def State.openServe (s : State) (p : Packet) (payload : List Byte) : State × Nat :=
  let n := s.net.nextServe
  (s.modNet (fun t => { t with nextServe := n + 1, serving := Assoc.put t.serving n ⟨p, 0, payload⟩ }), n)

/-- Write one piece of a remote WRITE (R171, R239, R344). -/
def State.servePiece (s : State) (n : Nat) (ph : Phys) (bs : List (Nat × Byte)) : State :=
  if ph.host then s.hostStore ph.grain bs (.remote n) else s.homeWrite ph.key (ph.gen s) ph.grain bs (.remote n)

/-- A remote WRITE is served (R283): nothing of it is written when a page of it faults (DESIGN CHOICE). -/
def State.servePacketWrite (s : State) (p : Packet) : State :=
  match s.windowOf p p.payload.length (·.write) with
  | .error e => s.answer p e []
  | .ok (w, va) =>
    match s.copyPlan 0 w.ctx va 0 p.payload with
    | (s, .held) => s
    | (s, .fault _ _) => s.answer p 12 []
    | (s, .ok l) =>
      let (s, n) := (s.takePacket p).openServe p []
      (l.foldl (fun s x => s.servePiece n x.1 x.2) s).sendAcks

/-- WRITE_PACKET (R283). -/
def execWritePacket (s : State) : Host.Outcome State Fault Refusal :=
  .next (match s.net.nextOf? 1 (fun _ => true) with | some p => s.servePacketWrite p | none => s)

/-- The operation of an ATOMIC packet (R87, R273). -/
def atomOpOf (code : Nat) : Option AtomOp :=
  match code with
  | 0 => some .add | 1 => some .max | 2 => some .min | 3 => some .cas | 4 => some .exch
  | _ => none

/-- The entries of an ATOMIC packet, each of one operand, or two for CAS; `none` for a payload that is no list of 1 to 128 of them. -/
def atomEntriesOf (op : AtomOp) (w : Nat) (bs : List Byte) : Option (List (Nat × Nat)) :=
  let size := if op = .cas then 2 * w else w
  let n := bs.length / size
  if bs.length % size ≠ 0 ∨ n = 0 ∨ 128 < n then none
  else some ((List.range n).map (fun i =>
    let e := bs.drop (size * i)
    (leNat (e.take w), if op = .cas then leNat ((e.drop w).take w) else 0)))

/-- SOURCE of a remote request (R376). -/
def remoteSource (p : Packet) : Nat := 2 ^ 63 + p.srcId.val * 2 ^ 51 + p.tag.toNat * 2 ^ 35

/-- A remote ATOMIC on a translated address goes to the home bushel (R57, R283). The journal of the window's context records it there, and its
replay orders it (R376, R381). -/
def State.serveAtomic (s : State) (p : Packet) (ctx : Nat) (ph : Phys) (op : AtomOp) (type : Nat) (entries : List (Nat × Nat)) : State :=
  let (s, n) := (s.takePacket p).openServe p []
  let kind : ReqKind := .modify n ctx (remoteSource p) op type (ph.addr % 64) entries
  (s.arriveWith (fun s t b q => s.serve t b q false) (agentReq ph.key (ph.gen s) ph.grain kind)).sendAcks

/-- A remote ATOMIC is served (R59, R283). -/
def State.servePacketAtomic (s : State) (p : Packet) : State :=
  let type := bits p.aux.toNat 60 58
  match atomOpOf (bits p.aux.toNat 63 61) with
  | none => s.answer p 10 []
  | some op =>
    if 6 ≤ type then s.answer p 10 []
    else
      let w := atomWidth type
      match atomEntriesOf op w p.payload with
      | none => s.answer p 10 []
      | some entries =>
        match s.windowOf p w (·.atomic) with
        | .error e => s.answer p e []
        | .ok (win, va) =>
          if va % w ≠ 0 then s.answer p 7 []
          else
            match s.translate 0 win.ctx va true with
            | (s, .held) => s
            | (s, .fault) => s.answer p 12 []
            | (s, .ok ph) => s.serveAtomic p win.ctx ph op type entries

/-- ATOMIC_PACKET (R283). -/
def execAtomicPacket (s : State) : Host.Outcome State Fault Refusal :=
  .next (match s.net.nextOf? 2 (fun _ => true) with | some p => s.servePacketAtomic p | none => s)

/-- A TURN_SIG from another device: the turnstile must be exported to it (R284, R285). -/
def State.servePacketTurn (s : State) (p : Packet) : State :=
  match Assoc.find? s.hub.turns p.sel.toNat with
  | none => s.answer p 8 []
  | some t =>
    if t.exports.any (fun e => e.isNone || e == some p.srcId.val) then (s.signalTurn p.sel.toNat p.mode p.aux p.err none).answer p 0 []
    else s.answer p 8 []

/-- TURN_SIG_PACKET (R283). -/
def execTurnSigPacket (s : State) : Host.Outcome State Fault Refusal :=
  .next (match s.net.nextOf? 3 (fun _ => true) with | some p => s.servePacketTurn p | none => s)

/-! ### The requester (R173, R285, R286) -/

/-- Bytes of a remote READ reach their copy: of a copy that has stopped, those before its first failing byte are still written (R174). -/
def State.copyDeliver (s : State) (t e : Nat) (c : CopyOp) (at_ : Nat) (bs : List Byte) : State :=
  let n := if c.stopped then min bs.length (c.firstFail.getD 0 - at_) else bs.length
  s.copyTake t e false at_ (bs.take n)

/-- Where the trailer of a FLIP lies in its target: at the pair's length (R367). -/
def State.trailerAt (s : State) (c : Cmd) : W64 :=
  match s.swing? (c.ctx.getD 0) (swingPair c.words) with
  | some p => BitVec.ofNat 64 p.len
  | none => 0

/-- The outcome of a remote request reaches its issuer (R286); `false`: it cannot be taken yet. -/
def State.takeOutcome (s : State) (who : ReqWho) (status : Nat) (payload : List Byte) : State × Bool :=
  match who with
  | .copyRead t e at_ n =>
    match s.engine? t e with
    | none => (s, true)
    | some c =>
      let (s, passed) := s.copyPorts t e c false n
      if !passed then (s, false)
      else
      let status := if status = 0 ∧ payload.length ≠ n then 10 else status
      let (s, bs) := if status = 0 then (s, payload) else s.freeTake n
      let s := s.modEngine t e (fun c =>
        let c := { c with outstanding := c.outstanding - 1 }
        if status = 0 then c else c.failRange at_ n status)
      (s.copyDeliver t e c at_ bs, true)
  | .copyWrite t e at_ n =>
    (s.modEngine t e (fun c =>
      let c := { c with outstanding := c.outstanding - 1 }
      if status = 0 then c else c.failRange at_ n status), true)
  | .atom ring c =>
    let ring' : RingId := Fin.ofNat 192 ring
    match c.kind with
    | .atom op type =>
      let w := atomWidth type
      if status = 0 then
        let vals := (List.range (payload.length / w)).map (fun i => leNat ((payload.drop (w * i)).take w))
        ((s.replyAtom ring c op type vals).atomNfEvent c op type (vals.headD 0), true)
      else (c.fault (s.performed (.ring ring' c.write)) 3 (status % 256), true)
    | _ => (s, true)
  | .command ref =>
    (s.modCmd ref (fun c =>
      let c := { c with outstanding := c.outstanding - 1 }
      if status = 0 ∨ c.cause ≠ 0 then c else { c with cause := status, partMap := 0xFFFFFFFFFFFFFFFF, firstFail := s.trailerAt c }), true)
  | .turnSig ctx _ => (if status = 0 then s else s.modCtx ctx (fun c => { c with remoteFails := bump c.remoteFails 1 }), true)

/-- Is a response of the kind that a request awaits (R274)? -/
def answersKind (who : ReqWho) (op : Nat) : Bool :=
  match who with
  | .copyRead _ _ _ _ => op == 4
  | .atom _ _ => op == 6
  | _ => op == 5

/-- An outstanding request ends with a STATUS; a failure is counted (R285, R306). -/
def State.endRequest (s : State) (tag : Nat) (q : RemoteReq) (status : Nat) (payload : List Byte) : State × Bool :=
  match s.takeOutcome q.who status payload with
  | (s, true) =>
    let s := s.modNet (fun n => { n with outstanding := Assoc.del n.outstanding tag })
    (if status = 0 then s else s.modNetCounters (fun c => { c with failedBy := bumpAt c.failedBy status 1 }), true)
  | (s, false) => (s, false)

/-- A request fails on this device's side; if its issuer cannot take that at once, the request keeps the STATUS and no longer takes a
response. -/
def State.failRequest (s : State) (tag status : Nat) : State :=
  match Assoc.find? s.net.outstanding tag with
  | none => s
  | some q =>
    let st := q.fail.getD status
    match s.endRequest tag q st [] with
    | (s, true) => s
    | (s, false) => s.modNet (fun n => { n with outstanding := Assoc.put n.outstanding tag { q with fail := some st } })

/-- A response arrives: it ends the request that its TAG names, or is discarded and counted as late (R285). -/
def State.takeResponse (s : State) (p : Packet) : State :=
  let tag := p.tag.toNat
  match (Assoc.find? s.net.outstanding tag).filter (fun q => q.fail.isNone && q.dev == p.srcId.val && answersKind q.who p.op.toNat) with
  | none => (s.takePacket p).modNetCounters (fun c => { c with late := bump c.late 1 })
  | some q =>
    match s.endRequest tag q p.status.toNat p.payload with
    | (s, true) => s.takePacket p
    | (s, false) => s

/-- READ_RESP (R285). -/
def execReadResp (s : State) : Host.Outcome State Fault Refusal :=
  .next (match s.net.nextOf? 4 (fun _ => true) with | some p => s.takeResponse p | none => s)
/-- ACK (R283). -/
def execAck (s : State) : Host.Outcome State Fault Refusal :=
  .next (match s.net.nextOf? 5 (fun _ => true) with | some p => s.takeResponse p | none => s)
/-- ATOMIC_RESP (R283). -/
def execAtomicResp (s : State) : Host.Outcome State Fault Refusal :=
  .next (match s.net.nextOf? 6 (fun _ => true) with | some p => s.takeResponse p | none => s)

/-- REQUEST_TIMEOUT (R285): the request fails with UNREACHABLE; an ECHO gets no reply (R438). -/
def execRequestTimeout (tag : W16) (s : State) : Host.Outcome State Fault Refusal :=
  .next (if s.net.echoTag = some tag then s.modNet (fun n => { n with echoTag := none, echoResult := 0xFFFFFFFF })
         else s.failRequest tag.toNat 1)

/-! ### Management packets (R288) -/

/-- A management packet of this device. -/
def State.mgmtPacket (s : State) (dst : DeviceId) (dom : Bool) (mtype : Nat) (tag : W16) : Packet :=
  { op := 8, vc := 3, dstId := dst, srcId := Fin.ofNat 4096 s.net.ownId, dstDom := dom, srcDom := s.net.ownDom, tag
    addr := BitVec.ofNat 64 mtype }

/-- An MTYPE of a delivered packet. -/
def isMtype (m : Nat) (p : Packet) : Bool := bits p.addr.toNat 7 0 == m

/-- ECHO (R288). -/
def execEcho (s : State) : Host.Outcome State Fault Refusal :=
  .next (match s.net.nextOf? 8 (isMtype 2) with
    | some p => (s.takePacket p).forward (s.mgmtPacket p.srcId p.srcDom 3 p.tag)
    | none => s)

/-- An ECHO_REPLY to the ECHO in progress: the round trip in l-cycles is a free value, since the model counts no cycles. -/
def State.echoReplied (s : State) (p : Packet) : State :=
  let s := s.takePacket p
  if s.net.echoTag = some p.tag then
    let (s, v) := s.freeW64
    s.modNet (fun n => { n with echoTag := none, echoResult := v.setWidth 32 })
  else s

/-- ECHO_REPLY (R288). -/
def execEchoReply (s : State) : Host.Outcome State Fault Refusal :=
  .next (match s.net.nextOf? 8 (isMtype 3) with | some p => s.echoReplied p | none => s)

end Sys2Proof.Machine
end

