-- ==== Sys2Proof/Machine/CollMath.lean ====
section
/-!
DEFINITION. The arithmetic of collectives: streams and segments, reduction by arrival order and by the ordered tree, extrema, the norm's
sums and square root, digest comparison (R255, R289 to R301).

Wire numbering that the manual leaves open (DESIGN CHOICE): SEG counts the 64 KiB segments of the stream a member sends to another, from
the start of the shard or block; a packet's number within its segment is its FLOW.
-/

namespace Sys2Proof.Machine

/-! ### Fields of the command (R291) -/

/-- OP. -/
def Coll.op (c : Coll) : Nat := bits (cmdWord c.words 3) 31 28
/-- COUNT. -/
def Coll.count (c : Coll) : Nat := bits (cmdWord c.words 3) 63 32
/-- DTYPE. -/
def Coll.dtype (c : Coll) : Nat := bits (cmdWord c.words 3) 27 24
/-- ARITH. -/
def Coll.arith (c : Coll) : Nat := bits (cmdWord c.words 3) 23 20
/-- RND. -/
def Coll.rnd (c : Coll) : Rnd := if bits (cmdWord c.words 3) 19 18 = 1 then .zero else .nearest
/-- ORDER 1: the ordered tree. -/
def Coll.tree (c : Coll) : Bool := bitN (cmdWord c.words 3) 17
/-- REDOP. -/
def Coll.redop (c : Coll) : Nat := bits (cmdWord c.words 3) 16 14
/-- ROOT. -/
def Coll.root (c : Coll) : Nat := bits (cmdWord c.words 6) 63 52
/-- SRC_VA. -/
def Coll.src (c : Coll) : Nat := cmdWord c.words 1
/-- DST_VA. -/
def Coll.dst (c : Coll) : Nat := cmdWord c.words 2
/-- Members of the group. -/
def Coll.size (c : Coll) : Nat := c.members.length
/-- Bytes of an element. -/
def Coll.esize (c : Coll) : Nat := fmtWidth c.dtype / 8

/-- Word 3 of a COLL_SEG of this collective (R273). -/
def Coll.auxWord (c : Coll) : W64 :=
  BitVec.ofNat 64 (c.count * 2 ^ 32 + c.op * 2 ^ 28 + c.dtype * 2 ^ 24 + c.arith * 2 ^ 20 + c.tree.toNat * 2 ^ 19 + c.redop * 2 ^ 16
    + c.root * 2 ^ 4)

/-! ### Streams (R292, R294) -/

/-- Elements of a shard of an all-reduce: m = ceil(n / G) to each but the last ones. -/
def Coll.shard (c : Coll) : Nat := ceilDiv c.count c.size
/-- Bytes of shard q. -/
def Coll.shardBytes (c : Coll) (q : Nat) : Nat :=
  (min c.count ((q + 1) * c.shard) - min c.count (q * c.shard)) * c.esize

/-- Bytes that one rank sends to another in a kind of segment, itself included (R292, R294, R298, R300). -/
def Coll.streamLen (c : Coll) (kind fr dest : Nat) : Nat :=
  let block := c.count * c.esize
  match c.op, kind with
  | 0, 0 => c.shardBytes dest
  | 0, 1 => c.shardBytes fr
  | 1, 0 => block
  | 1, 1 => if fr = dest then block else 0
  | 2, 0 => block
  | 3, 0 => block
  | 4, 0 => if fr = c.root then block else 0
  | 5, 0 => if dest = 0 then 24 else 0
  | 5, 1 => if fr = 0 then 32 else 0
  | 7, 3 => 32 * c.count
  | _, _ => 0

/-- Where the stream to a rank starts in the source. -/
def Coll.srcOff (c : Coll) (dest : Nat) : Nat :=
  match c.op with
  | 0 => dest * c.shard * c.esize
  | 1 | 3 => dest * c.count * c.esize
  | _ => 0

/-- Where the final data of a rank lie in the destination. -/
def Coll.dstOff (c : Coll) (fr : Nat) : Nat :=
  match c.op with
  | 0 => fr * c.shard * c.esize
  | 2 | 3 => fr * c.count * c.esize
  | _ => 0

/-- Does a kind carry bytes that go to the destination as they are? -/
def Coll.isFinal (c : Coll) (kind : Nat) : Bool :=
  match c.op with
  | 0 | 1 | 5 => kind == 1
  | 2 | 3 | 4 => kind == 0
  | _ => false

/-- Bytes of the member's destination (R301). -/
def Coll.dstLen (c : Coll) : Nat :=
  match c.op with
  | 2 | 3 => c.size * c.count * c.esize
  | 5 => 32
  | 6 => c.count * 65536
  | 7 => 8 * ceilDiv c.count 64
  | _ => c.count * c.esize

/-- Segments of a stream. -/
def segCount (len : Nat) : Nat := ceilDiv len 65536
/-- Bytes of a segment of a stream of `len` bytes. -/
def segLen (len seg : Nat) : Nat := min 65536 (len - 65536 * seg)

/-- Number of a stream, a segment and a packet in the tables of `Coll`. -/
def streamKey (rank kind : Nat) : Nat := rank * 4 + kind
/-- Number of a segment. -/
def segKey (rank kind seg : Nat) : Nat := streamKey rank kind * 2 ^ 32 + seg
/-- Number of a packet. -/
def packetKey (rank kind seg n : Nat) : Nat := segKey rank kind seg * 16 + n

/-- The packets of a segment's bytes: number and payload. -/
def segPackets (bs : List Byte) : List (Nat × List Byte) :=
  (List.range (max 1 (ceilDiv bs.length 4096))).map (fun i => (i, (bs.drop (4096 * i)).take 4096))

/-- A packet of a segment has come. -/
def Coll.receive (c : Coll) (rank kind seg n : Nat) (bs : List Byte) (status : Nat) : Coll :=
  let k := packetKey rank kind seg n
  { c with recv := Assoc.put c.recv k bs, stamp := Assoc.put c.stamp k c.tick, tick := c.tick + 1
           bad := if status = 0 then c.bad else Assoc.put c.bad (segKey rank kind seg) status }

/-- Have all packets of a segment come? -/
def Coll.whole (c : Coll) (rank kind seg : Nat) : Bool :=
  let n := ceilDiv (segLen (c.streamLen kind rank c.my) seg) 4096
  (List.range n).all (fun i => (Assoc.find? c.recv (packetKey rank kind seg i)).isSome)

/-- The bytes of a whole segment. -/
def Coll.segBytes (c : Coll) (rank kind seg : Nat) : List Byte :=
  let n := ceilDiv (segLen (c.streamLen kind rank c.my) seg) 4096
  (List.range n).flatMap (fun i => Assoc.get [] c.recv (packetKey rank kind seg i))

/-! ### Reduction (R293, R294, R296) -/

/-- Bytes a to b − 1 of a rank's contribution to the own shard; `none` when a segment of them has failed. -/
def Coll.contribution (c : Coll) (rank a b : Nat) : Option (List Byte) :=
  let s0 := a / 65536
  let segs := (List.range (ceilDiv b 65536 - s0)).map (s0 + ·)
  if segs.any (fun s => (Assoc.find? c.bad (segKey rank 0 s)).isSome) then none
  else some (((segs.flatMap (c.segBytes rank 0)).drop (a - 65536 * s0)).take (b - a))

/-- When the last packet with bytes a to b − 1 of a rank's contribution came. -/
def Coll.cameAt (c : Coll) (rank a b : Nat) : Nat :=
  let p0 := a / 4096
  ((List.range (ceilDiv b 4096 - p0)).map (fun i => Assoc.get 0 c.stamp (packetKey rank 0 ((p0 + i) / 16) ((p0 + i) % 16)))).foldl max 0

/-- Insert by a key, after equal ones. -/
def insertBy (f : Nat → Nat) (x : Nat) : List Nat → List Nat
  | [] => [x]
  | y :: t => if f x < f y then x :: y :: t else y :: insertBy f x t

/-- Sort by a key. -/
def sortBy (f : Nat → Nat) (l : List Nat) : List Nat := l.foldl (fun acc x => insertBy f x acc) []

/-- One level of the ordered tree: value 2i plus value 2i + 1, a last value without partner alone (R296). -/
def treeLevel {α : Type} (add : α → α → α) : List α → List α
  | a :: b :: t => add a b :: treeLevel add t
  | l => l

/-- The ordered tree over ranks (R296). -/
def treeSum {α : Type} (add : α → α → α) (fuel : Nat) (l : List α) : Option α :=
  match fuel with
  | 0 => l.head?
  | n + 1 => match l with
    | [x] => some x
    | l => treeSum add n (treeLevel add l)

/-- One level of the tree over what is there: values of the next level that can be formed, and values that wait for their partner. -/
def treePairs : List Bool → List Bool × Nat
  | a :: b :: t => let r := treePairs t; ((a && b) :: r.1, r.2 + (if a = b then 0 else 1))
  | l => (l, 0)

/-- Values that the ordered tree holds when the marked ranks' contributions are there: each waits for its partner (R296). -/
def treeHeld (fuel : Nat) (l : List Bool) : Nat :=
  match fuel with
  | 0 => l.count true
  | n + 1 =>
    match l with
    | [] | [_] => l.count true
    | l => let r := treePairs l; r.2 + treeHeld n r.1

/-- Sum in a given order. -/
def foldSum {α : Type} (add : α → α → α) : List α → Option α
  | [] => none
  | x :: t => some (t.foldl add x)

/-- One addition in FP32, S24 or BF16: rounded to nearest even (R293). -/
def addIn (arith : Nat) (x y : FVal) : FVal := decodeFmt arith (roundFmt arith (FVal.add x y))

/-- One addition in W96 (R144 with K = 1). -/
def addW96 (x y : AccEl) : AccEl := accStep x [y.val]

/-- Sum of the contributions of one element (R293, R296): `order` is the order of arrival. -/
def Coll.sum (c : Coll) (order : List Nat) (vals : List FVal) : Nat :=
  let inOrder {α : Type} (d : α) (l : List α) : List α := order.map (fun r => l.getD r d)
  if c.arith = 15 then
    let els := vals.map (fun v => accStep AccEl.zero [v])
    let r := (if c.tree then treeSum addW96 c.size els
      else some ((inOrder FVal.zero vals).foldl (fun a v => accStep a [v]) AccEl.zero)).getD AccEl.zero
    if c.dtype = 15 then r.encode else (convertFmt c.dtype c.rnd r.val).enc
  else
    let r := (if c.tree then treeSum (addIn c.arith) c.size vals else foldSum (addIn c.arith) (inOrder FVal.zero vals)).getD FVal.zero
    (convertFmt c.dtype c.rnd r).enc

/-- Largest or smallest contribution of one element (R57, R293). -/
def Coll.extremum (c : Coll) (ws : List Nat) : Nat :=
  let big : Bool := c.redop == 1
  let pick (a b : Nat) : Nat :=
    if c.dtype = 12 then (if big then (if signed 32 a < signed 32 b then b else a) else (if signed 32 b < signed 32 a then b else a))
    else
      let x := decodeFmt c.dtype a
      let y := decodeFmt c.dtype b
      roundFmt c.dtype (if big then FVal.maxNum x y else FVal.minNum x y)
  match ws with
  | [] => 0
  | w :: t => t.foldl pick w

/-- Ranks of the group. -/
def Coll.ranks (c : Coll) : List Nat := List.range c.size

/-- Segments of the own shard that have been granted to some member and are not reduced (R289). -/
def Coll.inFlight (c : Coll) : List Nat :=
  (List.range (segCount (c.streamLen 0 c.my c.my))).filter (fun seg =>
    (Assoc.find? c.results seg).isNone && c.ranks.any (fun r => decide (seg < Assoc.get 0 c.grantsOut r)))

/-- Places of 64 KiB that a segment in flight takes in the reduction buffer: one for its sums in arrival order; in the ordered tree one for
each value that waits for its partner (R289, R296). -/
def Coll.places (c : Coll) (seg : Nat) : Nat :=
  if c.tree then max 1 (treeHeld c.size (c.ranks.map (fun r => c.whole r 0 seg))) else 1

/-- The order in which whole contributions to a segment came, the own one among them (R296). -/
def Coll.arrivalOrder (c : Coll) (seg : Nat) : List Nat :=
  let len := c.streamLen 0 c.my c.my
  sortBy (fun r => c.cameAt r (65536 * seg) (65536 * seg + segLen len seg)) c.ranks

/-- The order in which whole contributions to a segment finished, the own one first (R374). -/
def Coll.finishOrder (c : Coll) (seg : Nat) : List Nat :=
  let len := c.streamLen 0 c.my c.my
  sortBy (fun r => if r = c.my then 0 else c.cameAt r (65536 * seg) (65536 * seg + segLen len seg)) c.ranks

/-- Reduce a segment of the own shard (R293, R294, R296): its bytes, and INTEGRITY when a contribution has failed. `order` is an order for
the whole segment; without it each element has its own order of arrival. -/
def Coll.reduce (c : Coll) (seg : Nat) (order : Option (List Nat)) : List Byte × Nat :=
  let len := c.streamLen 0 c.my c.my
  let e := c.esize
  let a := 65536 * seg
  let b := a + segLen len seg
  let ea := a / e
  let eb := ceilDiv b e
  let parts := c.ranks.map (fun r => c.contribution r (ea * e) (eb * e))
  if parts.any Option.isNone then (List.replicate (b - a) 0, 5)
  else
    let parts := parts.map (fun p => p.getD [])
    let out := (List.range (eb - ea)).flatMap (fun i =>
      let ws := parts.map (fun p => leNat ((p.drop (e * i)).take e))
      if c.redop = 0 then
        let lo := (ea + i) * e
        leBytes e (c.sum (order.getD (sortBy (fun r => c.cameAt r lo (lo + e)) c.ranks)) (ws.map (decodeFmt c.dtype)))
      else leBytes e (c.extremum ws))
    ((out.drop (a - ea * e)).take (b - a), 0)

/-! ### The norm (R255) -/

/-- Square root of a natural number, rounded down. -/
def natSqrt (n : Nat) : Nat :=
  (List.range (Nat.log2 n / 2 + 1)).foldr (fun i r => if (r + 2 ^ i) * (r + 2 ^ i) ≤ n then r + 2 ^ i else r) 0

/-- The square root of an exact value, rounded once to FP32 (R255). -/
def sqrtFp32 (x : FVal) : Nat :=
  match x with
  | .nan => canonicalNan 1
  | .inf n => if n then canonicalNan 1 else 0x7F800000
  | .fin n m e =>
    if m = 0 then 0
    else if n then canonicalNan 1
    else
      let up := 64 + (e % 2).toNat
      let m := m * 2 ^ up
      let r := natSqrt m
      roundFmt 1 (.fin false (2 * r + (if r * r = m then 0 else 1)) ((e - up) / 2 - 1))

/-- A result block (R255). -/
def normBlock (sumsq norm nf step : Nat) : List Byte := leBytes 16 sumsq ++ leBytes 8 (norm * 2 ^ 32 + nf) ++ leBytes 8 step

/-- The owner combines the devices' partials (R255, R296): the result block, and INTEGRITY when a partial has failed. `order` is the order
of arrival. -/
def Coll.norm (c : Coll) (order : List Nat) (step : Nat) : List Byte × Nat :=
  let parts := c.ranks.map (fun r => c.contribution r 0 24)
  let words := parts.map (fun p => p.getD [])
  let els := words.map (fun p => AccEl.decode (leNat (p.take 16)))
  let total := (if c.tree then treeSum addW96 c.size els else foldSum addW96 (order.map (fun r => els.getD r AccEl.zero))).getD AccEl.zero
  if parts.any Option.isNone then (normBlock total.encode (canonicalNan 1) 1 step, 5)
  else
    let nf : Bool := words.any (fun p => leNat (p.drop 16) != 0)
    (normBlock total.encode (if nf then canonicalNan 1 else sqrtFp32 total.val) nf.toNat step, 0)

/-- A range of a norm's list (R298). -/
structure NormRange where
  va : Nat
  len : Nat
  fmt : Nat
  k : Int
deriving DecidableEq, Repr

/-- Read the list of ranges; `none` is a refused field (R298). -/
def normRanges (bs : List Byte) : Option (List NormRange) :=
  let rs := (chunks 16 bs.length bs).map (fun b =>
    let w0 := leNat (b.take 8)
    let w1 := leNat (b.drop 8)
    let ok : Bool := decide (w0 < 2 ^ 57) && decide (bits w1 19 0 = 0) && [1, 2, 3, 4, 5, 6].contains (bits w1 31 28) &&
      decide (-127 ≤ signed 8 (bits w1 27 20))
    (ok, ({ va := w0, len := bits w1 63 32, fmt := bits w1 31 28, k := signed 8 (bits w1 27 20) } : NormRange)))
  if rs.all (·.1) then some (rs.map (·.2)) else none

/-- The square of an element times 2^−k (R255, steps 2 and 3). -/
def normTerm (k : Int) (x : FVal) : FVal := FVal.mul (FVal.scale (-k) x) (FVal.scale (-k) x)

/-! ### Digest comparison (R300) -/

/-- Bytes of the bitmap for the digests of one segment: bit i is 1 where digest i differs; the last segment fills its last word with zero
bits. -/
def digestDiff (own other : List Byte) : List Byte :=
  let n := own.length / 32
  let differs (i : Nat) : Bool := (own.drop (32 * i)).take 32 != (other.drop (32 * i)).take 32
  leBytes (8 * ceilDiv n 64) (((List.range n).filter differs).foldl (fun m i => m + 2 ^ i) 0)

/-! ### Ranges of bytes -/

/-- The bytes below `len` that a run list lacks, as runs. -/
def gapsOf (r : Runs) (len : Nat) : List (Nat × Nat) :=
  let rec go (lo : Nat) (l : Runs) : List (Nat × Nat) :=
    match l with
    | [] => if lo < len then [(lo, len - lo)] else []
    | (a, n) :: t => if lo < min a len then (lo, min a len - lo) :: go (a + n) t else go (max lo (a + n)) t
  go 0 r

/-- The part bitmap of a destination of `len` bytes with the given ranges failed (R174, R301). -/
def rangesMap (len : Nat) (fails : List (Nat × Nat)) : W64 :=
  let size := partSize len
  let parts := (List.range 64).filter (fun i => fails.any (fun f => decide (f.1 < size * (i + 1)) && decide (size * i < f.1 + f.2)))
  BitVec.ofNat 64 (parts.foldl (fun m i => m - 2 ^ i) (2 ^ 64 - 1))

end Sys2Proof.Machine
end

