-- ==== Sys2Proof/Machine/Colls.lean ====
section
/-!
DEFINITION. Collectives: start, sending within grants, receiving, reducing, writing, and how they end (R255, R289 to R302, R307, R374,
R377, R381).

Wire conventions that the manual leaves open (DESIGN CHOICE): a grant's SEG is the number of segments granted so far; a failed segment
carries its STATUS in its packets; a norm's contribution is the W96 sum and a word with NF in bit 0.
-/

namespace Sys2Proof.Machine

/-! ### The table of collectives -/

/-- The collective of a command. -/
def State.coll? (s : State) (ref : CmdRef) : Option Coll := s.net.colls.find? (fun c => c.ref == ref)
/-- Put back a collective. -/
def State.putColl (s : State) (x : Coll) : State :=
  s.modNet (fun n => { n with colls := n.colls.map (fun c => if c.ref = x.ref then x else c) })
/-- Change a collective. -/
def State.modColl (s : State) (ref : CmdRef) (f : Coll → Coll) : State :=
  match s.coll? ref with
  | some c => s.putColl (f c)
  | none => s

/-- The step number of a context (R253). -/
def State.stepNumber (s : State) (ctx : Nat) : Nat := match s.ctx? ctx with | some c => c.step.toNat | none => 0

/-- A collective ends at once with a cause (R302). A norm's block has no final value any longer: it is written with NORM NaN (R255). -/
def State.endColl (s : State) (ref : CmdRef) (cause : Nat) : State :=
  s.modColl ref (fun c => if c.ended then c else
    { c with ended := true, cause := if c.cause = 0 then cause else c.cause, final := if c.op = 5 then [] else c.final })

/-- The part bitmap, first failing byte and cause of a collective go to its command; it leaves the table and is counted (R301, R302,
R306). -/
def State.closeColl (s : State) (c : Coll) (fails : List (Nat × Nat)) : State :=
  let s := s.modNet (fun n => { n with colls := n.colls.filter (fun x => x.ref != c.ref) })
  let s := s.forgetAnswers (fun a => match a with | .coll r _ => r == c.ref | _ => false)
  if c.cause = 0 then
    (s.modNetCounters (fun k => { k with collsDone := bump k.collsDone 1 })).finishCmd c.ref 0 false
  else
    (s.countPartial c.cause).modCmd c.ref (fun m => { m.finish 8 true with
      partMap := rangesMap c.dstLen fails, firstFail := BitVec.ofNat 64 ((fails.map (·.1)).headD (2 ^ 64 - 1)), cause := c.cause })

/-- A norm that ends PARTIAL before it has started writes its block with NORM NaN and NF 1 wherever it can, and sets the skip state (R255).
`false`: the block cannot be written now. -/
def State.voidNorm (s : State) (ref : CmdRef) (ctx : Nat) (w : List W64) : State × Bool :=
  if !isNorm w then (s, true)
  else
    let (s, fr) := s.freeTake 16
    match s.writeVa 0 ctx (bits (cmdWord w 2) 56 0) (normBlock (leNat fr) (canonicalNan 1) 1 (s.stepNumber ctx)) (.command ref) with
    | (s, .held) => (s, false)
    | (s, _) => (s.modCtx ctx (fun x => { x with skip := true }), true)

/-- A collective command that ends before it has started: nothing of it has succeeded, its first byte not either (R293, R301, R302). -/
def State.collMalformed (s : State) (ref : CmdRef) (ctx : Nat) (w : List W64) (cause : Nat) (seq : State → State) : State :=
  match s.voidNorm ref ctx w with
  | (s, false) => s
  | (s, true) => ((seq s).countPartial cause).modCmd ref (fun m => { m.finish 8 true with partMap := 0, firstFail := 0, cause })

/-! ### Sending (R294) -/

/-- Send a COLL_SEG to a rank (R273). -/
def State.sendColl (s : State) (c : Coll) (dest kind seg n : Nat) (bs : List Byte) (status tag : Nat) : State :=
  let m := c.members.getD dest (0, false)
  let p : Packet :=
    { op := 7, vc := 2, flow := BitVec.ofNat 4 n, dstId := Fin.ofNat 4096 m.1, srcId := Fin.ofNat 4096 s.net.ownId, dstDom := m.2
      srcDom := s.net.ownDom, len := BitVec.ofNat 13 bs.length, tag := BitVec.ofNat 16 tag, status := BitVec.ofNat 16 status
      sel := BitVec.ofNat 16 c.key, addr := BitVec.ofNat 64 (c.seq * 2 ^ 48 + c.my * 2 ^ 36 + kind * 2 ^ 34 + seg), aux := c.auxWord
      payload := bs }
  (s.countLinkBytes c.ctx 3 (32 + bs.length)).forward p

/-- Bytes that a stream needs from memory. -/
inductive SegGot where
  | ok (bytes : List Byte) (status : Nat)
  | fault (va : Nat)
  | held
  | malformed
deriving DecidableEq, Repr

/-- Read `n` bytes of a local range for a collective. -/
def State.readColl (s : State) (c : Coll) (va n : Nat) : State × SegGot :=
  match s.scanVa (.coll c.ref 0) c.ctx va n with
  | (s, .held) => (s, .held)
  | (s, .fault a) => (s, .fault a)
  | (s, .ok bytes bad) => (s, .ok bytes (if bad.isEmpty then 0 else 5))

/-- The home tent of an address of a context. -/
def State.homeOfVa (s : State) (ctx va : Nat) : Nat :=
  match s.translate 0 ctx va false with
  | (_, .ok p) => homeTent (ellOfGrain p.grain)
  | _ => 0

/-- Ranges sorted by address. -/
def sortRanges (l : List NormRange) : List NormRange :=
  l.foldl (fun acc x => acc.filter (fun y => decide (y.va ≤ x.va)) ++ [x] ++ acc.filter (fun y => decide (x.va < y.va))) []

/-- One range of a norm added into the tents' sums: each element goes to the tent where its first byte is at home (DESIGN CHOICE). -/
def State.normRange (s : State) (ctx : Nat) (r : NormRange) (sums : List AccEl) (bytes : List Byte) : List AccEl × Bool :=
  let e := fmtWidth r.fmt / 8
  (List.range r.len).foldl (fun (acc : List AccEl × Bool) i =>
    let x := decodeFmt r.fmt (leNat ((bytes.drop (e * i)).take e))
    let t := s.homeOfVa ctx (r.va + e * i)
    (acc.1.set t (accStep (acc.1.getD t AccEl.zero) [normTerm r.k x]), acc.2 || !x.isFinite)) (sums, false)

/-- The device's partial of a norm (R255, R298): the tents' sums added in ascending tent order, and NF: the step flag or a non-finite
element, which sets the step flag (R254). -/
def State.normPartial (s : State) (c : Coll) : State × SegGot :=
  let who : Asker := .coll c.ref 1
  let list : State × SegGot := match s.scanPeek who c.ctx c.src (16 * c.count) with
    | (s, .held, _) => (s, .held)
    | (s, .fault a, _) => (s, .fault a)
    | (s, .ok bytes bad, _) => (s, .ok bytes (if bad.isEmpty then 0 else 5))
  match list with
  | (s, .ok list st) =>
    if st ≠ 0 then (s, .ok (List.replicate 24 0) st)
    else
      match normRanges list with
      | none => (s, .malformed)
      | some rs =>
        let zero : List AccEl := List.replicate 8 AccEl.zero
        let out := (sortRanges rs).foldl (fun (acc : State × SegGot × List AccEl × Bool) r =>
          match acc.2.1 with
          | .ok _ st =>
            match acc.1.scanPeek who c.ctx r.va (r.len * (fmtWidth r.fmt / 8)) with
            | (s, .held, _) => (s, .held, acc.2.2)
            | (s, .fault a, _) => (s, .fault a, acc.2.2)
            | (s, .ok bytes bad, _) =>
              let x := s.normRange c.ctx r acc.2.2.1 bytes
              (s, .ok [] (if bad.isEmpty then st else 5), x.1, acc.2.2.2 || x.2)
          | _ => acc) (s, .ok [] 0, zero, false)
        match out with
        | (s, .ok _ st, sums, nf) =>
          let s := s.forgetAnswers (· == who)
          let s := if nf then s.modCtx c.ctx (fun x => { x with stepNf := true }) else s
          let flag : Bool := ((s.ctx? c.ctx).map (·.stepNf)).getD false
          let total := sums.foldl (fun a x => accStep a [x.val]) AccEl.zero
          (s, .ok (leBytes 16 total.encode ++ leBytes 8 flag.toNat) st)
        | (s, g, _, _) => (s, g)
  | (s, g) => (s, g)

/-- The bytes of a segment that is to be sent. -/
def State.segSource (s : State) (c : Coll) (kind dest seg : Nat) : State × SegGot :=
  let len := c.streamLen kind c.my dest
  if kind = 1 then
    match Assoc.find? c.results seg with
    | some (b, st) => (s, .ok b st)
    | none => (s, .held)
  else if c.op = 5 then s.normPartial c
  else s.readColl c (c.src + c.srcOff dest + 65536 * seg) (segLen len seg)

/-- Send the next segment of a stream; `false`: it cannot be sent now. -/
def State.sendSegment (s : State) (ref : CmdRef) (kind dest : Nat) : State × Bool :=
  match s.coll? ref with
  | none => (s, false)
  | some c =>
    let sk := streamKey dest kind
    let seg := Assoc.get 0 c.sent sk
    let left : Bool := decide (seg < segCount (c.streamLen kind c.my dest))
    let all := ([0, 1, 3].map (fun k => Assoc.get 0 c.sent (streamKey dest k))).foldl (· + ·) 0
    let granted : Bool := decide (all < Assoc.get 0 (if dest = c.my then c.grantsOut else c.grantsIn) dest)
    if c.ended || !left || !granted then (s, false)
    else
      match s.segSource c kind dest seg with
      | (s, .held) => (s, false)
      | (s, .fault va) => (s.cmdFault ref 3 va, false)
      | (s, .malformed) => (s.endColl ref 10, false)
      | (s, .ok bytes st) =>
        let s := s.modColl ref (fun c => { c with sent := Assoc.put c.sent sk (seg + 1) })
        if dest = c.my then
          (s.modColl ref (fun c => (segPackets bytes).foldl (fun c p => c.receive c.my kind seg p.1 p.2 st) c), true)
        else ((segPackets bytes).foldl (fun s p => s.sendColl c dest kind seg p.1 p.2 st 0) s, true)

/-- Send what a stream's grants allow. -/
def State.sendStream (s : State) (ref : CmdRef) (kind dest fuel : Nat) : State :=
  match fuel with
  | 0 => s
  | n + 1 => match s.sendSegment ref kind dest with
    | (s, true) => s.sendStream ref kind dest n
    | (s, false) => s

/-- Send every stream. -/
def State.sendAll (s : State) (ref : CmdRef) : State :=
  match s.coll? ref with
  | none => s
  | some c =>
    [0, 1, 3].foldl (fun s k => c.ranks.foldl (fun s q => s.sendStream ref k q (segCount (c.streamLen k c.my q) + 1)) s) s

/-! ### Receiving (R292, R294, R296, R300) -/

/-- Source and destination overlap in a way that R292 does not allow: the destination is undefined. -/
def Coll.overlaps (c : Coll) : Bool :=
  let srcLen := match c.op with
    | 1 | 3 => c.size * c.count * c.esize
    | 6 => 32 + 32 * ((c.carousel.map (fun k => k.table.length)).getD 0)
    | 7 => 32 * c.count
    | _ => c.count * c.esize
  let meet : Bool := decide (c.src < c.dst + c.dstLen) && decide (c.dst < c.src + srcLen)
  let allowed : Bool := (c.op == 0 && c.src == c.dst) || (c.op == 2 && c.dst + c.my * c.count * c.esize == c.src)
  c.op != 5 && meet && !allowed

/-- Write bytes at an offset of the destination; the answer tells whether that was possible now. -/
def State.putDst (s : State) (c : Coll) (off : Nat) (bs : List Byte) : State × Bool :=
  let (s, bs) := if c.overlaps then s.freeTake bs.length else (s, bs)
  match s.writeVa 0 c.ctx (c.dst + off) bs (.command c.ref) with
  | (s, .held) => (s, false)
  | (s, .fault) => (s.cmdFault c.ref 3 (c.dst + off), true)
  | (s, .ok _) => (s, true)

/-- Segments have been used; with `range`, these destination bytes hold their final value. -/
def Coll.use (c : Coll) (keys : List Nat) (range : Option (Nat × Nat)) (cause : Nat) : Coll :=
  { c with used := c.used ++ keys, final := match range with | some r => Runs.add c.final r | none => c.final
           cause := if c.cause = 0 then cause else c.cause }

/-- Use a segment that goes to the destination as it is (R292). A failed segment leaves its bytes without their final value (R302). A norm's
block carries NF (R255). -/
def State.useFinal (s : State) (c : Coll) (fr kind seg : Nat) : State :=
  let off := c.dstOff fr + 65536 * seg
  let n := segLen (c.streamLen kind fr c.my) seg
  let bytes := c.segBytes fr kind seg
  let bad := Assoc.get 0 c.bad (segKey fr kind seg)
  let (s, out) := if bad ≠ 0 ∧ c.op ≠ 5 then s.freeTake n else (s, bytes)
  match s.putDst c off out with
  | (s, false) => s
  | (s, true) =>
    let nf : Bool := c.op == 5 && bitN (leNat (bytes.drop 16)) 0
    let s := if nf then s.modCtx c.ctx (fun x => { x with skip := true }) else s
    s.modColl c.ref (fun c => c.use [segKey fr kind seg] (if bad = 0 then some (off, n) else none) bad)

/-- Take a recorded order of contributions off the replay (R381): the first one left of the group and segment. -/
def State.takeOrder (s : State) (key group seg : Nat) : State × Option (List Nat) :=
  match s.replay? key with
  | none => (s, none)
  | some r =>
    match r.colls.find? (fun j => j.key == group && j.seg == seg) with
    | none => (s, none)
    | some j => (s.modHub (fun h => { h with replays := Assoc.put h.replays key { r with colls := r.colls.erase j } }), some j.ranks)

/-- May a segment of the own shard be reduced: every rank's contribution is there, those of its neighbours too where elements of 3 bytes
cross? -/
def Coll.reducible (c : Coll) (seg : Nat) : Bool :=
  let n := segCount (c.streamLen 0 c.my c.my)
  let there (s : Nat) : Bool := decide (n ≤ s) || c.ranks.all (fun r => c.whole r 0 s)
  there seg && (c.esize != 3 || ((seg == 0 || there (seg - 1)) && there (seg + 1)))

/-- Reduce a segment of the own shard, in the recorded order during replay, and record the order when the step is journalled (R296, R374,
R377, R381). -/
def State.reduceSeg (s : State) (c : Coll) (seg : Nat) : State :=
  let key := s.stepKey c.ctx c.ref
  let recorded : Bool := s.recording key && !c.tree
  let (s, forced) := if c.tree then (s, none) else s.takeOrder key c.key seg
  let finish := c.finishOrder seg
  let order : Option (List Nat) := if forced.isSome then forced else if recorded then some finish else none
  let res := if c.op = 5 then c.norm (order.getD (c.arrivalOrder seg)) (s.stepNumber c.ctx) else c.reduce seg order
  let s := if recorded then
      s.jrnMod key (fun j => { j with colls := j.colls ++ [⟨c.seq, c.key, seg, c.size, seg % 8, order.getD finish⟩] })
    else s
  let s := s.modNetCounters (fun k => { k with segsReduced := bumpAt k.segsReduced (seg % 8) 1 })
  s.modColl c.ref (fun c => { c.use (c.ranks.map (fun r => segKey r 0 seg)) none 0 with results := Assoc.put c.results seg res })

/-- Compare a segment of digests with the partner's (R300). -/
def State.compareSeg (s : State) (c : Coll) (seg : Nat) : State :=
  let other := 1 - c.my
  let bad := max (Assoc.get 0 c.bad (segKey c.my 3 seg)) (Assoc.get 0 c.bad (segKey other 3 seg))
  let diff := digestDiff (c.segBytes c.my 3 seg) (c.segBytes other 3 seg)
  let off := 256 * seg
  let (s, out) := if bad ≠ 0 then s.freeTake diff.length else (s, diff)
  match s.putDst c off out with
  | (s, false) => s
  | (s, true) =>
    s.modColl c.ref (fun c => c.use [segKey c.my 3 seg, segKey other 3 seg] (if bad = 0 then some (off, out.length) else none) bad)

/-- Use a segment of a stream, if it is whole and has not been used. -/
def State.useSegment (s : State) (ref : CmdRef) (fr kind seg : Nat) : State :=
  match s.coll? ref with
  | none => s
  | some c =>
    if c.ended || c.used.contains (segKey fr kind seg) || !c.whole fr kind seg then s
    else if c.isFinal kind then s.useFinal c fr kind seg
    else if kind = 3 then (if c.whole (1 - c.my) 3 seg && c.whole c.my 3 seg then s.compareSeg c seg else s)
    else if fr = c.my ∧ c.reducible seg then s.reduceSeg c seg
    else s

/-- Use every segment that can be used. -/
def State.useAll (s : State) (ref : CmdRef) : State :=
  match s.coll? ref with
  | none => s
  | some c =>
    [0, 3, 1].foldl (fun s k => c.ranks.foldl (fun s r =>
      (List.range (segCount (c.streamLen k r c.my))).foldl (fun s seg => s.useSegment ref r k seg) s) s) s

/-- Segments that a rank sends to this member in all. -/
def Coll.expected (c : Coll) (r : Nat) : Nat := ([0, 1, 3].map (fun k => segCount (c.streamLen k r c.my))).foldl (· + ·) 0
/-- Segments of a rank that have been used. -/
def Coll.usedOf (c : Coll) (r : Nat) : Nat := (c.used.filter (fun k => k / 2 ^ 32 / 4 == r)).length

/-- Places of the reduction buffer of a tent: 8 MiB in units of a segment (R289). -/
def bufferPlaces : Nat := 128

/-- Places of a tent's reduction buffer in use. -/
def State.bufferUse (s : State) (tent : Nat) : Nat :=
  ((s.net.colls.filter (fun c => !c.ended)).flatMap (fun c => (c.inFlight.filter (fun seg => seg % 8 == tent)).map c.places)).foldl (· + ·) 0

/-- May one more segment be granted to a rank? A segment to be reduced needs a place in its tent's buffer; the first that is not reduced can
always be granted, so that the collective goes on (DESIGN CHOICE). -/
def State.mayGrant (s : State) (c : Coll) (seg : Nat) : Bool :=
  decide (segCount (c.streamLen 0 c.my c.my) ≤ seg) || c.isFinal 0 || (c.inFlight.contains seg && !c.tree) ||
  (List.range seg).all (fun x => (Assoc.find? c.results x).isSome) || decide (s.bufferUse (seg % 8) < bufferPlaces)

/-- Grant a rank up to 8 segments beyond those used, one after the other (R289, R294); the own contributions are read within grants too. -/
def State.grantRank (fuel : Nat) (s : State) (ref : CmdRef) (r : Nat) : State :=
  match fuel with
  | 0 => s
  | n + 1 =>
    match s.coll? ref with
    | none => s
    | some c =>
      let have_ := Assoc.get 0 c.grantsOut r
      if min (c.expected r) (c.usedOf r + 8) ≤ have_ ∨ !s.mayGrant c have_ then s
      else State.grantRank n (s.modColl ref (fun c => { c with grantsOut := Assoc.put c.grantsOut r (have_ + 1) })) ref r

/-- Grant each sender what it may send; a sender is told when it may send more. -/
def State.grantAll (s : State) (ref : CmdRef) : State :=
  match s.coll? ref with
  | none => s
  | some c =>
    if c.ended then s
    else c.ranks.foldl (fun (s : State) r =>
      let before := Assoc.get 0 c.grantsOut r
      let s := s.grantRank 8 ref r
      match s.coll? ref with
      | none => s
      | some x =>
        let now := Assoc.get 0 x.grantsOut r
        if r = c.my ∨ now ≤ before then s else s.sendColl x r 2 now 0 [] 0 0) s

/-- Has every stream been sent and used? -/
def Coll.complete (c : Coll) : Bool :=
  c.ranks.all (fun r => [0, 1, 3].all (fun k =>
    decide (Assoc.get 0 c.sent (streamKey r k) = segCount (c.streamLen k c.my r)) &&
    (List.range (segCount (c.streamLen k r c.my))).all (fun seg => c.used.contains (segKey r k seg))))

/-! ### The carousel (R299) -/

/-- Bytes of one round. -/
def Coll.roundBytes (c : Coll) : Nat := bits (cmdWord c.words 6) 31 16 * 2 ^ 20
/-- Bytes of the staging region, and where it starts. -/
def Coll.stageLen (c : Coll) : Nat := bits (cmdWord c.words 6) 15 0 * 2 ^ 20
/-- AUX_VA. -/
def Coll.stageVa (c : Coll) : Nat := cmdWord c.words 7

/-- Change the carousel of a collective. -/
def State.modCarousel (s : State) (ref : CmdRef) (f : Carousel → Carousel) : State :=
  s.modColl ref (fun c => { c with carousel := c.carousel.map f })

/-- Bytes that the table moves. -/
def Carousel.total (k : Carousel) : Nat := (k.table.map (·.len)).foldl (· + ·) 0
/-- Where this member's data of the present round end. -/
def Carousel.stop (k : Carousel) (round : Nat) : Nat := min k.total ((k.round + 1) * round)

/-- The entry and the offset in it of a byte of the table's moves. -/
def moveAt (l : List Move) (at_ : Nat) : Option (Move × Nat) :=
  match l with
  | [] => none
  | m :: t => if at_ < m.len then some (m, at_) else moveAt t (at_ - m.len)

/-- Data for the own region are staged (R299): the staging region takes them in a form that the manual does not give. -/
def State.stageData (s : State) (c : Coll) (k : Carousel) (off : Nat) (bs : List Byte) (status : Nat) : State × Bool :=
  if c.stageLen < k.stageBytes + bs.length then (s.endColl c.ref 11, true)
  else if c.dstLen < off + bs.length then (s.endColl c.ref 3, true)
  else
    let (s, fr) := s.freeTake bs.length
    match s.writeVa 0 c.ctx (c.stageVa + k.stageBytes) fr (.command c.ref) with
    | (s, .held) => (s, false)
    | (s, .fault) => (s.cmdFault c.ref 3 (c.stageVa + k.stageBytes), true)
    | (s, .ok _) =>
      (s.modCarousel c.ref (fun k => { k with stage := k.stage ++ [(off, bs, status)], stageBytes := k.stageBytes + bs.length }), true)

/-- How many bytes of a move go at once: to its end, to the end of the round, to the end of the destination's 4 KiB. -/
def moveSize (c : Coll) (k : Carousel) (m : Move) (i : Nat) : Nat :=
  min (min (m.len - i) (k.stop c.roundBytes - k.sent)) (4096 - (m.off + i) % 4096)

/-- Bytes of a move that have been read go to their member, or into the own staging area. -/
def State.placeMove (s : State) (c : Coll) (k : Carousel) (rank off n : Nat) (bytes : List Byte) (st : Nat) : State × Bool :=
  let done (s : State) : State := s.modCarousel c.ref (fun k => { k with sent := k.sent + n })
  if rank = c.my then
    let r := s.stageData c k off bytes st
    if r.2 then (done r.1, true) else (r.1, false)
  else (done (s.sendColl c rank 0 (off / 65536) (off / 4096 % 16) bytes st (off % 65536)), true)

/-- Send the next piece of the present round: at most 4 KiB of one entry, cut where a packet of the destination's segment ends. TAG holds
the byte offset in the segment (DESIGN CHOICE). -/
def State.sendMove (s : State) (c : Coll) (k : Carousel) : State × Bool :=
  match moveAt k.table k.sent with
  | none => (s, false)
  | some (m, i) =>
    let n := moveSize c k m i
    let r := s.readColl c (m.src + i) n
    match r.2 with
    | .held => (r.1, false)
    | .fault va => (r.1.cmdFault c.ref 3 va, false)
    | .malformed => (r.1, false)
    | .ok bytes st => r.1.placeMove c k m.rank (m.off + i) n bytes st

/-- Round-end packets of the present round that have come from a rank. -/
def Carousel.endsOf (k : Carousel) (r : Nat) : Nat := Assoc.get 0 k.ends (k.round * 4096 + r)

/-- Ranks but the own one. -/
def Coll.others (c : Coll) : List Nat := c.ranks.filter (fun r => r != c.my)

/-- End the present round: a round-end segment of 16 packets, one on each FLOW, goes to every other member, so that it follows the round's
data on every flow. SEG holds the round, and bit 30 when no data follow (DESIGN CHOICE). -/
def State.sendRoundEnd (s : State) (c : Coll) (k : Carousel) : State :=
  let last : Bool := decide (k.total ≤ (k.round + 1) * c.roundBytes)
  let seg := k.round % 2 ^ 30 + last.toNat * 2 ^ 30
  let s := s.modCarousel c.ref (fun k => { k with ended := true, last := if last then insertNat c.my k.last else k.last })
  c.others.foldl (fun s r => (List.range 16).foldl (fun s n => s.sendColl c r 2 seg n [] 0 0) s) s

/-- Grant a round to every other member: SEG has bit 31 set (DESIGN CHOICE). -/
def State.grantRound (s : State) (c : Coll) (round : Nat) : State :=
  c.others.foldl (fun s r => s.sendColl c r 2 (2 ^ 31 + round % 2 ^ 30) 0 [] 0 0) s

/-- Write the oldest staged data to the region, where they have their final value (R301); a region that the move table overlaps is undefined
(R292). -/
def State.unstage (s : State) (c : Coll) (k : Carousel) : State × Bool :=
  match k.stage with
  | [] => (s, false)
  | (off, bs, st) :: rest =>
    let (s, out) := if st ≠ 0 then s.freeTake bs.length else (s, bs)
    match s.putDst c off out with
    | (s, false) => (s, false)
    | (s, true) =>
      let s := s.modCarousel c.ref (fun k => { k with stage := rest, fails := if st ≠ 0 then k.fails ++ [(off, bs.length)] else k.fails })
      (s.modColl c.ref (fun c => c.use [] (if st = 0 then some (off, bs.length) else none) st), true)

/-- Insert a failed range, in rising order. -/
def insertRange (x : Nat × Nat) : List (Nat × Nat) → List (Nat × Nat)
  | [] => [x]
  | y :: t => if x.1 < y.1 then x :: y :: t else y :: insertRange x t

/-- The next step of a carousel at this member; `false`: it has to wait. -/
def State.turnCarousel (s : State) (ref : CmdRef) : State × Bool :=
  match s.coll? ref with
  | none => (s, false)
  | some c =>
    match c.carousel with
    | none => (s, false)
    | some k =>
      if c.ended then (s, false)
      else if !k.ended then
        if k.sent < k.stop c.roundBytes then
          if c.others.all (fun r => decide (k.round < Assoc.get 0 k.grants r)) then s.sendMove c k else (s, false)
        else (s.sendRoundEnd c k, true)
      else if c.others.any (fun r => decide (k.endsOf r < 16)) then (s, false)
      else if !k.stage.isEmpty then s.unstage c k
      else if c.ranks.all (fun r => k.last.contains r) then
        let fails := k.fails.foldl (fun l x => insertRange x l) []
        (s.closeColl c fails, false)
      else
        let s := s.modCarousel ref (fun k => { k with
            round := k.round + 1, ended := false, ends := k.ends.filter (fun e => decide (4096 * (k.round + 1) ≤ e.1)), stageBytes := 0 })
        (s.grantRound c (k.round + 1), true)

/-- Turn the carousel until it has to wait. -/
def State.spin (s : State) (ref : CmdRef) (fuel : Nat) : State :=
  match fuel with
  | 0 => s
  | n + 1 => match s.turnCarousel ref with
    | (s, true) => s.spin ref n
    | (s, false) => s

/-- Steps that a carousel's table takes at most. -/
def Carousel.steps (k : Carousel) : Nat := 2 * (k.total / 4096 + 2 * k.table.length) + 4 * (k.total / 2 ^ 20 + 4) + k.stage.length

/-- Read one entry of the move table; `none` is a refused field. -/
def readMove (b : List Byte) : Option Move :=
  let w (i : Nat) : Nat := leNat ((b.drop (8 * i)).take 8)
  if bits (w 0) 51 40 ≠ 0 ∨ 2 ^ 57 ≤ w 1 ∨ 2 ^ 32 ≤ w 2 ∨ w 3 ≠ 0 then none
  else some ⟨bits (w 0) 63 52, bits (w 0) 39 0, w 1, w 2⟩

/-- Read the member's move table (R299); a move beyond the receiver's region fails with BOUNDS, at the sender (DESIGN CHOICE). -/
def State.loadTable (s : State) (ref : CmdRef) (c : Coll) : State :=
  let who : Asker := .coll ref 2
  match s.scanPeek who c.ctx c.src 32 with
  | (s, .held, _) => s
  | (s, .fault va, _) => s.cmdFault ref 3 va
  | (s, .ok head bad0, _) =>
    let n := leNat (head.take 4)
    match s.scanVa who c.ctx c.src (32 + 32 * n) with
    | (s, .held) => s
    | (s, .fault va) => s.cmdFault ref 3 va
    | (s, .ok bytes bad) =>
      let moves := (chunks 32 n (bytes.drop 32)).map readMove
      let l : List Move := moves.filterMap id
      if !bad.isEmpty || !bad0.isEmpty then s.endColl ref 5
      else if (head.drop 4).any (fun b => b != 0) || moves.any Option.isNone || l.any (fun m => decide (c.size ≤ m.rank)) then s.endColl ref 10
      else if l.any (fun m => decide (c.dstLen < m.off + m.len)) then s.endColl ref 3
      else
        let k : Carousel := { table := l, grants := [] }
        (s.modColl ref (fun c => { c with carousel := some k })).grantRound c 0

/-! ### Ending (R301, R302) -/

/-- The next range that an early end makes indeterminate: at most 64 KiB of the destination without its final value. -/
def Coll.nextWipe? (c : Coll) : Option (Nat × Nat) :=
  (gapsOf (c.final.foldl Runs.add c.wiped) c.dstLen).head?.map (fun g => (g.1, min g.2 65536))

/-- Destination bytes without their final value are indeterminate after an early end (R301): free values. A norm writes NaN and NF 1 and
sets the skip state (R255). `false`: nothing more can be done now. -/
def State.wipe (s : State) (c : Coll) : State × Bool :=
  match c.nextWipe? with
  | none => (s.closeColl c (gapsOf c.final c.dstLen), false)
  | some (off, n) =>
    let (s, fr) := s.freeTake (if c.op = 5 then 16 else n)
    let bytes := if c.op = 5 then normBlock (leNat fr) (canonicalNan 1) 1 (s.stepNumber c.ctx) else fr
    let s := if c.op = 5 then s.modCtx c.ctx (fun x => { x with skip := true }) else s
    match s.writeVa 0 c.ctx (c.dst + off) bytes (.command c.ref) with
    | (s, .held) => (s, false)
    | (s, _) => (s.modColl c.ref (fun c => { c with wiped := Runs.add c.wiped (off, n) }), true)

/-- Finish a collective that has ended early. -/
def State.wipeAll (s : State) (ref : CmdRef) (fuel : Nat) : State :=
  match fuel with
  | 0 => s
  | n + 1 =>
    match (s.coll? ref).filter (·.ended) with
    | none => s
    | some c => match s.wipe c with
      | (s, true) => s.wipeAll ref n
      | (s, false) => s

/-- A collective goes on as far as it can. -/
def State.pumpOne (s : State) (ref : CmdRef) : State :=
  match s.coll? ref with
  | none => s
  | some c =>
    if c.op = 6 then
      let s := if c.carousel.isNone && !c.ended then s.loadTable ref c else s
      match (s.coll? ref).bind (·.carousel) with
      | some k => s.spin ref k.steps
      | none => s
    else
      let pass (s : State) : State := ((s.grantAll ref).sendAll ref).useAll ref
      let s := (pass (pass (pass s))).grantAll ref
      match s.coll? ref with
      | some c => if !c.ended && c.complete then s.closeColl c (gapsOf c.final c.dstLen) else s
      | none => s

/-- A collective goes on as far as it can, and ends when it is over. -/
def State.pump (s : State) (ref : CmdRef) : State :=
  let s := s.pumpOne ref
  match s.coll? ref with
  | some c => s.wipeAll ref (c.dstLen / 65536 + c.final.length + c.wiped.length + 3)
  | none => s

/-! ### COLL_SEG (R273, R294, R295, R299) -/

/-- Fields of a COLL_SEG: COLL_SEQ, SRC_RANK, KIND, SEG. -/
def segFields (p : Packet) : Nat × Nat × Nat × Nat :=
  let a := p.addr.toNat
  (bits a 63 48, bits a 47 36, bits a 35 34, bits a 31 0)

/-- The collective that a COLL_SEG belongs to: by group key, COLL_SEQ and the device at SRC_RANK. -/
def State.collOf? (s : State) (p : Packet) : Option Coll :=
  let (seq, rank, _, _) := segFields p
  s.net.colls.find? (fun c => c.key == p.sel.toNat && c.seq == seq && c.members[rank]? == some (p.srcId.val, p.srcDom) && rank != c.my)

/-- A carousel packet: data, a grant of a round, or a part of a round-end segment. -/
def State.carouselIn (s : State) (c : Coll) (p : Packet) : State × Bool :=
  let (_, rank, kind, seg) := segFields p
  match c.carousel with
  | none => if kind = 2 then (s, false) else (s, true)
  | some k =>
    if kind = 0 then s.stageData c k (seg * 65536 + p.tag.toNat) p.payload p.status.toNat
    else if kind = 2 then
      if bitN seg 31 then (s.modCarousel c.ref (fun k => { k with grants := Assoc.put k.grants rank (bits seg 29 0 + 1) }), true)
      else (s.modCarousel c.ref (fun k => { k with
          ends := Assoc.put k.ends (bits seg 29 0 * 4096 + rank) (Assoc.get 0 k.ends (bits seg 29 0 * 4096 + rank) + 1)
          last := if bitN seg 30 then insertNat rank k.last else k.last }), true)
    else (s, true)

/-- A COLL_SEG of a collective in progress is handled (R294 to R296, R299, R300); `false`: it has to wait. -/
def State.segIn (s : State) (c : Coll) (p : Packet) : State × Bool :=
  let (_, rank, kind, seg) := segFields p
  if c.ended then (s, true)
  else if p.aux ≠ c.auxWord then (s.endColl c.ref 10, true)
  else if c.op = 6 then s.carouselIn c p
  else if kind = 2 then (s.modColl c.ref (fun c => { c with grantsIn := Assoc.put c.grantsIn rank (max seg (Assoc.get 0 c.grantsIn rank)) }), true)
  else if seg < segCount (c.streamLen kind rank c.my) then
    (s.modColl c.ref (fun c => c.receive rank kind seg p.flow.toNat p.payload p.status.toNat), true)
  else (s, true)

/-- Has a collective of a group not started yet here? Numbers run modulo 65,536 (R295). -/
def State.notStarted (s : State) (key seq : Nat) : Bool :=
  decide ((seq + 65536 - Assoc.get 0 s.net.collSeq key) % 65536 < 32768)

/-- The COLL_SEG that is next is handled: grants and round ends of a collective that has not started are kept for it (R307); what belongs to
one that has ended is discarded (R302). -/
def State.takeSeg (s : State) (p : Packet) : State :=
  match s.collOf? p with
  | none =>
    let (seq, _, kind, _) := segFields p
    let s := s.takePacket p
    if kind = 2 && s.notStarted p.sel.toNat seq then s.modNet (fun n => { n with early := n.early ++ [p] }) else s
  | some c =>
    match s.segIn c p with
    | (s, true) => (s.takePacket p).pump c.ref
    | (s, false) => s.pump c.ref

/-- COLL_SEG (R294). -/
def execCollSeg (s : State) : Host.Outcome State Fault Refusal :=
  .next (match s.net.nextOf? 7 (fun _ => true) with | some p => s.takeSeg p | none => s)

/-! ### Starting (R289 to R295) -/

/-- What the group descriptor says (R290). -/
inductive GroupGot where
  | ok (key my : Nat) (members : List (Nat × Bool))
  | fault (va : Nat)
  | held
  | malformed
  | integrity
deriving DecidableEq, Repr

/-- Are the entries of a list pairwise different? -/
def distinctMembers (l : List (Nat × Bool)) : Bool :=
  match l with
  | [] => true
  | x :: t => !t.contains x && distinctMembers t

/-- Read and check the group descriptor and its member entries (R290). -/
def State.readGroup (s : State) (ref : CmdRef) (ctx va : Nat) : State × GroupGot :=
  let who : Asker := .cmd ref
  match s.scanPeek who ctx va 16 with
  | (s, .held, _) => (s, .held)
  | (s, .fault a, _) => (s, .fault a)
  | (s, .ok head bad0, _) =>
    let w0 := leNat (head.take 8)
    let size := bits w0 44 32
    let my := bits w0 27 16
    match s.scanVa who ctx va (16 + 4 * size) with
    | (s, .held) => (s, .held)
    | (s, .fault a) => (s, .fault a)
    | (s, .ok bytes bad) =>
      let ents := (chunks 4 size (bytes.drop 16)).map leNat
      let members := ents.map (fun e => (bits e 11 0, bitN e 12))
      if !bad.isEmpty || !bad0.isEmpty then (s, .integrity)
      else if leNat (head.drop 8) ≠ 0 ∨ bits w0 47 45 ≠ 0 ∨ bits w0 31 28 ≠ 0 ∨ bits w0 15 0 ≠ 0 ∨ size = 0 ∨ 4096 < size ∨ size ≤ my then
        (s, .malformed)
      else if ents.any (fun e => bits e 31 13 != 0) || !distinctMembers members || members[my]? != some (s.net.ownId, s.net.ownDom) then
        (s, .malformed)
      else (s, .ok (bits w0 63 48) my members)

/-- Why the group does not fit the operation, 0 when it does. A digest compare joins the two partners of a pair (R300); a member of the other
domain is allowed for no other operation, whose segments for it fail at their origin with DOMAIN (R290, R305, DEDUCED); ROOT is a rank
(DEDUCED). -/
def State.groupCause (s : State) (c : Coll) : Nat :=
  if c.op = 7 then (if c.size == 2 && c.members.all (fun m => m.1 == s.net.ownId) then 0 else 10)
  else if c.members.any (fun m => m.2 != s.net.ownDom) then 9
  else if c.op = 4 ∧ c.size ≤ c.root then 10
  else 0

/-- Is a member excluded (R278)? -/
def State.excludes (s : State) (c : Coll) : Bool := c.members.any (fun m => m.2 == s.net.ownDom && s.isExcluded m.1)

/-- A collective takes its COLL_SEQ (R295). -/
def State.takeSeq (s : State) (c : Coll) : State :=
  s.modNet (fun n => { n with collSeq := Assoc.put n.collSeq c.key ((c.seq + 1) % 65536) })

/-- A collective takes its COLL_SEQ and starts: the grants that came early are its own now. -/
def State.openColl (s : State) (ref : CmdRef) (c : Coll) : State :=
  let s := (s.takeSeq c).modCmd ref (fun m => { m with st := .running })
  let s := s.modNet (fun n => { n with colls := n.colls ++ [c] })
  let mine (p : Packet) : Bool := p.sel.toNat == c.key && (segFields p).1 == c.seq
  let early := s.net.early.filter mine
  let s := s.modNet (fun n => { n with early := n.early.filter (fun p => !mine p), delivered := early ++ n.delivered })
  (if s.excludes c then s.endColl ref 1 else s).pump ref

/-- A collective starts when fewer than 16 run and no collective accepted before it still waits (R289), or goes on. -/
def State.collective (s : State) (ref : CmdRef) (cmd : Cmd) : State :=
  if cmd.st = .running then s.pump ref
  else if cmd.cause ≠ 0 then s.collMalformed ref (cmd.ctx.getD 0) cmd.words cmd.cause id
  else
    let waits : Bool := s.hub.cmds.any (fun x => cmdOp x.2.words == 3 && x.2.st == .accepted && decide (x.2.order < cmd.order))
    if waits ∨ 16 ≤ s.net.colls.length then s
    else
      let ctx := cmd.ctx.getD 0
      match s.readGroup ref ctx (cmdWord cmd.words 4) with
      | (s, .held) => s
      | (s, .fault va) => s.cmdFault ref 3 va
      | (s, .malformed) => s.collMalformed ref ctx cmd.words 10 id
      | (s, .integrity) => s.collMalformed ref ctx cmd.words 5 id
      | (s, .ok key my members) =>
        let c : Coll := { ref, ctx, words := cmd.words, key, members, my, seq := Assoc.get 0 s.net.collSeq key }
        let bad := s.groupCause c
        if bad ≠ 0 then s.collMalformed ref ctx cmd.words bad (fun s => s.takeSeq c) else s.openColl ref c

/-- The commands of one collective operation. -/
def isColl (op : Nat) (w : List W64) : Bool := bits (cmdWord w 3) 31 28 == op

/-- Run a collective's row. -/
def State.collRow (s : State) (ref : CmdRef) (op : Nat) : State := s.runCmdOn ref 3 (isColl op) (s.collective ref)

/-- ALL_REDUCE (R294). -/
def execAllReduce (ref : CmdRef) (s : State) : Host.Outcome State Fault Refusal := .next (s.collRow ref 0)
/-- REDUCE_SCATTER (R294). -/
def execReduceScatter (ref : CmdRef) (s : State) : Host.Outcome State Fault Refusal := .next (s.collRow ref 1)
/-- ALL_GATHER (R292). -/
def execAllGather (ref : CmdRef) (s : State) : Host.Outcome State Fault Refusal := .next (s.collRow ref 2)
/-- ALL_TO_ALL (R292). -/
def execAllToAll (ref : CmdRef) (s : State) : Host.Outcome State Fault Refusal := .next (s.collRow ref 3)
/-- BROADCAST (R292). -/
def execBroadcast (ref : CmdRef) (s : State) : Host.Outcome State Fault Refusal := .next (s.collRow ref 4)
/-- FUSED_NORM (R255). -/
def execFusedNorm (ref : CmdRef) (s : State) : Host.Outcome State Fault Refusal := .next (s.collRow ref 5)
/-- CAROUSEL (R299). -/
def execCarousel (ref : CmdRef) (s : State) : Host.Outcome State Fault Refusal := .next (s.collRow ref 6)
/-- DIGEST_COMPARE (R300). -/
def execDigestCompare (ref : CmdRef) (s : State) : Host.Outcome State Fault Refusal := .next (s.collRow ref 7)

/-! ### PROGRESS_TIMEOUT (R302) -/

/-- Does the collective still need something from a rank? -/
def Coll.needs (c : Coll) (r : Nat) : Bool :=
  if r = c.my ∨ c.size ≤ r then false
  else if c.op = 6 then
    match c.carousel with
    | some k => decide (k.endsOf r < 16) || decide (Assoc.get 0 k.grants r ≤ k.round)
    | none => false
  else
    [0, 1, 3].any (fun k =>
      (List.range (segCount (c.streamLen k r c.my))).any (fun seg => !c.used.contains (segKey r k seg) && !c.whole r k seg) ||
      decide (Assoc.get 0 c.sent (streamKey r k) < segCount (c.streamLen k c.my r)))

/-- A member from which something is needed has sent nothing for the progress timeout: PARTIAL with UNREACHABLE; a replay that waits for the
rank diverges (R302, R381). -/
def State.progressTimeout (s : State) (ref : CmdRef) (rank : Nat) : State :=
  match (s.coll? ref).filter (fun c => !c.ended && c.needs rank) with
  | none => s
  | some c =>
    let key := s.stepKey c.ctx ref
    let listed : Bool := match s.replay? key with
      | some r => r.colls.any (fun j => j.key == c.key && j.ranks.contains rank)
      | none => false
    let s := if listed then s.diverge key 2 else s
    (s.endColl ref 1).pump ref

/-- PROGRESS_TIMEOUT (R302). -/
def execProgressTimeout (ref : CmdRef) (rank : Nat) (s : State) : Host.Outcome State Fault Refusal := .next (s.progressTimeout ref rank)

end Sys2Proof.Machine
end

