-- ==== Sys2Proof/Machine/DictRead.lean ====
section
/-!
DEFINITION. What a READ of each dictionary entry returns (R369, R403, R416, R436 to R439, R458, R474).
-/

namespace Sys2Proof.Machine

/-- The device's 12-character serial number (R436). -/
def serialBytes : List Byte := (List.range 12).map Config.serialByte

/-- The MAC address (R418). -/
def macBytes : List Byte := (List.range 6).map Config.macByte

/-- 1 for true. -/
def num (b : Bool) : Nat := if b then 1 else 0

/-! ### Derived values -/

/-- READY_UNITS (R458). -/
def State.readyUnits (s : State) : Nat :=
  let b := s.boot
  let tents := (List.range 8).map (fun t => num (b.state == 2 && !(s.island t).fenced && (s.island t).measured.isSome) * 2 ^ (8 + t))
  num b.cfgSpace + 2 * num b.mailbox + 4 * num b.queues + 8 * num b.memory + 16 * num b.links + tents.foldl (· + ·) 0 +
    num b.identity.isSome * 2 ^ 16 + num b.identity.isSome * 2 ^ 17

/-- D of a format row of R397 in watt. -/
def tableD (row : Nat) : Rat := match row with | 0 => 215 | 1 => 150 | 2 => 260 | 3 => 300 | 4 => 190 | 5 => 125 | _ => 140

/-- D of a tent for a format row (R397): the learned one, of a phase that the manual does not name, where there is one; else the table's,
scaled by the square of the target. -/
def State.sustainD (s : State) (t row : Nat) : Rat :=
  let learned := Assoc.get 0 s.yard.learned (t * 5 + (Config.sustainPhase t row).val)
  let mv : Rat := ((s.island t).goal : Rat)
  if learned ≠ 0 then learned else tableD row * (mv / 800) * (mv / 800)

/-- The issue slots of 64 that a tent holds at a budget of 200 W with static power `p` and dynamic power `d` at full issue (R397). -/
def slotsAt (p d : Rat) : Nat :=
  let fits (l : Nat) : Bool := decide (p + d * ((64 - l : Nat) : Rat) / 64 ≤ 200)
  64 - ((List.range 57).find? fits).getD 56

/-- SUSTAIN (R397): the issue slots of 64 at the reference load with the present target. -/
def State.sustain (s : State) (t row : Nat) : Nat := slotsAt (s.pStatic t) (s.sustainD t row)

/-- Remaining margin of R414 in mV. -/
def State.remaining (s : State) (t : Nat) : Int := 900 - (((s.island t).vTest + 25 + mAge (s.island t).margin : Nat) : Int)

/-- Drain times of R369 in seconds. -/
def drainSeconds (n : Nat) : Rat := (n : Rat) / 100000

/-- CHAN_STATE and CHAN_FAIL_STEP (R237). -/
def trainCode (t : TrainSt) : Nat × Nat :=
  match t with | .untrained => (0, 0) | .training _ => (1, 0) | .trained => (2, 0) | .failed n => (3, n)

/-- LINK_STATE (R438). -/
def linkCode (st : LinkSt) : Nat := match st with | .down => 0 | .training _ => 1 | .up => 2 | .failed => 3

/-- ISLAND (R416). -/
def Island.code (i : Island) : Nat := if i.fenced then 3 else match i.st with | .active => 0 | .stopped => 1 | .gated => 2

/-! ### Counters of channels, tents and links -/

/-- A counter of a channel (R437). -/
def Chan.counter (c : Chan) (sub : Nat) : Option Nat :=
  let k := c.counters
  match sub with
  | 1 => some k.grainsRead.toNat | 2 => some k.grainsWritten.toNat | 3 => some k.openRow.toNat | 4 => some k.closedRow.toNat
  | 5 => some k.otherRow.toNat | 6 => some k.erasuresMarked.toNat | 7 => some k.erasuresRefused.toNat | 8 => some k.badData.toNat
  | 9 => some k.badTag.toNat | 0x0A => some k.badHeader.toNat | 0x0B => some k.tagMismatch.toNat | 0x0C => some k.headerMismatch.toNat
  | 0x0D => some k.foreignReads.toNat | 0x0E => some k.takeovers.toNat | 0x0F => some k.refreshBlocked.toNat
  | 0x10 => some k.throttled.toNat | 0x11 => some k.bankAtCap.toNat | 0x12 => some k.banksAtCapPeak | 0x13 => some k.missCapEvents.toNat
  | _ =>
    if 0x40 ≤ sub ∧ sub < 0x80 then some (Assoc.get 0 k.sparesUsed (sub - 0x40))
    else if 0x80 ≤ sub ∧ sub < 0xA8 then some (Assoc.get 0 k.corrected (sub - 0x80))
    else if 0xB0 ≤ sub then some (Assoc.get 0 k.storedForm (sub - 0xB0))
    else none

/-- A counter of a tent (R437). -/
def TentCounters.counter (k : TentCounters) (sub : Nat) : Option Nat :=
  match sub with
  | 1 => some k.overflowFull.toNat | 2 => some k.merged.toNat | 3 => some k.bypass.toNat | 4 => some k.deadDrops.toNat | 5 => some k.deadReads.toNat | 6 => some k.folds.toNat
  | 7 => some k.pairSplits.toNat | 8 => some k.refusedSends.toNat | 9 => some k.poisonedFolds.toNat
  | _ => none

/-- A counter of a link (R438). -/
def LinkCounters.counter (k : LinkCounters) (sub : Nat) : Option Nat :=
  if sub ≤ 3 then some (Assoc.get 0 k.sent (sub - 1))
  else if sub ≤ 6 then some (Assoc.get 0 k.received (sub - 4))
  else match sub with
    | 7 => some k.fecCorrected.toNat | 8 => some k.uncorrectable.toNat | 9 => some k.crcErrors.toNat | 0x0A => some k.retries.toNat
    | 0x0B => some k.retrains.toNat | 0x0C => some k.trainFailures.toNat
    | _ =>
      if 0x0D ≤ sub ∧ sub ≤ 0x10 then some (Assoc.get 0 k.noCredit (sub - 0x0D))
      else if 0x11 ≤ sub ∧ sub ≤ 0x14 then some (Assoc.get 0 k.bytesSent (sub - 0x11))
      else if 0x15 ≤ sub then some (Assoc.get 0 k.bytesReceived (sub - 0x15))
      else none

/-- A counter of the device (R438). -/
def NetCounters.counter (k : NetCounters) (sub : Nat) : Nat :=
  match sub with
  | 1 => k.malformed.toNat | 2 => k.excluded.toNat | 3 => k.undeliverable.toNat | 4 => k.hopsOut.toNat | 5 => k.late.toNat | 6 => k.collsDone.toNat
  | _ => if sub < 0x40 then Assoc.get 0 k.failedBy (sub - 0x20) else Assoc.get 0 k.collsPartial (sub - 0x40)

/-! ### Numbers -/

/-- Entries of the identity, save, network and start-up areas (R436, R458). -/
def State.readIdentity (s : State) (ix sub : Nat) : Option Nat :=
  match ix, sub with
  | 0x1000, 5 => some s.boot.fwVersion.toNat | 0x1000, 6 => some Config.romVersion.toNat | 0x1000, 7 => some 0x0100
  | 0x1010, 2 => some (num (s.dict.unsaved || (Assoc.find? s.nvSaving 3).isSome)) | 0x1010, 3 => some s.dict.saves.toNat
  | 0x1100, 8 => some (if s.dict.duplicate then 2 else num s.dict.netLink) | 0x1100, 9 => some s.dict.netDrops.toNat
  | 0x1200, 1 => some s.boot.state | 0x1200, 2 => some s.boot.error.toNat | 0x1200, 3 => some s.readyUnits | 0x1200, 4 => some s.boot.fwBank
  | 0x1200, 5 => some (num s.boot.fwPending) | 0x1200, 6 => some s.boot.railFault.toNat
  | _, _ =>
    let n := ix - 0x1020
    let x := s.nvSet n
    match sub with
    | 1 => (x.valid? n 0).map (fun b => b.seq.toNat)
    | 2 => (x.valid? n 1).map (fun b => b.seq.toNat)
    | _ => some (num (x.valid? n 0).isSome + 2 * num (x.valid? n 1).isSome + 4 * ((x.chosenBank? n).getD 0) + 8 * num (x.chosenBank? n).isNone)

/-- Entries of the power, clock, sleep, ageing, input and thermal areas (R416, R474). -/
def State.readPower (s : State) (ix sub : Nat) : Option Nat :=
  let y := s.yard
  let t := sub - 1
  match ix with
  | 0x2000 => some (match sub with | 1 => y.capW.toNat | 4 => realTo y.effective | _ => num y.unattainable)
  | 0x2002 => some (if sub = 1 then realTo (ratSum y.power) else realTo y.power1s)
  | 0x2003 => some (s.levelInForce t)
  | 0x2004 => some (Assoc.get 0 y.droops (sub - 2))
  | 0x2005 => some (realTo (Assoc.get 0 y.learned t))
  | 0x2007 => some (s.sustain (t / 7) (t % 7))
  | 0x2200 => some (if sub = 1 then min (microJoules y.energy) (2 ^ 64 - 1) else num s.meterOk)
  | 0x2300 => some (if sub = 4 then y.elogTail.toNat else y.elogLost.toNat)
  | 0x3000 => some (match sub with | 3 => s.clocks.active | 4 => s.clocks.fallbacks.toNat | _ => num s.clocks.refLost)
  | 0x3101 => some (s.island t).code
  | 0x3102 => some (s.island t).wakes.toNat
  | 0x3200 => some (s.tent t).cycles.toNat
  | 0x8000 => some (s.island t).goal
  | 0x8001 => some (wrapInt 32 (s.remaining t))
  | 0x8002 => some (ageState (s.island t).margin)
  | 0x8003 => some (roDrift (s.island t).margin)
  | 0x8004 => some (slackPs (s.island t).margin)
  | 0xA000 =>
    let i := s.inputs
    let p := [i.sysReset, i.perst, i.brake, i.alert]
    some (match sub with
      | 1 => num (!i.brake.filtered) | 2 => num (!i.alert.filtered) | 3 => i.brakeEvents.toNat
      | 4 => num (!i.sysReset.filtered) + 2 * num (!i.perst.filtered) + 4 * num (!i.brake.filtered) + 8 * num (!i.alert.filtered)
      | _ => ((p[sub - 5]?).map (fun f => f.rejects.toNat)).getD 0)
  | 0xA001 => some (realTo ((y.junction.getD (sub - 2) 0 : Rat) / 1000))
  | 0xA002 => some (match sub with
      | 1 => num s.trip.latched | 2 => s.trip.sensor | 3 => realTo ((s.trip.milliC : Rat) / 1000) | _ => 0x42FA0000)
  | _ => none

/-- Entries of the memory, link and route areas (R437, R438). -/
def State.readNet (s : State) (ix sub : Nat) : Option Nat :=
  let n := s.net
  if ix < 0x4200 then
    let c := s.chan (sub - 1)
    some (match ix with
      | 0x4000 => (trainCode c.train).1
      | 0x4001 => (trainCode c.train).2
      | 0x4002 => leNat ((List.range 4).map (fun k => BitVec.ofNat 8 (Assoc.get 0xFF c.erasures k)))
      | _ => c.noSpare.foldl (fun a b => a + 2 ^ b) 0)
  else if ix < 0x4300 then (s.chan (ix - 0x4200)).counter sub
  else if ix < 0x5000 then (s.tent (ix - 0x4300)).counters.counter sub
  else if ix = 0x5000 then some (match sub with | 3 => n.ownId | 4 => num n.ownDom | _ => n.echoResult.toNat)
  else if ix < 0x5200 then some (Assoc.get 0 n.routes ((ix - 0x5100) * 128 + (sub - 1))).toNat
  else if ix = 0x5200 then some n.excluded.length
  else if ix < 0x5400 then (Assoc.get {} n.links (ix - 0x5300)).counters.counter sub
  else if ix = 0x5400 then some (n.counters.counter sub)
  else if ix < 0x5500 then some (Assoc.get 0 (if sub = 1 then n.counters.segsReduced else n.counters.orderedWait) (ix - 0x5410))
  else
    let k := Assoc.get {} n.links (ix - 0x5500)
    match sub with
    | 1 => some (linkCode k.st)
    | 2 => k.peer.map (fun p => p.1)
    | 3 => k.peer.map (fun p => num p.2.1)
    | 4 => k.peer.map (fun p => p.2.2)
    | 5 => some (num k.swapped)
    | 6 => some k.polarity.toNat
    | _ => some (num k.crossDomain)

/-- Entries of the context, security and resilience areas (R369, R403, R439, R458). -/
def State.readHub (s : State) (ix sub : Nat) : Option Nat :=
  let sat (n : Nat) : Nat := min n (2 ^ 64 - 1)
  let rate (l : List Nat) : Option Nat := some (realTo ((l.foldl (· + ·) 0 : Nat) / 24))
  if ix < 0x6400 then some ((s.queryWords (ix - 0x6000)).getD (sub - 1) 0).toNat
  else if ix < 0x6800 then
    let e := Assoc.get {} s.yard.totals (ix - 0x6400)
    some (sat (match sub with | 1 => microJoules e.excl | 2 => microJoules e.shared | 3 => e.exclPeriods | _ => e.sharedPeriods))
  else if ix < 0x6C00 then some (num (Assoc.find? s.dict.tenantKeys (ix - 0x6800)).isSome)
  else match ix, sub with
    | 0x6C00, _ => some s.hub.ctxs.length
    | 0x7000, 2 => some (num (s.boot.identity.bind (fun i => i.operatorKey)).isSome)
    | 0x7000, 3 => some (s.dict.sessions.filter (fun p => p.2.opened)).length
    | 0x7000, 4 => some s.dict.authFailures.toNat
    | 0x7001, _ => some (s.hub.keySlots.filter (fun k => k.2.st == .retired)).length
    | 0x7101, 0x0A => some (s.boot.log.length + s.boot.refusedExt * 2 ^ 16)
    | 0x7200, 4 => some s.boot.updateResult
    | 0x7200, 5 => s.boot.manifest.map manifestVersionOf
    | 0x7200, 6 => s.boot.manifest.map rootIndexOf
    | 0x9000, 1 => rate s.resil.corr | 0x9000, 2 => rate s.resil.retrain | 0x9000, 3 => rate s.resil.loss
    | 0x9000, _ => some s.resil.fatalCount.toNat
    | 0x9001, 1 => some (realTo (drainSeconds (s.resil.drains.headD 0)))
    | 0x9001, 2 => some (realTo (drainSeconds (maxZ s.resil.drains)))
    | 0x9001, _ =>
      let x := 2 * drainSeconds (maxZ s.resil.drains) * realOf (s.dictVal 0x9001 3 0)
      if x < 0 then none else some (realSqrt x)
    | 0x9002, 1 => some (((s.hub.journal.head?).map (fun j => j.step.toNat)).getD 0)
    | 0x9002, 2 => some ((((s.hub.journal.filter (fun j => j.complete)).getLast?).map (fun j => j.step.toNat)).getD 0)
    | 0x9002, 3 => some (journalBlocks - stepBlocks s.hub.journal)
    | 0x9002, _ => some s.hub.replayStatus.toNat
    | 0x9003, 1 => some s.resil.fatalCause.toNat
    | 0x9003, _ => some s.resil.fatalDetail.toNat
    | _, _ => none

/-- A number-valued entry; `none` where the manual states no value. -/
def State.readNum (s : State) (ix sub : Nat) (e : DictEntry) : Option Nat :=
  if sub = 0 then some (dictHighest ix)
  else if e.access = .rw ∧ !(ix = 0x2000 ∧ sub = 1) ∧ !(0x5100 ≤ ix ∧ ix ≤ 0x511F) then some (s.dictVal ix sub (dictDefault ix sub))
  else if ix < 0x2000 then s.readIdentity ix sub
  else if ix < 0x4000 ∨ (0x8000 ≤ ix ∧ ix < 0x9000) ∨ 0xA000 ≤ ix then s.readPower ix sub
  else if ix < 0x6000 then s.readNet ix sub
  else s.readHub ix sub

/-! ### Strings and DOMAINs -/

/-- EXCLUDE_MASK (R438). -/
def State.excludeMask (s : State) : List Byte :=
  (List.range 512).map (fun i => BitVec.ofNat 8 ((List.range 8).foldl (fun a b => a + num (s.isExcluded (8 * i + b)) * 2 ^ b) 0))

/-- A string or DOMAIN entry; `none` fails with STATE: there is no identity, or no quote has been formed (R455, R457). -/
def State.readBytes (s : State) (ix sub : Nat) : Option (List Byte) :=
  match ix, sub with
  | 0x1000, 1 => some (ascii "Nerjo")
  | 0x1000, 2 => some (ascii "EZ4832")
  | 0x1000, 3 => some (ascii "A")
  | 0x1000, _ => some serialBytes
  | 0x1100, _ => some macBytes
  | 0x5200, _ => some s.excludeMask
  | 0x7100, 1 => s.boot.identity.map (fun i => i.pub)
  | 0x7100, 2 => s.boot.identity.map (fun i => i.cert)
  | 0x7100, _ => s.boot.identity.map (fun i => i.chain)
  | 0x7101, n => some (s.boot.mr.getD (n - 1) (List.replicate 32 0#8))
  | 0x7102, 2 => s.boot.quote
  | 0x7102, _ => some (s.boot.log.flatMap id)
  | _, _ => none

/-! ### Counters of clock cycles (R190, R238, R306, R405) -/

/-- f-cycles and l-cycles of a control period of 10 µs, by the root's divisions (R404). -/
def fCycles : Nat := 16500
/-- l-cycles of a control period. -/
def lCycles : Nat := 11000

/-- A count of cycles of which `all` have passed: the model does not count them one by one, and the count has grown by a free amount. -/
def grown (old all : Nat) (v : W64) : Nat := old + v.toNat % (all - old + 1)

/-- An f-cycle counter that has run for `n` whole periods and a part of one: what it shows lies in that part, and is no less than before. -/
def cycleCount (old : W64) (n : Nat) (v : W64) : W64 :=
  let low := max old.toNat (n * fCycles)
  BitVec.ofNat 64 (grown low (n * fCycles + (fCycles - 1)) v)

/-- The cycle counter that an entry shows moves on to the moment of the read (R405, R437, R438). -/
def State.countCycles (s : State) (ix sub : Nat) : State :=
  let (s', v) := s.freeW64
  let all (c : Nat) : Nat := (s.periods + 1) * c
  let up (w : W64) : W64 := BitVec.ofNat 64 (grown w.toNat (all fCycles) v)
  if ix = 0x3200 then s'.modTent (sub - 1) (fun t => { t with cycles := cycleCount t.cycles (s.periods - t.cyclesFrom) v })
  else if 0x4200 ≤ ix ∧ ix ≤ 0x421F then
    match sub with
    | 0x0F => s'.modChanCounters (ix - 0x4200) (fun k => { k with refreshBlocked := up k.refreshBlocked })
    | 0x10 => s'.modChanCounters (ix - 0x4200) (fun k => { k with throttled := up k.throttled })
    | 0x11 => s'.modChanCounters (ix - 0x4200) (fun k => { k with bankAtCap := up k.bankAtCap })
    | _ => s
  else if 0x4300 ≤ ix ∧ ix ≤ 0x4307 ∧ sub = 1 then s'.modTentCounters (ix - 0x4300) (fun k => { k with overflowFull := up k.overflowFull })
  else if 0x5300 ≤ ix ∧ ix ≤ 0x532F ∧ 0x0D ≤ sub ∧ sub ≤ 0x10 then
    s'.modLink (ix - 0x5300) (fun k => k.count (fun c =>
      { c with noCredit := Assoc.put c.noCredit (sub - 0x0D) (grown (Assoc.get 0 c.noCredit (sub - 0x0D)) (all lCycles) v) }))
  else if 0x5410 ≤ ix ∧ ix ≤ 0x5417 ∧ sub = 2 then
    s'.modNet (fun n => { n with counters := { n.counters with
      orderedWait := Assoc.put n.counters.orderedWait (ix - 0x5410) (grown (Assoc.get 0 n.counters.orderedWait (ix - 0x5410)) (all lCycles) v) } })
  else s

/-- The value of an entry as bytes; a number without a stated value is free. A read of the peak of banks at cap restarts it (R190, R437):
from the number at cap now. -/
def State.readValue (s : State) (ix sub : Nat) (e : DictEntry) : State × Option (List Byte) :=
  match typeSize e.dtype with
  | none => (s, s.readBytes ix sub)
  | some n =>
    let s := s.countCycles ix sub
    match s.readNum ix sub e with
    | some v =>
      let s := if 0x4200 ≤ ix ∧ ix ≤ 0x421F ∧ sub = 0x12 then
          s.modChanCounters (ix - 0x4200) (fun k => { k with banksAtCapPeak := (s.tent ((ix - 0x4200) / 4)).capped (ix - 0x4200) })
        else s
      (s, some (leBytes n v))
    | none =>
      let (s, v) := s.freeW64
      (s, some (leBytes n v.toNat))

end Sys2Proof.Machine
end

