-- ==== Sys2Proof/Machine/Dictionary.lean ====
section
/-!
DEFINITION. The object dictionary on the field network and the CXL mailbox: messages, sessions, classes, reads, writes, and the entries
with a behaviour of their own (R418 to R431, R437 to R440, R451 to R458).
-/

namespace Sys2Proof.Machine

/-! ### Messages (R420, R421) -/

/-- Bytes 0 to 31 of a message (R420). -/
def msgHeader (m : Msg) : List Byte :=
  [m.version, m.type, m.cls, m.status] ++ leBytes 4 m.session.toNat ++ leBytes 8 m.seq.toNat ++ leBytes 2 m.index.toNat ++ [m.sub, m.dtype] ++
  leBytes 4 m.offset.toNat ++ leBytes 2 m.length.toNat ++ leBytes 2 m.context.toNat ++ [m.flags] ++ leBytes 3 m.reserved.toNat

/-- What TAG is taken over: the header and the payload. -/
def msgSigned (m : Msg) : List Byte := msgHeader m ++ m.payload

/-- 32 zero bytes: TAG where there is no session key. -/
def zeroTag : List Byte := List.replicate 32 0#8

/-- What the port serves at present (R419, R427, R451, R473): nothing; only what R427 always serves; everything; the recovery set. -/
inductive PortMode where
  | off | always | full | recovery
deriving DecidableEq, Repr

/-- The mode of the port: the units are held in reset under SYS_RESET_N, a rail fault or a latched trip. -/
def State.portMode (s : State) : PortMode :=
  if !s.boot.loaded then .off
  else if s.trip.latched || !s.boot.rails || !s.inputs.sysReset.filtered then .always
  else if s.boot.state = 2 then .full
  else if s.boot.state = 3 then .recovery
  else .off

/-- The UDP port that the management port listens on (R419, R451). -/
def State.listenPort (s : State) : Nat := if s.portMode = .recovery then 47230 else s.dict.udpPort

/-- How the management port comes to send on its segment (R418, R436): by CSMA/CD, or under PLCA as the coordinator of a number of nodes or as a
follower. -/
inductive PortAccess where
  | csmaCd | coordinator (nodes : Nat) | follower (node : Nat)
deriving DecidableEq, Repr

/-- The access in force: recovery runs without PLCA (R451). When a frame then gets its turn on the segment is time, which the model does not
count. -/
def State.portAccess (s : State) : PortAccess :=
  if s.portMode = .recovery ∨ s.dictVal 0x1100 2 0 = 0 then .csmaCd
  else if s.dictVal 0x1100 3 255 = 0 then .coordinator (s.dictVal 0x1100 4 8)
  else .follower (s.dictVal 0x1100 3 255)

/-- Does a message reach the dictionary by this way (R419)? -/
def State.reaches (s : State) (via : Via) : Bool :=
  match via with
  | .net _ port => s.portMode != .off && s.dict.netLink && port == s.listenPort
  | .mailbox => s.boot.mailbox && s.boot.cfgSpace

/-- Send a message; after a duplicate address has been found the port sends nothing (R419). A mailbox command that returns a response
completes with the return code Success (R430). -/
def State.send (s : State) (via : Via) (m : Msg) : State :=
  match via with
  | .net _ _ => if s.dict.duplicate then s else s.emit (.reply via m)
  | .mailbox => (s.emit (.reply via m)).emit (.mailboxReturn 0)

/-- A message is dropped and counted (R420, R423). -/
def State.dropMsg (s : State) : State := { s with dict := { s.dict with netDrops := s.dict.netDrops + 1 } }

/-- A response to a message: its tag is under the session's key, or zero. -/
def response (m : Msg) (type : Byte) (status : Nat) (session : W32) (dtype : Nat) (payload key : List Byte) : Msg :=
  let r : Msg := { type := type, cls := m.cls, status := BitVec.ofNat 8 status, session, seq := m.seq, index := m.index, sub := m.sub
                   dtype := BitVec.ofNat 8 dtype, offset := m.offset, length := BitVec.ofNat 16 payload.length, context := m.context, payload }
  { r with tag := if key.isEmpty then zeroTag else hmacSm3 key (msgSigned r) }

/-! ### Sessions (R422 to R424) -/

/-- Open sessions. -/
def Dict.opened (d : Dict) : Nat := (d.sessions.filter (fun p => p.2.opened)).length

/-- The class secret of a session: OPERATOR_KEY, TENANT_KEY of the context, or the vendor secret (R422, R454). Without an identity no
operator or vendor session can open (R455). -/
def State.secret? (s : State) (cls ctx : Nat) : Option (List Byte) :=
  match cls with
  | 0 => s.boot.identity.bind (fun i => i.operatorKey)
  | 1 => Assoc.find? s.dict.tenantKeys ctx
  | 2 => s.boot.identity.map (fun i => kdf i.ds "EZ4832 vendor")
  | _ => none

/-- A source address is locked out (R424). -/
def State.isLockedOut (s : State) (via : Via) : Bool := match via with | .net a _ => s.dict.ignored.contains a | .mailbox => false

/-- HELLO (R422): CHALLENGE with a fresh session number and a random nonce, or BUSY. In recovery, and while the units are held in reset, it
is served as R427 and R451 say. -/
def State.hello (s : State) (via : Via) (m : Msg) : State :=
  if !s.reaches via || s.portMode == .recovery || m.type ≠ 1 then s
  else if m.version ≠ 1 || m.payload.length ≠ 16 then s.dropMsg
  else if s.isLockedOut via then s
  else if 8 ≤ s.dict.opened then s.send via (response m 4 8 0 0 [] [])
  else
    let n := s.dict.nextSession
    let (s, v) := s.freeW128
    let nonce := leBytes 16 v.toNat
    let x : Session := { cls := m.cls, ctx := m.context.toNat, via, clientNonce := m.payload, deviceNonce := nonce, lastUse := s.periods }
    let s := { s with dict := { s.dict with sessions := Assoc.put s.dict.sessions n.toNat x, nextSession := if n = 0xFFFFFFFF then 1 else n + 1 } }
    s.send via (response m 2 0 n 0 nonce [])

/-- HELLO (R422). -/
def execHello (via : Via) (msg : Msg) (s : State) : Host.Outcome State Fault Refusal := .next (s.hello via msg)

/-- A proof that fails is counted; 8 within 60 s from one source lock it out (R424). -/
def State.proofFailed (s : State) (via : Via) (m : Msg) : State :=
  let d := { s.dict with authFailures := s.dict.authFailures + 1, sessions := Assoc.del s.dict.sessions m.session.toNat }
  let d := match via with
    | .mailbox => d
    | .net a _ =>
      let l := s.periods :: (Assoc.get [] d.failures a).filter (fun t => decide (s.periods < t + 6000000))
      if 8 ≤ l.length then { d with failures := Assoc.del d.failures a, ignored := insertNat a d.ignored }
      else { d with failures := Assoc.put d.failures a l }
  ({ s with dict := d }).send via (response m 4 9 m.session 0 [] [])

/-- PROOF (R422): the tag is checked, and the session key is formed. -/
def State.proof (s : State) (via : Via) (m : Msg) : State :=
  if !s.reaches via || s.portMode == .recovery || m.type ≠ 3 then s
  else if m.version ≠ 1 then s.dropMsg
  else match Assoc.find? s.dict.sessions m.session.toNat with
    | none => s.proofFailed via m
    | some x =>
      if x.opened || x.via != via then s.dropMsg
      else match s.secret? x.cls.toNat x.ctx with
        | none => s.proofFailed via m
        | some k =>
          let nonces := x.clientNonce ++ x.deviceNonce
          if m.tag ≠ hmacSm3 k (msgHeader m ++ nonces) then s.proofFailed via m
          else if 8 ≤ s.dict.opened then s.send via (response m 4 8 m.session 0 [] [])
          else
            let key := hmacSm3 k (ascii "EZ4832 session" ++ nonces ++ leBytes 4 m.session.toNat)
            let y := { x with opened := true, key, lastUse := s.periods }
            ({ s with dict := { s.dict with sessions := Assoc.put s.dict.sessions m.session.toNat y } }).send via
              (response m 4 0 m.session 0 [] key)

/-- PROOF (R422). -/
def execProof (via : Via) (msg : Msg) (s : State) : Host.Outcome State Fault Refusal := .next (s.proof via msg)

/-- HELLO_LOCKOUT_END (R424). -/
def execHelloLockoutEnd (source : Nat) (s : State) : Host.Outcome State Fault Refusal :=
  .next { s with dict := { s.dict with ignored := s.dict.ignored.filter (fun a => a != source) } }

/-- SESSION_TIMEOUT (R423): no request for 60 s; a staged DOMAIN write goes with the session. -/
def execSessionTimeout (session : W32) (s : State) : Host.Outcome State Fault Refusal :=
  .next (match Assoc.find? s.dict.sessions session.toNat with
    | some x =>
      if x.lastUse + 6000000 ≤ s.periods then { s with dict := { s.dict with sessions := Assoc.del s.dict.sessions session.toNat } } else s
    | none => s)

/-- DISCOVER (R421): serial number, DEVICE_ID_ACTIVE and DOMAIN_ACTIVE. -/
def State.discover (s : State) (via : Via) (m : Msg) : State :=
  if !s.reaches via || s.portMode == .recovery || m.type ≠ 9 then s
  else if m.version ≠ 1 then s.dropMsg
  else s.send via (response m 7 0 0 0 (serialBytes ++ leBytes 2 s.net.ownId ++ leBytes 1 (num s.net.ownDom)) [])

/-- DISCOVER (R421). -/
def execDiscover (via : Via) (msg : Msg) (s : State) : Host.Outcome State Fault Refusal := .next (s.discover via msg)

/-! ### Who asks (R423, R425, R430, R451) -/

/-- The class a request acts with: 0 operator, 1 tenant of `ctx`, 2 vendor, 3 the recovery set, 4 none; the session, if there is one. -/
structure Grant where
  cls : Nat
  ctx : Nat
  session : Option W32
  key : List Byte
deriving DecidableEq, Repr

/-- The class of a mailbox request with SESSION 0 (R430, R455). -/
def State.mailboxClass (s : State) (m : Msg) : Nat :=
  match m.cls.toNat with
  | 1 => 1
  | 0 => if s.dictVal 0x7000 5 1 = 1 && s.boot.identity.isSome then 0 else 4
  | _ => 4

/-- A session has had a request with the right tag: its 60 s begin anew (R423). -/
def State.touchSession (s : State) (n : W32) : State :=
  match Assoc.find? s.dict.sessions n.toNat with
  | none => s
  | some x => { s with dict := { s.dict with sessions := Assoc.put s.dict.sessions n.toNat { x with lastUse := s.periods } } }

/-- Admit a request of a session or of none: `none` when it has been answered or dropped (R423). A request is handled as it arrives, so that
none waits in the session's queue. -/
def State.admitReq (s : State) (via : Via) (m : Msg) : State × Option Grant :=
  if !s.reaches via then (s, none)
  else if m.version ≠ 1 then (s.dropMsg, none)
  else if s.portMode == .recovery then (s, if m.session = 0 then some ⟨3, 0, none, []⟩ else none)
  else if m.session = 0 && via == .mailbox then (s, some ⟨s.mailboxClass m, m.context.toNat, none, []⟩)
  else match (Assoc.find? s.dict.sessions m.session.toNat).filter (fun x => x.opened && x.via == via) with
    | none => (s.send via (response m 7 9 m.session 0 [] []), none)
    | some x =>
      if m.tag ≠ hmacSm3 x.key (msgSigned m) then
        ({ s.dropMsg with dict := { s.dropMsg.dict with authFailures := s.dict.authFailures + 1 } }, none)
      else
        let s := s.touchSession m.session
        match x.lastResp with
        | some r =>
          if m.seq = x.lastSeq then (s.send via r, none)
          else if m.seq.toNat < x.lastSeq.toNat then (s.dropMsg, none)
          else (s, some ⟨x.cls.toNat, x.ctx, some m.session, x.key⟩)
        | none => (s, some ⟨x.cls.toNat, x.ctx, some m.session, x.key⟩)

/-- The response is sent, and kept by its session for a repeated SEQ (R423). -/
def State.answerMsg (s : State) (via : Via) (m : Msg) (g : Grant) (status dtype : Nat) (payload : List Byte) : State :=
  let r := response m 7 status m.session dtype payload g.key
  let s := match g.session with
    | none => s
    | some n =>
      match Assoc.find? s.dict.sessions n.toNat with
      | none => s
      | some x =>
        let y := { x with lastSeq := m.seq, lastResp := some r, lastUse := s.periods }
        { s with dict := { s.dict with sessions := Assoc.put s.dict.sessions n.toNat y } }
  s.send via r

/-- What a request fails by before its entry acts (R425 to R428), in the order NO_ENTRY, PRIVILEGE, NO_SUBINDEX, TYPE, access, STATE, RANGE
(DESIGN CHOICE: the manual gives no order); or the entry. -/
def State.checkMsg (s : State) (m : Msg) (g : Grant) (write : Bool) : Nat × Option DictEntry :=
  let ix := m.index.toNat
  let sub := m.sub.toNat
  let denied : Bool := match g.cls with
    | 0 => write && ix == 0x7200 && sub == 2
    | 1 => write || !tenantReads g.ctx ix
    | 2 => false
    | 3 => false
    | _ => true
  if (dictRows ix).isEmpty then (1, none)
  else if denied then (5, none)
  else match dictEntry ix sub with
    | none => (2, none)
    | some e =>
      let n := m.length.toNat
      let badLen : Bool := match typeSize e.dtype with
        | some k => n != k
        | none => decide ((if e.dtype = 0x0A then 1024 else 255) < n)
      if m.dtype.toNat ≠ e.dtype || badLen || (write && m.payload.length != n) then (7, none)
      else if write && (e.access == .ro || e.access == .const) then (3, none)
      else if !write && e.access == .wo then (4, none)
      else if s.portMode == .always && !alwaysServed ix then (0x0A, none)
      else if e.dtype ≠ 0x0A && m.offset ≠ 0 then (6, none)
      else (0, some e)

/-! ### READ (R427, R429) -/

/-- What recovery serves (R451). -/
def recoveryServes (m : Msg) (write : Bool) : Bool :=
  if write then m.index == 0x7200 && (m.sub == 1 || m.sub == 2) else m.index == 0x1000 || m.index == 0x1200

/-- A READ: the value, or a segment of a DOMAIN. -/
def State.readMsg (s : State) (via : Via) (m : Msg) : State :=
  if m.type ≠ 5 then s
  else match s.admitReq via m with
    | (s, none) => s
    | (s, some g) =>
      if g.cls = 3 ∧ !recoveryServes m false then s
      else match s.checkMsg m g false with
        | (e, none) => s.answerMsg via m g e m.dtype.toNat []
        | (_, some e) =>
          match s.readValue m.index.toNat m.sub.toNat e with
          | (s, none) => s.answerMsg via m g 0x0A e.dtype []
          | (s, some v) =>
            if e.dtype ≠ 0x0A then s.answerMsg via m g 0 e.dtype v
            else if v.length < m.offset.toNat then s.answerMsg via m g 6 e.dtype []
            else s.answerMsg via m g 0 e.dtype ((v.drop m.offset.toNat).take m.length.toNat)

/-- READ (R429). -/
def execDictRead (via : Via) (msg : Msg) (s : State) : Host.Outcome State Fault Refusal := .next (s.readMsg via msg)

/-- A message names an entry. -/
def msgNames (m : Msg) (lo hi sub : Nat) : Bool := decide (lo ≤ m.index.toNat) && decide (m.index.toNat ≤ hi) && m.sub.toNat == sub

/-- BANKS_AT_CAP_PEAK (R437): its read. -/
def execBanksAtCapPeak (via : Via) (msg : Msg) (s : State) : Host.Outcome State Fault Refusal :=
  .next (if msgNames msg 0x4200 0x421F 0x12 then s.readMsg via msg else s)

/-! ### WRITE (R427, R431, R432) -/

/-- What an entry does with a checked value: the state, and the abort code. -/
abbrev Behaviour := State → Grant → Msg → State × Nat

/-- A WRITE with the behaviour of its entry. -/
def State.writeMsg (s : State) (via : Via) (m : Msg) (f : Behaviour) : State :=
  if m.type ≠ 6 then s
  else match s.admitReq via m with
    | (s, none) => s
    | (s, some g) =>
      if g.cls = 3 ∧ !recoveryServes m true then s
      else match s.checkMsg m g true with
        | (e, none) => s.answerMsg via m g e m.dtype.toNat []
        | (_, some e) =>
          let (s, status) := f s g m
          s.answerMsg via m g status e.dtype []

/-- The value of a fixed-size write. -/
def msgValue (m : Msg) : Nat := leNat m.payload

/-- Store a value of the dictionary; a persistent entry marks its set unsaved (R432). -/
def State.store (s : State) (ix sub v : Nat) : State :=
  { s with dict := { s.dict with vals := Assoc.put s.dict.vals (ix * 256 + sub) v, unsaved := s.dict.unsaved || dictPersistent ix sub } }

/-- A route entry as it is stored: its Reserved bits [30:28] stay 0 (R13, R276). -/
def routeBits (v : Nat) : W32 := BitVec.ofNat 32 v &&& 0x8FFFFFFF#32

/-- An entry without a behaviour of its own: the range is checked and the value stored. PLCA_EN needs a node (R436); REF_LINK, while the
reference is a link, must name one that is Up (R406). -/
def storeEntry : Behaviour := fun s _ m =>
  let ix := m.index.toNat
  let sub := m.sub.toNat
  let v := msgValue m
  if dictRangeBad ix sub v then (s, 6)
  else if ix = 0x1100 ∧ sub = 2 ∧ v = 1 ∧ s.dictVal 0x1100 3 255 = 255 then (s, 0x0A)
  else if ix = 0x3000 ∧ sub = 2 ∧ s.dictVal 0x3000 1 0 = 1 ∧ !s.linkUp v then (s, 0x0A)
  else (s.store ix sub (if ix = 0x5000 ∧ sub = 6 then (routeBits v).toNat else v), 0)

/-! ### Power and clocks (R392, R394, R395, R406) -/

/-- CAP_W: clamped to 800 to 2,000 W; the lease restarts. -/
def capEntry : Behaviour := fun s _ m =>
  let v := msgValue m
  if realBad v then (s, 6)
  else
    let w : Nat := if realOf v < 800 then 0x44480000 else if 2000 < realOf v then 0x44FA0000 else v
    (s.modYard (fun y => { y with capW := BitVec.ofNat 32 w, capWritten := s.periods, lapsed := false }), 0)

/-- CAP_W (R392). -/
def execCapW (via : Via) (msg : Msg) (s : State) : Host.Outcome State Fault Refusal :=
  .next (if msgNames msg 0x2000 0x2000 1 then s.writeMsg via msg capEntry else s)

/-- FRAC_APPLY: the staged fractions come into force if they sum to 256. -/
def fracEntry : Behaviour := fun s _ _ =>
  let l := (List.range 8).map (fun t => s.dictVal 0x2001 (2 + t) 32)
  if l.foldl (· + ·) 0 = 256 then (s.modYard (fun y => { y with fracs := l }), 0) else (s, 0x0A)

/-- FRAC_APPLY (R394). -/
def execFracApply (via : Via) (msg : Msg) (s : State) : Host.Outcome State Fault Refusal :=
  .next (if msgNames msg 0x2001 0x2001 0x0A then s.writeMsg via msg fracEntry else s)

/-- LEARN_RESET: D is cleared. -/
def learnEntry : Behaviour := fun s _ _ => (s.modYard (fun y => { y with learned := [] }), 0)

/-- LEARN_RESET (R395). -/
def execLearnReset (via : Via) (msg : Msg) (s : State) : Host.Outcome State Fault Refusal :=
  .next (if msgNames msg 0x2006 0x2006 1 then s.writeMsg via msg learnEntry else s)

/-- REF_SEL: a source that is not up fails with STATE. -/
def refEntry : Behaviour := fun s _ m =>
  let v := msgValue m
  let ok : Bool := match v with | 1 => s.linkUp (s.dictVal 0x3000 2 0) | 2 => s.boot.cfgSpace | _ => true
  if 2 < v then (s, 6)
  else if !ok then (s, 0x0A)
  else (({ s with clocks := { s.clocks with active := v } }).store 0x3000 1 v, 0)

/-- REF_SEL (R406). -/
def execRefSel (via : Via) (msg : Msg) (s : State) : Host.Outcome State Fault Refusal :=
  .next (if msgNames msg 0x3000 0x3000 1 then s.writeMsg via msg refEntry else s)

/-- SAVE_NOW: a save starts; while one is in progress the writes since are kept for the next. -/
def saveEntry : Behaviour := fun s _ _ =>
  (if (Assoc.find? s.nvSaving 3).isNone then s.saveDict else { s with dict := { s.dict with unsaved := true } }, 0)

/-- SAVE_NOW (R432). -/
def execSaveNow (via : Via) (msg : Msg) (s : State) : Host.Outcome State Fault Refusal :=
  .next (if msgNames msg 0x1010 0x1010 1 then s.writeMsg via msg saveEntry else s)

/-! ### Links and routes (R264, R276, R278, R288, R438) -/

/-- ROUTE: the entry is replaced whole; its Reserved bits stay 0. -/
def routeEntry : Behaviour := fun s _ m =>
  let v := msgValue m
  if routeBad v then (s, 6)
  else
    let d := (m.index.toNat - 0x5100) * 128 + (m.sub.toNat - 1)
    (s.modNet (fun n => { n with routes := Assoc.put n.routes d (routeBits v) }), 0)

/-- ROUTE (R276). -/
def execRoute (via : Via) (msg : Msg) (s : State) : Host.Outcome State Fault Refusal :=
  .next (if msgNames msg 0x5100 0x511F msg.sub.toNat && decide (1 ≤ msg.sub.toNat) && decide (msg.sub.toNat ≤ 0x80) then
      s.writeMsg via msg routeEntry
    else s)

/-- A device id is excluded: its outstanding requests fail, collectives with it end, turnstiles exported to it get their error bit. -/
def State.exclude (s : State) (d : Nat) : State :=
  let s := s.modNet (fun n => { n with excluded := insertNat d n.excluded })
  let tags := (s.net.outstanding.filter (fun p => p.2.dev == d)).map (·.1)
  let s := tags.foldl (fun (s : State) t => s.failRequest t 1) s
  let refs := (s.net.colls.filter s.excludes).map (·.ref)
  let s := refs.foldl (fun (s : State) r => (s.endColl r 1).pump r) s
  let turns := (s.hub.turns.filter (fun t => t.2.exports.any (fun e => e.isNone || e == some d))).map (·.1)
  turns.foldl (fun (s : State) n => s.signalTurn n false 0 true none) s

/-- EXCLUDE_SET (R278). -/
def excludeEntry : Behaviour := fun s _ m => if 4095 < msgValue m then (s, 6) else (s.exclude (msgValue m), 0)

/-- EXCLUDE_SET (R278). -/
def execExcludeSet (via : Via) (msg : Msg) (s : State) : Host.Outcome State Fault Refusal :=
  .next (if msgNames msg 0x5200 0x5200 2 then s.writeMsg via msg excludeEntry else s)

/-- EXCLUDE_CLEAR. -/
def includeEntry : Behaviour := fun s _ m =>
  if 4095 < msgValue m then (s, 6) else (s.modNet (fun n => { n with excluded := n.excluded.filter (fun d => d != msgValue m) }), 0)

/-- EXCLUDE_CLEAR (R438). -/
def execExcludeClear (via : Via) (msg : Msg) (s : State) : Host.Outcome State Fault Refusal :=
  .next (if msgNames msg 0x5200 0x5200 3 then s.writeMsg via msg includeEntry else s)

/-- ECHO_TARGET: an ECHO goes to the device id. -/
def echoEntry : Behaviour := fun s _ m =>
  if 4095 < msgValue m then (s, 6)
  else if s.portMode == .always then (s, 0x0A)
  else
    let tag := s.net.nextTag
    let s := s.modNet (fun n => { n with nextTag := tag + 1, echoTarget := msgValue m, echoTag := some tag })
    (s.forward (s.mgmtPacket (Fin.ofNat 4096 (msgValue m)) s.net.ownDom 2 tag), 0)

/-- ECHO_TARGET (R288). -/
def execEchoTarget (via : Via) (msg : Msg) (s : State) : Host.Outcome State Fault Refusal :=
  .next (if msgNames msg 0x5000 0x5000 0x0B then s.writeMsg via msg echoEntry else s)

/-- LINK_ENABLE: 0 holds the link Down. -/
def enableEntry : Behaviour := fun s _ m =>
  let l := m.index.toNat - 0x5500
  let v := msgValue m
  if 1 < v then (s, 6)
  else
    let s := s.store m.index.toNat 8 v
    if v = 0 then (((s.dropLink l).modLink l (fun k => { k with enabled := false, st := .down, attempts := 0 })).linksSettled, 0)
    else (s.modLink l (fun k => { k with enabled := true }), 0)

/-- LINK_ENABLE (R438). -/
def execLinkEnable (via : Via) (msg : Msg) (s : State) : Host.Outcome State Fault Refusal :=
  .next (if msgNames msg 0x5500 0x552F 8 then s.writeMsg via msg enableEntry else s)

/-- RE_ENABLE: a Failed link becomes Down, and trains. -/
def reEnableEntry : Behaviour := fun s _ m =>
  let l := m.index.toNat - 0x5500
  (s.modLink l (fun k => if k.st = .failed then { k with st := .down, attempts := 0 } else k), 0)

/-- RE_ENABLE (R264). -/
def execReEnable (via : Via) (msg : Msg) (s : State) : Host.Outcome State Fault Refusal :=
  .next (if msgNames msg 0x5500 0x552F 9 then s.writeMsg via msg reEnableEntry else s)

/-! ### Secrets and measurements (R439, R453, R456, R457) -/

/-- OPERATOR_KEY: 32 B; the block is sealed again under a fresh nonce and set 4 is saved; other operator sessions close. Without an identity
nothing can be sealed. -/
def operatorKeyEntry : Behaviour := fun s g m =>
  if m.payload.length ≠ 32 then (s, 7)
  else match s.boot.identity with
    | none => (s, 0x0A)
    | some i =>
      let i := { i with operatorKey := some m.payload }
      let mine (n : Nat) : Bool := match g.session with | some x => x.toNat == n | none => false
      let s := { s with
        boot := { s.boot with identity := some i }
        dict := { s.dict with sessions := s.dict.sessions.filter (fun p => p.2.cls != 0 || mine p.1) } }
      let (s, nonce) := s.freeBytes 1
      (s.nvStart 4 (.identity (i.seal (nonce.take 12))), 0)

/-- OPERATOR_KEY (R453). -/
def execOperatorKey (via : Via) (msg : Msg) (s : State) : Host.Outcome State Fault Refusal :=
  .next (if msgNames msg 0x7000 0x7000 1 then s.writeMsg via msg operatorKeyEntry else s)

/-- TENANT_KEY: 32 B. -/
def tenantKeyEntry : Behaviour := fun s _ m =>
  if m.payload.length ≠ 32 then (s, 7)
  else ({ s with dict := { s.dict with tenantKeys := Assoc.put s.dict.tenantKeys (m.index.toNat - 0x6800) m.payload } }, 0)

/-- TENANT_KEY (R439). -/
def execTenantKey (via : Via) (msg : Msg) (s : State) : Host.Outcome State Fault Refusal :=
  .next (if msgNames msg 0x6800 0x6BFF 1 then s.writeMsg via msg tenantKeyEntry else s)

/-- MR7_EXTEND: 32 B; with the log full the extension is refused (STATE) and counted. -/
def mr7Entry : Behaviour := fun s _ m =>
  if m.payload.length ≠ 32 then (s, 7)
  else match s.extendMr 7 m.payload with | (s, ok) => (s, if ok then 0 else 0x0A)

/-- MR7_EXTEND (R456). -/
def execMr7Extend (via : Via) (msg : Msg) (s : State) : Host.Outcome State Fault Refusal :=
  .next (if msgNames msg 0x7101 0x7101 9 then s.writeMsg via msg mr7Entry else s)

/-- The first 384 bytes of a quote (R457). -/
def State.quoteBody (s : State) (seq : W64) (nonce : List Byte) : List Byte :=
  ascii "EZQT" ++ leBytes 4 1 ++ serialBytes ++ leBytes 4 s.boot.fwVersion.toNat ++ leBytes 8 seq.toNat ++ nonce ++ s.boot.mr.flatMap id ++
  Sm3.hash (s.boot.log.flatMap id) ++ leBytes 4 s.boot.log.length ++ List.replicate 28 0#8

/-- Random numbers from 1 to n − 1 for a signature: four, of which the first that serves is taken. -/
def signNumbers (bs : List Byte) : List Nat := (chunks 32 4 bs).map (fun c => beNat c % (Sm2.n - 1) + 1)

/-- QUOTE_NONCE: 32 B; the quote is signed by the identity key (R457). -/
def quoteEntry : Behaviour := fun s _ m =>
  if m.payload.length ≠ 32 then (s, 7)
  else match s.boot.identity with
    | none => (s, 0x0A)
    | some i =>
      let seq := s.boot.quoteSeq + 1
      let (s, random) := s.freeBytes 8
      let body := s.quoteBody seq m.payload
      let sig := Sm2.signWith (beNat i.priv) (Sm2.digest i.pub body "EZ4832-ID") (signNumbers random)
      ({ s with boot := { s.boot with quoteSeq := seq, quote := some (body ++ sig) } }, 0)

/-- QUOTE_NONCE (R457). -/
def execQuoteNonce (via : Via) (msg : Msg) (s : State) : Host.Outcome State Fault Refusal :=
  .next (if msgNames msg 0x7102 0x7102 1 then s.writeMsg via msg quoteEntry else s)

/-! ### Firmware and manifest (R429, R452) -/

/-- The staged DOMAIN write of a grant. -/
def State.staged (s : State) (g : Grant) : Option (Nat × Nat × List Byte) :=
  match g.session with
  | none => s.dict.staged0
  | some n => (Assoc.find? s.dict.sessions n.toNat).bind (fun x => x.staged)

/-- Put the staged DOMAIN write of a grant. -/
def State.setStaged (s : State) (g : Grant) (x : Option (Nat × Nat × List Byte)) : State :=
  match g.session with
  | none => { s with dict := { s.dict with staged0 := x } }
  | some n =>
    match Assoc.find? s.dict.sessions n.toNat with
    | none => s
    | some y => { s with dict := { s.dict with sessions := Assoc.put s.dict.sessions n.toNat { y with staged := x } } }

/-- A segment of a DOMAIN write: contiguous offsets from 0; the segment with LAST commits the whole. -/
def segmentEntry (commit : State → List Byte → State × Nat) : Behaviour := fun s g m =>
  let ix := m.index.toNat
  let sub := m.sub.toNat
  let off := m.offset.toNat
  let old := match s.staged g with
    | some (i, j, b) => if i = ix ∧ j = sub then b else []
    | none => []
  if off ≠ 0 ∧ off ≠ old.length then (s.setStaged g none, 6)
  else
    let all := (if off = 0 then [] else old) ++ m.payload
    if m.flags.getLsbD 0 then commit (s.setStaged g none) all
    else (s.setStaged g (some (ix, sub, all)), 0)

/-- An update is refused with its result. -/
def State.updateFails (s : State) (r : Nat) : State × Nat := ({ s with boot := { s.boot with updateResult := r } }, 0x0A)

/-- An update that passes is stored in the bank of its set that does not hold the chosen copy. One that is longer than the bank has room for
fails with RANGE and is discarded (DESIGN CHOICE: the manual names no outcome). -/
def State.updateStores (s : State) (n : Nat) (b : List Byte) : State × Nat :=
  if nvRoom n < b.length then (s, 6)
  else (({ s with boot := { s.boot with updateResult := 0 } }).nvStart n (.bytes b), 0)

/-- FW_IMAGE: the manifest in force, its floor and every digest. -/
def commitImage (s : State) (b : List Byte) : State × Nat :=
  match s.boot.manifest with
  | none => s.updateFails 2
  | some m => match fwFails m b with
    | some f => s.updateFails f.result
    | none => s.updateStores 0 b

/-- FW_IMAGE (R452). -/
def execFwImage (via : Via) (msg : Msg) (s : State) : Host.Outcome State Fault Refusal :=
  .next (if msgNames msg 0x7200 0x7200 1 then s.writeMsg via msg (segmentEntry commitImage) else s)

/-- Is the image chosen for the next boot signed by a key that a manifest lists (R452)? Where there is no image, nothing is to be signed. -/
def State.nextImageListed (s : State) (m : List Byte) : Bool :=
  match (s.nvSet 0).chosen? 0 with
  | none => true
  | some k => match fwFails m k.bytes with | some .key | some .signature => false | _ => true

/-- MANIFEST: R448, a higher version, a root index at or above the floor in force, and the next image signed by a key it lists. -/
def commitManifest (s : State) (b : List Byte) : State × Nat :=
  let rollback : Bool := match s.boot.manifest with
    | none => false
    | some m => decide (manifestVersionOf b ≤ manifestVersionOf m) || decide (rootIndexOf b < rootFloorOf m)
  if !manifestOk b then s.updateFails (if rootIndexOf b < rootFloorOf b then 5 else 1)
  else if rollback then s.updateFails 5
  else if !s.nextImageListed b then s.updateFails 2
  else s.updateStores 5 b

/-- MANIFEST (R452). -/
def execManifest (via : Via) (msg : Msg) (s : State) : Host.Outcome State Fault Refusal :=
  .next (if msgNames msg 0x7200 0x7200 2 then s.writeMsg via msg (segmentEntry commitManifest) else s)

/-- RESTART: 1 acts as a pulse of SYS_RESET_N; refused while a trip is latched. -/
def restartEntry : Behaviour := fun s _ m =>
  if msgValue m ≠ 1 then (s, 6)
  else if s.trip.latched then (s, 0x0A)
  else (s.resetUnits, 0)

/-- RESTART (R458). -/
def execRestart (via : Via) (msg : Msg) (s : State) : Host.Outcome State Fault Refusal :=
  .next (if msgNames msg 0x7200 0x7200 3 then s.writeMsg via msg restartEntry else s)

/-! ### Every entry -/

/-- The behaviour of an entry. -/
def behaviourOf (ix sub : Nat) : Behaviour :=
  match ix, sub with
  | 0x1010, 1 => saveEntry | 0x2000, 1 => capEntry | 0x2001, 0x0A => fracEntry | 0x2006, 1 => learnEntry | 0x3000, 1 => refEntry
  | 0x5000, 0x0B => echoEntry | 0x5200, 2 => excludeEntry | 0x5200, 3 => includeEntry | 0x7000, 1 => operatorKeyEntry
  | 0x7101, 9 => mr7Entry | 0x7102, 1 => quoteEntry | 0x7200, 1 => segmentEntry commitImage | 0x7200, 2 => segmentEntry commitManifest
  | 0x7200, 3 => restartEntry
  | _, _ =>
    if 0x5100 ≤ ix ∧ ix ≤ 0x511F then routeEntry
    else if 0x5500 ≤ ix ∧ ix ≤ 0x552F then (if sub = 9 then reEnableEntry else enableEntry)
    else if 0x6800 ≤ ix ∧ ix ≤ 0x6BFF then tenantKeyEntry
    else storeEntry

/-- WRITE (R427): whatever its entry, the write does what that entry does. -/
def execDictWrite (via : Via) (msg : Msg) (s : State) : Host.Outcome State Fault Refusal :=
  .next (s.writeMsg via msg (behaviourOf msg.index.toNat msg.sub.toNat))

/-- CLOSE (R421): the session closes. No response is defined for it. -/
def State.closeMsg (s : State) (via : Via) (m : Msg) : State :=
  if m.type ≠ 8 then s
  else match s.admitReq via m with
    | (s, some g) =>
      match g.session with
      | some n => { s with dict := { s.dict with sessions := Assoc.del s.dict.sessions n.toNat } }
      | none => s
    | (s, none) => s

/-- CLOSE (R421). -/
def execDictClose (via : Via) (msg : Msg) (s : State) : Host.Outcome State Fault Refusal := .next (s.closeMsg via msg)

/-- DICT_MESSAGE (R430): the mailbox carries any request message. -/
def State.mailboxMsg (s : State) (m : Msg) : State :=
  match m.type.toNat with
  | 1 => s.hello .mailbox m
  | 3 => s.proof .mailbox m
  | 5 => s.readMsg .mailbox m
  | 6 => s.writeMsg .mailbox m (behaviourOf m.index.toNat m.sub.toNat)
  | 8 => s.closeMsg .mailbox m
  | 9 => s.discover .mailbox m
  | _ => s

/-- DICT_MESSAGE (R430). -/
def execDictMessage (via : Via) (msg : Msg) (s : State) : Host.Outcome State Fault Refusal :=
  .next (match via with
    | .mailbox => s.mailboxMsg msg
    | .net _ _ => s)

/-! ### The field-network port (R418, R419) -/

/-- Does the port send: it runs, and no duplicate has been found? -/
def State.portSends (s : State) : Bool := s.portMode != .off && !s.dict.duplicate

/-- NEIGHBOR_SOLICITATION (R419). -/
def execNeighborSolicitation (target : Nat) (s : State) : Host.Outcome State Fault Refusal :=
  .next (if s.portSends && target == portAddress then s.emit (.neighborAdvertisement target) else s)

/-- ECHO_REQUEST (R419). -/
def execEchoRequest (dest : Nat) (data : List Byte) (s : State) : Host.Outcome State Fault Refusal :=
  .next (if s.portSends && dest == portAddress then s.emit (.echoReply dest data) else s)

/-- DUPLICATE_ADDRESS_DETECTION (R419): nothing further is sent until the next power-up. -/
def execDuplicateAddressDetection (s : State) : Host.Outcome State Fault Refusal :=
  .next { s with dict := { s.dict with duplicate := true } }

end Sys2Proof.Machine
end

