-- ==== Sys2Proof/Machine/HostPort.lean ====
section
/-!
DEFINITION. What comes from the host through CXL.mem and CXL.cache (R234, R308 to R311, R344, R351, R355 to R357, R361).
-/

namespace Sys2Proof.Machine

/-- Is the host link reported degraded (R308)? -/
def State.hostLinkDegraded (s : State) : Bool := s.boot.hostLink != .x16

/-! ### What the port reports (R308, R446) -/

/-- Media Status (R446). -/
inductive MediaStatus where
  | notReady | ready | error
deriving DecidableEq, Repr

/-- Media Status: Error while a channel is Failed or the metadata key is absent, Ready once device memory is. -/
def State.mediaStatus (s : State) : MediaStatus :=
  if s.memoryLost then .error else if s.boot.memory then .ready else .notReady

/-- The status fields that the device fills (R446), with the link as it is reported (R308). -/
structure CxlStatus where
  mailboxReady : Bool
  media : MediaStatus
  memoryActive : Bool
  /-- Memory_Active_Timeout, 16 s: 2 in the encoding of CXL (PRESUMED) -/
  activeTimeout : Nat := 2
  lanes : Nat
  degraded : Bool
deriving DecidableEq, Repr

/-- The status fields as they stand; without 256-byte flits the lanes carry CXL.io alone. -/
def State.cxlStatus (s : State) : CxlStatus :=
  { mailboxReady := s.boot.mailbox, media := s.mediaStatus, memoryActive := s.mediaStatus == .ready
    lanes := if s.boot.hostLink = .x8 then 8 else 16, degraded := s.hostLinkDegraded }

/-- The CDAT record (R308): one range, typical read latency in ns and bandwidth in GB/s in each direction. -/
structure Cdat where
  base : Nat := 0
  length : Nat := Config.dpaLimit
  readLatencyNs : Nat := 700
  bandwidthGBs : Nat := 100
deriving DecidableEq, Repr

/-! ### The bushel's requests (R57, R189, R196, R198) -/

/-- After a request has been served: what it held, and what waits for grains, may go on. -/
def State.bushelDone (s : State) : State := s.retryHeld.freeWaitingKeys.retryFetch

/-- BUSHEL_REQUEST (R189): a request of the overflow queue that can go on, else the bank's next request if it is a load, a store, or the read
or write of another agent. -/
def execBushelRequest (tent : TentId) (bank : BushelBankId) (s : State) : Host.Outcome State Fault Refusal :=
  .next (match s.serveOverflow tent.val bank.val with
    | (s, true) => s.bushelDone
    | (s, false) => (s.serveFront tent.val bank.val ReqKind.plain).bushelDone)

/-- ATOMIC_REQUEST (R57): the oldest scratchpad atomic, or the bank's next request if it is an atomic. -/
def execAtomicRequest (site : AtomSite) (s : State) : Host.Outcome State Fault Refusal :=
  .next (match site with
    | .scratchpad ring => s.scratchAtomic ring.val
    | .bushel tent bank => (s.serveFront tent.val bank.val ReqKind.atomic).bushelDone)

/-- RED_ADD_REQUEST (R196). -/
def execRedAddRequest (tent : TentId) (bank : BushelBankId) (s : State) : Host.Outcome State Fault Refusal :=
  .next (s.serveFront tent.val bank.val (fun k => match k with | .redAdd _ => true | _ => false)).bushelDone

/-- RED_FOLD_REQUEST (R198). -/
def execRedFoldRequest (tent : TentId) (bank : BushelBankId) (s : State) : Host.Outcome State Fault Refusal :=
  .next (s.serveFront tent.val bank.val (fun k => match k with | .redFold _ => true | _ => false)).bushelDone

/-- DRAM_GRAIN_RETURN (R186): what waited for the ell may go on, a queue's fetch of its commands too. -/
def execDramGrainReturn (tent : TentId) (reg : Nat) (ecc : Ecc) (s : State) : Host.Outcome State Fault Refusal :=
  .next (s.grainReturn tent.val reg ecc).freeWaitingKeys.retryFetch

/-! ### CXL.mem -/

/-- HOST_READ (R234, R309). A DPA beyond the 2,560 GiB of the HDM decoder names nothing. While configuration space does not answer, or
without 256-byte flits, no access arrives. -/
def execHostRead (dpa : Nat) (want : HostWant) (tag : Nat) (s : State) : Host.Outcome State Fault Refusal :=
  if Config.dpaLimit ≤ dpa then .fault .noSuchAddress
  else .next (if s.cxlOn then s.hostAccess (.read dpa want tag) else s)

/-- The bytes of a write that its mask enables, with their offsets in the grain. -/
def maskedBytes (bytes : List Byte) (mask : List Bool) : List (Nat × Byte) :=
  (List.range 64).filterMap (fun i => if mask.getD i false then (bytes[i]?).map (fun b => (i, b)) else none)

/-- HOST_WRITE (R351): it is performed at the home bushel before Cmp is returned. -/
def execHostWrite (dpa : Nat) (bytes : List Byte) (mask : List Bool) (keep : Bool) (s : State) : Host.Outcome State Fault Refusal :=
  if Config.dpaLimit ≤ dpa then .fault .noSuchAddress
  else .next (if s.cxlOn then s.hostAccess (.write dpa (maskedBytes bytes mask) keep) else s)

/-- Is the next request of a bushel bank for a grain? -/
def State.nextIs (s : State) (tent bank g : Nat) : Bool :=
  let b := (s.tent tent).bank bank
  (s.nextReq? [] (b.queue ++ b.coming)).any (fun q => grainOfEll q.ell q.grain == g)

/-- What a snoop held goes on: writes and host accesses, a fetch that stood, the bank's request, key slots, fetches of commands. -/
def State.snoopDone (s : State) (g : Nat) : State :=
  let ell := ellOfGrain g
  let tent := homeTent ell
  let bank := bushelBank ell
  let s := s.retryHeld.resumeFill ell
  let s := if s.nextIs tent bank g then s.serveFront tent bank (fun _ => true) else s
  s.bushelDone

/-- Modified data of the host is written under the entry's key and generation, before what waits for the snoop and after older data of the
grain (R355, R361). -/
def State.hostBack (s : State) (e : FilterEnt) (bytes : List Byte) : State :=
  let bs := (List.range 64).zip bytes
  let later (s : State) : State := s.modHub (fun h => { h with hostWrites := h.hostWrites ++ [⟨e.grain, bs, .host, some (e.key, e.gen)⟩] })
  if s.hub.backPending e.grain then later s
  else
    match s.putBack e.key e.gen e.grain bs with
    | (s, true) => s
    | (s, false) => later s

/-- The host's answer to a snoop (R355): modified data is written back first; BISnpInv removes the entry, BISnpData leaves it Shared. -/
def State.bisnpAnswer (s : State) (g : Nat) (dirty : Option (List Byte)) : State :=
  match s.hub.snoops.find? (fun x => x.grain == g) with
  | none => s
  | some x =>
    let s := s.modHub (fun h => { h with snoops := h.snoops.filter (fun y => y.grain != g) })
    match s.hub.entry? g with
    | none => s.snoopDone g
    | some e =>
      let s := match dirty with | none => s | some bytes => s.hostBack e bytes
      let s := s.modHub (fun h => if x.inv then h.dropEntry g
                                  else { h with filter := h.filter.map (fun y => if y = e then { y with exclusive := false } else y) })
      s.snoopDone g

/-- BISNP_RESPONSE (R355). -/
def execBisnpResponse (grain : Nat) (dirty : Option (List Byte)) (s : State) : Host.Outcome State Fault Refusal :=
  .next (s.bisnpAnswer grain dirty)

/-- BISNP_TIMEOUT (R356): a snoop unanswered for 100 ms is a device-fatal fault. -/
def execBisnpTimeout (grain : Nat) (s : State) : Host.Outcome State Fault Refusal :=
  .next (if s.hub.snoops.any (fun x => x.grain == grain) then s.deviceFatal 2 (BitVec.ofNat 64 (64 * grain)) else s)

/-- Data of a RdCurr has come, for the oldest that asks for the grain (R308, R354): for a fill of the bushel, or for its reader. -/
def State.hostData (s : State) (g : Nat) (bytes : List Byte) (poison : Bool) : State :=
  let k := hostGrain + g
  let bs := (bytes ++ zeroGrain).take 64
  match s.hub.hostReads.find? (fun x => x.grain == k) with
  | none => s
  | some r =>
    let s := s.modHub (fun h => { h with hostReads := h.hostReads.erase r, hostMem := Mem.writeBytes h.hostMem (64 * g) bs })
    match r.who with
    | none => (s.hostGrainReturn k bs poison).retryFetch
    | some who => (s.putAnswer who k (if poison then .bad 2 else .ok bs)).retryFetch

/-- The oldest write to a host grain has been completed by the host: it is performed (R344). -/
def State.hostWritten (s : State) (g : Nat) : State :=
  let k := hostGrain + g
  match s.hub.hostWrites.find? (fun w => w.grain == k && w.own.isNone) with
  | none => s
  | some w =>
    let s := s.modHub (fun h => { h with
      hostWrites := h.hostWrites.erase w, hostMem := w.bytes.foldl (fun m b => Mem.write m (64 * g + b.1) b.2) h.hostMem })
    (s.performedBy w.who).sendAcks

/-- CXL_CACHE_COMPLETION (R344). -/
def execCxlCacheCompletion (done : CacheDone) (s : State) : Host.Outcome State Fault Refusal :=
  .next (match done with
    | .data g bytes poison => s.hostData g bytes poison
    | .written g => s.hostWritten g)

/-- HOST_SNOOP (R308): the device holds no host line, and answers so. While CXL.cache is not enabled, no snoop arrives. -/
def execHostSnoop (grain : Nat) (s : State) : Host.Outcome State Fault Refusal :=
  .next (if s.cxlOn then s.emit (.snoopNoCopy grain) else s)

end Sys2Proof.Machine
end

