-- ==== Sys2Proof/Machine/Mesh.lean ====
section
/-!
DEFINITION. The mesh of the package (R20, R24 to R28, R32): its links, the route that a packet takes, the credits of its stops, and the
retries of its links.
-/

namespace Sys2Proof.Machine

/-! ### Units by number (R24) -/

/-- The tent that owns a chip-to-chip link: tent t owns links 6t to 6t + 5. Traffic of the link enters and leaves the mesh there (R32). -/
def tentOfLink (link : Nat) : Nat := link / 6
/-- Device number of DMA engine e of a tent: 8t + e. -/
def engineNumber (tent e : Nat) : Nat := 8 * tent + e
/-- The ringmasters of a tent: 2t and 2t + 1. They run device firmware only (R23). -/
def ringmastersOf (tent : Nat) : List Nat := [2 * tent, 2 * tent + 1]

/-! ### Links and routes (R25, R26) -/

/-- The hub die's place among the mesh stops: tents are stops 0 to 7. -/
def hubStop : Nat := 8

/-- The two stops that a mesh link joins (R25). The manual numbers no mesh link; the numbers here are the model's: 0 to 2 along row 0, 3 to 5
along row 1, 6 to 9 between the rows, 10 and 11 from the hub to tents 0 and 4 (DESIGN CHOICE). -/
def meshEnds (link : Nat) : Nat × Nat :=
  if link < 3 then (link, link + 1)
  else if link < 6 then (link + 1, link + 2)
  else if link < 10 then (link - 6, link - 2)
  else if link = 10 then (hubStop, 0)
  else (hubStop, 4)

/-- The stop where traffic of the hub enters or leaves the mesh for a tent: tent 0 for row 0 and tent 4 for row 1 (R26, R32). -/
def hubEntry (tent : Nat) : Nat := if tent < 4 then 0 else 4

/-- The next stop of a packet: along its row to the destination column and then across to the destination row; to and from the hub by the
entry of the row (R26). -/
def meshNext (at_ dest : Nat) : Nat :=
  if at_ = hubStop then (if dest = hubStop then hubStop else hubEntry dest)
  else
    let column := if dest = hubStop then 0 else dest % 4
    if at_ % 4 < column then at_ + 1
    else if column < at_ % 4 then at_ - 1
    else if dest = hubStop then hubStop
    else dest

/-- The stops that a packet passes from one stop to another, both included; nothing is further than 5 links. -/
def meshPath (fr dest : Nat) : List Nat :=
  let rec go (fuel at_ : Nat) : List Nat :=
    match fuel with
    | 0 => [at_]
    | n + 1 => if at_ = dest then [at_] else at_ :: go n (meshNext at_ dest)
  go 5 fr

/-! ### Flits (R27, R28) -/

/-- Stop that sends and stop that receives over a link in one direction. -/
def meshHop (link : Nat) (back : Bool) : Nat × Nat := if back then ((meshEnds link).2, (meshEnds link).1) else meshEnds link

/-- Number of a traffic class. -/
def meshClassNumber (c : MeshClass) : Nat :=
  match c with
  | .request => 0
  | .response => 1
  | .management => 2

/-- Flits of a class that a stop holds. -/
def Net.meshHeld (n : Net) (stop : Nat) (c : MeshClass) : Nat := Assoc.get 0 n.mesh (stop * 3 + meshClassNumber c)

/-- Set the flits of a class that a stop holds. -/
def Net.setMesh (n : Net) (stop : Nat) (c : MeshClass) (count : Nat) : Net :=
  { n with mesh := if count = 0 then Assoc.del n.mesh (stop * 3 + meshClassNumber c) else Assoc.put n.mesh (stop * 3 + meshClassNumber c) count }

/-- A good flit moves on: it leaves the sending stop, which has its credit back, and takes a credit of its own class at the receiving stop,
unless it is at its destination and leaves the mesh. -/
def Net.meshMove (n : Net) (fr to_ dest : Nat) (c : MeshClass) : Net :=
  let n := n.setMesh fr c (n.meshHeld fr c - 1)
  if to_ = dest then n else n.setMesh to_ c (n.meshHeld to_ c + 1)

/-- May a flit be on its way over a link: the link is the next of its route (R26), and the receiving stop has a credit of its class, whatever
the other classes hold (R27)? -/
def Net.meshMay (n : Net) (fr to_ dest : Nat) (c : MeshClass) : Bool :=
  decide (fr ≠ dest) && meshNext fr dest == to_ && (to_ == dest || decide (n.meshHeld to_ c < Config.meshCredits))

/-- A mesh flit is received: a CRC error makes the sender send it again; a good flit ends its retries and moves on. Each direction of a link
counts its own retries. -/
def State.meshFlit (s : State) (link : Nat) (back : Bool) (c : MeshClass) (dest : Nat) (ok : Bool) : State :=
  let hop := meshHop link back
  let key := 2 * link + back.toNat
  s.modNet (fun n =>
    if !n.meshMay hop.1 hop.2 dest c then n
    else if ok then { n with meshRetries := Assoc.del n.meshRetries key }.meshMove hop.1 hop.2 dest c
    else { n with meshRetries := Assoc.put n.meshRetries key (Assoc.get 0 n.meshRetries key + 1)
                  meshRetryCount := bumpAt n.meshRetryCount link 1 })

/-- MESH_FLIT (R28). -/
def execMeshFlit (link : MeshHop) (ok : Bool) (s : State) : Host.Outcome State Fault Refusal :=
  .next (s.meshFlit link.link.val link.back link.cls link.dest.val ok)

/-- MESH_LINK_FAILURE: a flit that has failed and whose 16 retries have failed is a device-fatal fault, which names the link (R28, R369). -/
def execMeshLinkFailure (link : MeshLinkId) (s : State) : Host.Outcome State Fault Refusal :=
  .next (if [0, 1].any (fun b => decide (17 ≤ Assoc.get 0 s.net.meshRetries (2 * link.val + b))) then
    s.deviceFatal 1 (BitVec.ofNat 64 link.val) else s)

end Sys2Proof.Machine
end

