-- ==== Sys2Proof/Machine/MxPath.lean ====
section
/-!
DEFINITION. The matrix path of a ring: weight slots and latches, feeder, array, accumulators, drain engine (R107 to R132, R143 to R146,
R153 to R156, R161 to R164), and the scratchpad's arbitration (R128).
-/

namespace Sys2Proof.Machine

/-! ### Elements, scales and products -/

/-- Elements of `w` bits packed from the first byte upward (R111). -/
def packedElems (w n : Nat) (bs : List Byte) : List Nat :=
  let v := leNat bs
  (List.range n).map (fun j => bits v (w * j + w - 1) (w * j))

/-- Pack elements of `w` bits (R111). -/
def packElems (w : Nat) (xs : List Nat) : Nat :=
  match xs with
  | [] => 0
  | x :: t => x + packElems w t <<< w

/-- An element with its block scale, exactly (R143). -/
def scaled (scale sb : Nat) (x : FVal) : FVal :=
  if scale = 0 then x else FVal.mul x (decodeFmt (if scale = 1 then 13 else 14) sb)

/-- Element values of an activation row with its scales, `fmt` not FP32 (R111, R113). -/
def rowValues (fmt scale : Nat) (bs sc : List Byte) : List FVal :=
  let xs := packedElems (fmtWidth fmt) (mxK fmt) bs
  (List.range xs.length).map (fun k => scaled scale (sc.getD (k / max 1 (scaleBlock scale)) 0).toNat (decodeFmt fmt (xs.getD k 0)))

/-- The weight of row k, column n of a tile, with its scale (R111, R113). The scaling is that of the MX.LDW which loaded the tile, whatever
SCALE an MX.RUN is configured with (DESIGN CHOICE: R113 does not speak of a difference). -/
def Tile.weight (t : Tile) (xs : List Nat) (k n : Nat) : FVal :=
  let per := scaleBytes t.fmt t.scale
  scaled t.scale (t.scales.getD (n * per + k / max 1 (scaleBlock t.scale)) 0).toNat (decodeFmt t.fmt (xs.getD (32 * k + n) 0))

/-- Pieces hi, mid and lo of a finite FP32 operand (R121). -/
def pieces (x : Nat) : List FVal :=
  let neg := bitN x 31
  let q : Int := (max (bits x 30 23) 1 : Nat) - 150
  [decodeFmt 3 (bits x 31 16), .fin neg (bits x 15 8 * 256) q, .fin neg (bits x 7 0) q]

/-- Piece pairs of each PASSES (R121): 0 hi, 1 mid, 2 lo. -/
def piecePairs (passes : Nat) : List (Nat × Nat) :=
  let two := [(0, 0), (0, 1), (1, 0), (0, 2), (1, 1), (2, 0), (1, 2), (2, 1)]
  match passes with
  | 1 => [(0, 0)]
  | 2 => two
  | _ => two ++ [(2, 2)]

/-- The products of one position in multi-pass mode: of whole operands when one is not finite (R121). -/
def multiPass (passes x y : Nat) : List FVal :=
  let a := decodeFmt 1 x
  let b := decodeFmt 1 y
  if !a.isFinite || !b.isFinite then [FVal.mul a b]
  else
    let p := pieces x
    let q := pieces y
    (piecePairs passes).map (fun i => FVal.mul (p.getD i.1 FVal.zero) (q.getD i.2 FVal.zero))

/-- The products of one K-step for each of the 32 columns (R118, R121, R143). An activation keeps its low plane at PASSES 1 too, so that a
NaN is recognised on the whole operand; a finite one gives its piece hi alone. -/
def rowProducts (c : MxCfg) (t : Tile) (bs sc : List Byte) : List (List FVal) :=
  if c.passes ≠ 0 then
    let hi := packedElems 16 32 (bs.take 64)
    let lo := packedElems 16 32 (bs.drop 64)
    let ws := packedElems 32 1024 t.bytes
    (List.range 32).map (fun n => (List.range 32).flatMap (fun k =>
      multiPass c.passes (hi.getD k 0 * 65536 + lo.getD k 0) (ws.getD (32 * k + n) 0)))
  else
    let a := rowValues c.afmt c.scale bs sc
    let k := mxK t.fmt
    let ws := packedElems (fmtWidth t.fmt) (32 * k) t.bytes
    (List.range 32).map (fun n => (List.range k).map (fun i => FVal.mul (a.getD i FVal.zero) (t.weight ws i n)))

/-! ### Weight slots and latches (R114 to R117) -/

/-- Bytes of a scratchpad range list. -/
def readRanges (m : Mem) (l : List (Nat × Nat)) : List Byte := l.flatMap (fun p => Mem.readBytes m p.1 p.2)

/-- The tile that an MX.LDW writes, of its source bytes: its elements in the order of T = 0 (R111). -/
def tileOf (l : Ldw) (got : List Byte) : Tile :=
  let f := l.cfg.wfmt
  let rows := ldwRows f l.transposed
  let src := (List.range rows.1).map (fun i => (got.drop (rows.2 * i)).take rows.2)
  let k := mxK f
  let w := fmtWidth f
  let bytes :=
    if l.transposed then
      let els := src.map (packedElems w k)
      leBytes (32 * k * w / 8) (packElems w ((List.range k).flatMap (fun kk => (List.range 32).map (fun n => (els.getD n []).getD kk 0))))
    else src.flatten
  let scales := if l.cfg.scale = 0 then [] else got.drop (rows.1 * rows.2)
  { fmt := f, transposed := l.transposed, bytes, scales, scale := l.cfg.scale }

/-- Write a tile into its slot or slot pair (R114). -/
def putTile (m : FMap WSlot) (slot : Nat) (t : Tile) : FMap WSlot :=
  let other := if slot % 2 = 0 then slot + 1 else slot - 1
  let pairThere : Bool := [slot, other].any (fun s => match Assoc.find? m s with | some .upper => true | _ => false)
  if pairTile t.fmt then Assoc.put (Assoc.put m slot (.tile t)) (slot + 1) .upper
  else Assoc.put (if pairThere then Assoc.del m other else m) slot (.tile t)

/-- May the MX.LDW at the front of the weight-load queue write now (R115, R129)? -/
def Ring.ldwReady (r : Ring) (l : Ldw) : Bool :=
  let mine := slotsOf l.slot l.cfg.wfmt
  let runs := r.booths.flatMap (fun b => b.2.runs)
  let drns := r.booths.flatMap (fun b => b.2.drns)
  let reads := blocksOfRanges l.ranges
  !(runs.any (fun o => decide (o.seq < l.seq) && o.bank.isNone && (slotsOf o.slot o.cfg.wfmt).any (fun s => mine.contains s))) &&
  !(drns.any (fun d => d.uid == l.uid && decide (d.seq < l.seq) &&
    (List.range (d.rows - d.rowsWritten)).any (fun i => meets reads (blocksOfRanges (d.rowRanges (d.rowsWritten + i)))))) &&
  !meets reads (r.storeBlocks l.uid)

/-- The next part of a list of ranges from byte `at_` on: at most `n` bytes, as ranges. -/
def partOf (at_ n : Nat) : List (Nat × Nat) → List (Nat × Nat)
  | [] => []
  | (a, len) :: t =>
    if len ≤ at_ then partOf (at_ - len) n t
    else
      let k := min n (len - at_)
      (a + at_, k) :: (if k = n then [] else partOf 0 (n - k) t)

/-- The weight write port: the MX.LDW at the front reads the next 256 B of its source, under the arbitration of R128; once it has read all,
its slot holds the new tile (R115). -/
def State.writeSlot (s : State) (ring : Nat) : State :=
  let r := s.ring ring
  match r.ldq with
  | [] => s
  | l :: rest =>
    if !r.ldwReady l then s
    else
      let part := partOf l.got.length 256 l.ranges
      let n := (part.map (·.2)).foldl (· + ·) 0
      if !r.portHas .weights false then s.setRing ring (r.portAsk .weights false n)
      else
        let got := l.got ++ readRanges r.scratch part
        let r := r.portUse .weights false
        if got.length < (l.ranges.map (·.2)).foldl (· + ·) 0 then s.setRing ring { r with ldq := { l with got } :: rest }
        else ((s.setRing ring { r with ldq := rest, wslots := putTile r.wslots l.slot (tileOf l got) }).noteLatches ring).settleBarrier ring

/-- WEIGHT_SLOT_WRITE (R115). -/
def execWeightSlotWrite (ring : RingId) (s : State) : Host.Outcome State Fault Refusal := .next (s.writeSlot ring.val)

/-- Free latch banks of an array. -/
def Booth.freeBanks (y : Booth) : List Nat := [0, 1].filter (fun b => (Assoc.find? y.latches b).isNone)

/-- Latch a tile for the MX.RUN of a booth that ask for the slot, while banks are free. -/
def Booth.latch (y : Booth) (slot : Nat) (t : Tile) (wants : List MxRunOp) : Booth :=
  (wants.filter (fun o => o.slot == slot)).foldl (fun y o =>
    match y.freeBanks with
    | [] => y
    | b :: _ => { y with
        latches := Assoc.put y.latches b (t, o.seq)
        mq := y.mq.map (fun q => match q with | .run x => if x.seq = o.seq then .run { x with bank := some b } else q | .drn _ => q) }) y

/-- One broadcast: the request made first, of those whose array has a free bank, and every request for its slot (R116). -/
def State.broadcast (s : State) (ring : Nat) : State :=
  let s := s.noteLatches ring
  let r := s.ring ring
  let asks := r.booths.flatMap (fun b => if b.2.freeBanks.isEmpty then [] else r.latchWants b.2)
  match r.latchq.findSome? (fun q => asks.find? (fun o => o.seq == q)) with
  | none => s
  | some o =>
    match Assoc.find? r.wslots o.slot with
    | some (.tile t) =>
      (s.setRing ring { r with booths := Assoc.mapVals (fun _ (y : Booth) => y.latch o.slot t (r.latchWants y)) r.booths }).noteLatches ring
    | _ => s

/-- LATCH_BROADCAST (R116). -/
def execLatchBroadcast (ring : RingId) (s : State) : Host.Outcome State Fault Refusal := .next (s.broadcast ring.val)

/-! ### Feeder and array (R123 to R125) -/

/-- Earlier MX.DRN of the troupe that still have to write what the row reads, and stores of the troupe that it must see (R129). -/
def Ring.rowWaits (r : Ring) (o : MxRunOp) (ranges : List (Nat × Nat)) : Bool :=
  let b := blocksOfRanges ranges
  let drns := r.booths.flatMap (fun y => y.2.drns)
  drns.any (fun d => d.uid == o.uid && decide (d.seq < o.seq) &&
    (List.range (d.rows - d.rowsWritten)).any (fun i => meets b (blocksOfRanges (d.rowRanges (d.rowsWritten + i))))) ||
  meets b (r.storeBlocks o.uid)

/-- Replace the operation of a sequence number. -/
def Booth.setRun (y : Booth) (o : MxRunOp) : Booth :=
  { y with mq := y.mq.map (fun q => match q with | .run x => if x.seq = o.seq then .run o else q | .drn _ => q) }
/-- Replace the MX.DRN of a sequence number. -/
def Booth.setDrn (y : Booth) (o : MxDrnOp) : Booth :=
  { y with mq := y.mq.map (fun q => match q with | .drn x => if x.seq = o.seq then .drn o else q | .run _ => q) }

/-- Bytes of the next feeder read of an MX.RUN that the port counts: an FP32 row at PASSES 2 and 3 is read in two halves of 64 B, the high plane
and then the low plane, each in its own a-cycle (R123). -/
def MxRunOp.feedCost (o : MxRunOp) : Nat :=
  if 2 ≤ o.cfg.passes then 64 else ((o.rowRanges o.rowsRead).map (·.2)).foldl (· + ·) 0

/-- The first plane, or the whole, of the next row, and its scales. At PASSES 1 the low plane comes along for the recognition of NaN alone
(R121): the manual counts the high plane alone as read. -/
def MxRunOp.readRow (o : MxRunOp) (m : Mem) : FeedRow :=
  let rs := o.rowRanges o.rowsRead
  let bytes := if 2 ≤ o.cfg.passes then (rs.take 1).map (fun p => (p.1, 64))
    else if o.cfg.passes = 1 then (rs.take 1).map (fun p => (p.1, 128))
    else rs.take 1
  { seq := o.seq, row := o.rowsRead, bytes := readRanges m bytes, scales := readRanges m (rs.drop 1) }

/-- The low plane of the next row joins its high plane. -/
def MxRunOp.readLow (o : MxRunOp) (m : Mem) (f : FeedRow) : FeedRow :=
  if f.seq = o.seq ∧ f.row = o.rowsRead then
    { f with bytes := f.bytes ++ readRanges m (((o.rowRanges o.rowsRead).take 1).map (fun p => (p.1 + 64, 64))) }
  else f

/-- The feeder reads the next row of the MX.RUN at its front, or of the one behind it, into its buffer of 16 rows (R123). -/
def State.feedRow (s : State) (ring b : Nat) : State :=
  let r := s.ring ring
  let y := r.booth b
  match (y.runs.take 2).find? (fun o => decide (o.rowsRead < o.rows)) with
  | none => s
  | some o =>
    let n := o.feedCost
    if (!o.half && decide (16 ≤ y.feed.length)) || r.rowWaits o (o.rowRanges o.rowsRead) then s
    else if !r.roomFor (.feeder b) false n then s.setRing ring (r.portRefuse (.feeder b) false n)
    else
      let whole : Bool := o.half || decide (o.cfg.passes < 2)
      let y := y.setRun (if whole then { o with rowsRead := o.rowsRead + 1, half := false } else { o with half := true })
      let y := { y with feed := if o.half then y.feed.map (o.readLow r.scratch) else y.feed ++ [o.readRow r.scratch] }
      s.setRing ring ((r.setBooth b y).portTake (.feeder b) false n)

/-- FEEDER_ROW_READ (R123). -/
def execFeederRowRead (ring : RingId) (booth : BoothId) (s : State) : Host.Outcome State Fault Refusal := .next (s.feedRow ring.val booth.val)

/-- Does an earlier MX.DRN of the troupe still have to read the unit (R123, R129)? -/
def Booth.unitUnread (y : Booth) (o : MxRunOp) (unit : Nat) : Bool :=
  y.drns.any (fun d => d.uid == o.uid && decide (d.seq < o.seq) &&
    (List.range (d.rows - d.rowsRead)).any (fun i => decide (d.acc + (d.rowsRead + i) / 8 = unit)))

/-- Array a-cycles of a row (R118, R120). -/
def rowCycles (c : MxCfg) : Nat := max 1 c.passes

/-- The array takes the next row or a bubble (R123 to R125). -/
def State.enterRow (s : State) (ring b : Nat) : State :=
  let y := (s.ring ring).booth b
  if 0 < y.owed then s.modBooth ring b (fun y => { y with owed := y.owed - 1, drainHold := true })
  else
    match y.runs with
    | [] => s
    | o :: _ =>
      let row := if o.rowsIn < o.rowsRead then y.feed.find? (fun f => f.seq == o.seq && f.row == o.rowsIn) else none
      let tile := o.bank.bind (fun k => Assoc.find? y.latches k)
      match row, tile with
      | some f, some (t, _) =>
        let acc := 8 * o.acc + o.rowsIn
        if y.unitUnread o (acc / 8) then s
        else
          let p : PipeRow := { seq := o.seq, uid := o.uid, ctx := o.ctx, accRow := acc, start := o.start, prods := rowProducts o.cfg t f.bytes f.scales }
          let y := { y with feed := y.feed.erase f, pipe := y.pipe ++ [p] }
          let y :=
            if o.rowsIn + 1 = o.rows then
              { y with mq := y.mq.filter (fun q => !(match q with | .run x => x.seq == o.seq | .drn _ => false))
                       latches := y.latches.filter (fun l => l.2.2 != o.seq) }
            else y.setRun { o with rowsIn := o.rowsIn + 1 }
          let s := (s.modBooth ring b (fun _ => y)).noteLatches ring
          s.modCtx o.ctx (fun c =>
            let k := Assoc.get {} c.phases o.phase
            { c with phases := Assoc.put c.phases o.phase { k with rows := satAdd 64 k.rows (rowCycles o.cfg) } })
      | _, _ => s

/-- ARRAY_ROW_ENTER (R123). -/
def execArrayRowEnter (ring : RingId) (booth : BoothId) (s : State) : Host.Outcome State Fault Refusal := .next (s.enterRow ring.val booth.val)

/-! ### Accumulators (R109, R132, R144, R161) -/

/-- An accumulator row; one never written is zero (R63). -/
def Troupe.accRow (t : Troupe) (i : Nat) : List AccEl := Assoc.get (List.replicate 32 AccEl.zero) t.acc i

/-- KIND of a special element. -/
def AccEl.kind (e : AccEl) : Nat := nfKind e.val

/-- The record of a unit takes an element (R161). -/
def Troupe.recordNf (t : Troupe) (unit : Nat) (n : NfRec) : Troupe :=
  match Assoc.find? t.nf unit with
  | none => { t with nf := Assoc.put t.nf unit n }
  | some o => if n.row < o.row ∨ (n.row = o.row ∧ n.col < o.col) then { t with nf := Assoc.put t.nf unit n } else t

/-- KIND follows the recorded element's current special value (R161). -/
def Troupe.refreshNf (t : Troupe) (unit : Nat) : Troupe :=
  match Assoc.find? t.nf unit with
  | none => t
  | some o =>
    let e := (t.accRow (8 * unit + o.row)).getD o.col AccEl.zero
    if e.special then { t with nf := Assoc.put t.nf unit { o with kind := e.kind } } else t

/-- One K-step of a row is added and written (R132, R144). -/
def Troupe.accumulate (t : Troupe) (p : PipeRow) : Troupe :=
  let old := if p.start then List.replicate 32 AccEl.zero else t.accRow p.accRow
  let new := (List.range 32).map (fun n => accStep (old.getD n AccEl.zero) (p.prods.getD n []))
  let unit := p.accRow / 8
  let t := if p.start ∧ p.accRow % 8 = 0 then { t with nf := Assoc.del t.nf unit } else t
  let t := { t with acc := Assoc.put t.acc p.accRow new }
  let t := (List.range 32).foldl (fun t n =>
    let e := new.getD n AccEl.zero
    if e.special && !(old.getD n AccEl.zero).special then t.recordNf unit ⟨e.kind, p.accRow % 8, n⟩ else t) t
  t.refreshNf unit

/-- Change the accumulators of a troupe, resident or ended. -/
def Booth.modAcc (y : Booth) (uid ctx : Nat) (f : Troupe → Troupe) : Booth :=
  let g (t : Troupe) : Troupe := if t.uid = uid ∧ t.ctx = ctx then f t else t
  { y with troupes := y.troupes.map g, ended := y.ended.map g }

/-- The troupe that owns accumulators, resident or ended. -/
def Booth.owner? (y : Booth) (uid ctx : Nat) : Option Troupe := (y.troupes ++ y.ended).find? (fun t => t.uid == uid && t.ctx == ctx)

/-- Ended troupes whose last matrix instruction is done are forgotten. -/
def Booth.prune (y : Booth) : Booth := { y with ended := y.ended.filter (fun t => y.mxLeft t.uid) }

/-- The oldest row in the array reaches its accumulators (R118). -/
def State.accumulateRow (s : State) (ring b : Nat) : State :=
  s.modBooth ring b (fun y =>
    match y.pipe with
    | [] => y
    | p :: rest => ({ y with pipe := rest }.modAcc p.uid p.ctx (fun t => t.accumulate p)).prune)

/-- ACCUMULATOR_ROW_WRITE (R144). -/
def execAccumulatorRowWrite (ring : RingId) (booth : BoothId) (s : State) : Host.Outcome State Fault Refusal :=
  .next (s.accumulateRow ring.val booth.val)

/-! ### The drain engine (R126, R127, R153 to R158, R164) -/

/-- Halve or double M until E fits 0 to 254, E being ref + 141 (R155). -/
def raiseM (fuel : Nat) (m e : Int) : Int × Int :=
  match fuel with
  | 0 => (m, e)
  | n + 1 => if 254 < e ∧ 2 * m < 2 ^ 95 ∧ -(2 ^ 95 : Int) < 2 * m then raiseM n (2 * m) (e - 1) else (m, e)

/-- MX.DRN with DFMT W96 (R155). -/
def drainW96 (el : AccEl) (scaleExp : Int) : Nat :=
  match el with
  | .num m ref =>
    if m = 0 then 0
    else
      let r := raiseM 96 m (ref + scaleExp + 141)
      if 254 < r.2 then AccEl.encode (.inf (decide (m < 0)))
      else
        let m' := if r.2 < 0 then r.1 / 2 ^ (-r.2).toNat else r.1
        if m' = 0 then 0 else (max r.2 0).toNat * 2 ^ 96 + wrapInt 96 m'
  | x => x.encode

/-- What one drained element gives: the encoding, a saturation, and the kind of a non-finite position with IN_ACC (R164). -/
structure DrainEl where
  enc : Nat
  sat : Nat := 0
  nf : Option (Nat × Bool) := none
deriving DecidableEq, Repr

/-- The coordinates of a stochastic drain (R158). -/
def drainCoords (d : MxDrnOp) (row col : Nat) : W64 × W64 :=
  (BitVec.ofNat 64 (d.kernelId % 65536 * 2 ^ 48 + d.groupIndex % 65536 * 2 ^ 32 + d.index % 256 * 2 ^ 24 + 0xFF * 2 ^ 16),
   BitVec.ofNat 64 (d.count % 2 ^ 32 * 2 ^ 32 + row % 256 * 2 ^ 24 + col * 2 ^ 16))

/-- Convert one accumulator element at drain row `row`, column `col`. -/
def drainEl (d : MxDrnOp) (row col : Nat) (el : AccEl) : DrainEl :=
  let x := FVal.scale d.scaleExp el.val
  let c : Conv := if d.dfmt = 15 then ⟨drainW96 el d.scaleExp, false⟩
    else
      let r : Rnd := match d.rnd with
        | 0 => .nearest
        | 1 => .zero
        | _ => let k := drainCoords d row col; .stochastic (stochV d.seed k.1 k.2)
      convertFmt d.dfmt r x
  let y := decodeFmt d.dfmt c.enc
  let nf := if el.special then some (el.kind, true) else if y.isFinite then none else some (nfKind y, false)
  { enc := c.enc, sat := c.counted.toNat, nf }

/-- The bytes of a drained row (R111, R112). -/
def drainRowBytes (d : MxDrnOp) (encs : List Nat) : List Byte :=
  if d.dfmt = 1 ∧ d.cfg.passes ≠ 0 ∧ !d.toRegs then
    encs.flatMap (fun e => leBytes 2 (e >>> 16)) ++ encs.flatMap (fun e => leBytes 2 e)
  else encs.flatMap (leBytes (if d.dfmt = 15 then 16 else fmtWidth d.dfmt / 8))

/-- The earlier of two non-finite positions in drain order, the second where they are one position. -/
def earlier (a b : Option (Nat × Nat × Nat × Bool)) : Option (Nat × Nat × Nat × Bool) :=
  match a, b with
  | none, x => x
  | x, none => x
  | some x, some y => if y.1 < x.1 ∨ (y.1 = x.1 ∧ y.2.1 ≤ x.2.1) then some y else some x

/-- The candidate that a unit's record names (R164). -/
def recordCandidate (t : Troupe) (d : MxDrnOp) (unit : Nat) : Option (Nat × Nat × Nat × Bool) :=
  (Assoc.find? t.nf unit).map (fun n =>
    let e := (t.accRow (8 * unit + n.row)).getD n.col AccEl.zero
    (8 * (unit - d.acc) + n.row, n.col, n.kind, e.special))

/-- Has every earlier MX.RUN of the troupe that names the unit written its rows in it (R126)? -/
def Booth.unitDone (y : Booth) (d : MxDrnOp) (unit : Nat) : Bool :=
  !(y.runs.any (fun o => o.uid == d.uid && decide (o.seq < d.seq) &&
    (List.range (o.rows - o.rowsIn)).any (fun i => decide (o.acc + (o.rowsIn + i) / 8 = unit)))) &&
  !(y.pipe.any (fun p => p.uid == d.uid && decide (p.seq < d.seq) && p.accRow / 8 == unit))

/-- The drain engine reads one accumulator row and converts it. While a row that it has read cannot be written, it waits (R135). -/
def State.drainRead (s : State) (ring b : Nat) : State :=
  let y := (s.ring ring).booth b
  if y.drainHold then s.modBooth ring b (fun y => { y with drainHold := false })
  else if !y.drain.isEmpty then s
  else
    match y.drns.find? (fun d => decide (d.rowsRead < d.rows)) with
    | none => s
    | some d =>
      let r := d.rowsRead
      let unit := d.acc + r / 8
      match y.owner? d.uid d.ctx with
      | none => s
      | some t =>
        if !y.unitDone d unit then s
        else
          let els := t.accRow (8 * d.acc + r)
          let outs := (List.range 32).map (fun n => drainEl d r n (els.getD n AccEl.zero))
          let cands := (List.range 32).map (fun n => ((outs.getD n { enc := 0 }).nf).map (fun k => (r, n, k.1, k.2)))
          let first := cands.foldl earlier (earlier (recordCandidate t d unit) d.first)
          let sum := els.foldl (fun a e => FVal.add a (FVal.scale d.scaleExp e.val)) FVal.zero
          let sumEnc := roundFmt 1 sum
          let sumNf : Option Nat := if d.rowsum && !(decodeFmt 1 sumEnc).isFinite then some (nfKind (decodeFmt 1 sumEnc)) else none
          let row : DrainRow := { seq := d.seq, row := r, bytes := drainRowBytes d (outs.map (·.enc))
                                  rowsum := if d.rowsum then some (BitVec.ofNat 32 sumEnc) else none }
          let note (t : Troupe) : Troupe := (List.range 32).foldl (fun t n =>
            match (outs.getD n { enc := 0 }).nf with
            | some (k, false) => t.recordNf unit ⟨k, r % 8, n⟩
            | _ => t) t
          let y := (y.setDrn { d with rowsRead := r + 1, first, sumNf := d.sumNf.or sumNf }).modAcc d.uid d.ctx note
          let s := s.modBooth ring b (fun _ => { y with drain := y.drain ++ [row] })
          s.addSat d.ctx ((outs.map (·.sat)).foldl (· + ·) 0)

/-- DRAIN_ROW_READ (R126). -/
def execDrainRowRead (ring : RingId) (booth : BoothId) (s : State) : Host.Outcome State Fault Refusal := .next (s.drainRead ring.val booth.val)

/-- Reads that an MX.DRN write must wait for: earlier MX.LDW and MX.RUN of the troupe on the same blocks (R129). -/
def Ring.drainWaits (r : Ring) (d : MxDrnOp) (ranges : List (Nat × Nat)) : Bool :=
  let b := blocksOfRanges ranges
  let runs := r.booths.flatMap (fun y => y.2.runs)
  r.ldq.any (fun l => l.uid == d.uid && decide (l.seq < d.seq) && meets b (blocksOfRanges l.ranges)) ||
  runs.any (fun o => o.uid == d.uid && decide (o.seq < d.seq) &&
    (List.range (o.rows - o.rowsRead)).any (fun i => meets b (blocksOfRanges (o.rowRanges (o.rowsRead + i)))))

/-- A register of a pending result has been written (R129). -/
def Troupe.writtenReg (t : Troupe) (id reg : Nat) : Troupe :=
  let l := t.pending.map (fun p => if p.id = id then { p with regs := p.regs.filter (fun r => r != reg) } else p)
  { t with pending := l.filter (fun p => !p.regs.isEmpty || p.id != id) }

/-- A drained row goes to registers: thread i receives column i (R99). -/
def Troupe.putDrained (t : Troupe) (d : MxDrnOp) (row : DrainRow) : Troupe :=
  let t := (List.range 32).foldl (fun t i => t.putV i (d.dreg + row.row) (BitVec.ofNat 32 (leNat ((row.bytes.drop (4 * i)).take 4)))) t
  t.writtenReg d.pend (d.dreg + row.row)

/-- The MX.DRN has made its last write: a non-finite position or row sum sets NF (R126, R162 to R164). The manual gives a row sum no
position: UNIT, ROW and COLUMN are then free. -/
def State.endDrain (s : State) (d : MxDrnOp) : State :=
  match d.first, d.sumNf with
  | some (row, col, kind, inAcc), _ =>
    s.nfEventOf d.who.ring.val d.ctx d.org d.pc (nfDetail 1 kind inAcc 0xFF (d.acc + row / 8) row col 0 d.dfmt)
  | none, some kind =>
    let (s, w) := s.freeW64
    s.nfEventOf d.who.ring.val d.ctx d.org d.pc (nfDetail 1 kind false 0xFF (bits w.toNat 3 0) (bits w.toNat 14 8) (bits w.toNat 20 16) 0 d.dfmt)
  | none, none => s

/-- The bytes of the oldest drained row are written; the MX.DRN completes after its last (R126). Accumulators of a troupe that has ended stay
until the trap that the last write may raise has kept them (R163). -/
def State.drainWrite (s : State) (ring b : Nat) : State :=
  let r := s.ring ring
  let y := r.booth b
  match y.drain with
  | [] => s
  | row :: rest =>
    match y.drns.find? (fun d => d.seq == row.seq) with
    | none => s.modBooth ring b (fun y => { y with drain := rest })
    | some d =>
      let rs := d.rowRanges row.row
      let n := (rs.map (·.2)).foldl (· + ·) 0
      if r.drainWaits d rs then s
      else if !r.roomFor (.drain b) true n then s.setRing ring (r.portRefuse (.drain b) true n)
      else
        let m := if d.toRegs then r.scratch else Mem.writeBytes r.scratch (d.addr + rowAt d.pitch (drainBytes d.dfmt) row.row) row.bytes
        let m := match row.rowsum with
          | some w => Mem.writeBytes m (d.rowsumAddr + 4 * row.row) (leBytes 4 w.toNat)
          | none => m
        let y := { y with drain := rest }
        let y := if d.toRegs then { y with troupes := y.troupes.map (fun t => if t.uid = d.uid ∧ t.ctx = d.ctx then t.putDrained d row else t) } else y
        let last : Bool := d.rowsWritten + 1 == d.rows
        let isIt (q : MxOp) : Bool := match q with | .drn x => x.seq == d.seq | .run _ => false
        let y := if last then { y with mq := y.mq.filter (fun q => !isIt q) }
                 else y.setDrn { d with rowsWritten := d.rowsWritten + 1 }
        let s := (s.setRing ring { (r.setBooth b y).portTake (.drain b) true n with scratch := m }).settleBarrier ring
        if last then (s.endDrain d).modBooth ring b Booth.prune else s

/-- DRAIN_WRITE (R126). -/
def execDrainWrite (ring : RingId) (booth : BoothId) (s : State) : Host.Outcome State Fault Refusal := .next (s.drainWrite ring.val booth.val)

/-! ### Scratchpad arbitration (R128) -/

/-- Write the result of a scratchpad load. -/
def State.putScratch (s : State) (who : TroupeRef) (uid pend reg size : Nat) (sgn : Bool) (vals : List (Nat × List Byte)) : State :=
  match (s.waiting? who pend).filter (fun t => t.uid == uid) with
  | none => s
  | some t => s.setTroupe who ((vals.foldl (fun t v => t.putLoad v.1 reg size sgn v.2) t).dropPending pend)

/-- Perform a scratchpad request. -/
def State.serveScratch (s : State) (ring : Nat) (q : ScratchReq) : State :=
  let m := (s.ring ring).scratch
  match q with
  | .load who uid pend reg size sgn dsts _ => s.putScratch who uid pend reg size sgn (dsts.map (fun d => (d.1, Mem.readBytes m d.2 size)))
  | .tload who uid pend reg esize dsts _ =>
    s.putScratch who uid pend reg 16 false (dsts.map (fun d => (d.1, d.2.flatMap (fun a => Mem.readBytes m a esize))))
  | .store _ _ bytes _ => s.modRing ring (fun r => { r with scratch := bytes.foldl (fun m p => Mem.write m p.1 p.2) r.scratch })

/-- Progress of one a-cycle's arbitration: the state and the requests of vector code refused so far. -/
structure Arb where
  s : State
  refused : List ScratchReq
deriving DecidableEq, Repr

/-- One request of vector code: served when its bytes fit in what is left; one of more than 512 B takes what is left of each a-cycle until
all have passed; a request never passes an earlier one of its troupe (R83). -/
def Arb.one (ring : Nat) (a : Arb) (q : ScratchReq) : Arb :=
  let left := 512 - (a.s.ring ring).portUsed q.isStore
  let count (n : Nat) : State := a.s.modRing ring (fun r => r.portCount q.isStore n)
  if a.refused.any (fun x => x.owner == q.owner) then { a with refused := a.refused ++ [q] }
  else if q.cost ≤ left then { a with s := (count q.cost).serveScratch ring q }
  else if 512 < q.cost then { s := count left, refused := a.refused ++ [q.withCost (q.cost - left)] }
  else { a with refused := a.refused ++ [q] }

/-- The arbitration serves some requests of vector code, in their order. -/
def Arb.vector (ring : Nat) (a : Arb) (l : List ScratchReq) : Arb := l.foldl (Arb.one ring) a

/-- The arbitration comes to some claims of other users. -/
def Arb.grant (ring : Nat) (a : Arb) (p : PortClaim → Bool) : Arb := { a with s := a.s.modRing ring (fun r => r.grant p) }

/-- The arbitration of an a-cycle among what is left after feeder rows and drain writes: what the previous a-cycle refused, the weight port
first; then the weight port; then vector code, atomics and DMA (R128, which gives these three one place: DESIGN CHOICE of the order among
them). -/
def State.arbitrate (s : State) (ring : Nat) : State :=
  let r := s.ring ring
  let weights (c : PortClaim) : Bool := c.user == .weights
  let a : Arb := ⟨s.setRing ring { r with sreqs := [] }, []⟩
  let a := ((a.grant ring (fun c => c.late && weights c)).vector ring (r.sreqs.take r.refused)).grant ring (fun c => c.late && !weights c)
  let a := a.grant ring (fun c => !c.late && weights c)
  let a := (a.vector ring (r.sreqs.drop r.refused)).grant ring (fun c => !c.late && !weights c)
  (a.s.modRing ring (fun r => { r.portTurn with sreqs := a.refused, refused := a.refused.length })).settleBarrier ring

/-- SCRATCHPAD_ARBITRATION (R128). -/
def execScratchpadArbitration (ring : RingId) (s : State) : Host.Outcome State Fault Refusal := .next (s.arbitrate ring.val)

end Sys2Proof.Machine
end

