-- ==== Sys2Proof/Machine/Dispatch.lean ====
section
/-!
DEFINITION. One arm per command, each one direct call of its meaning.
-/

namespace Sys2Proof.Machine

/-- What a command does to the state (the queue of waiting commands apart). -/
def exec (i : Instr) (s : State) : Host.Outcome State Fault Refusal :=
  match i with
  | .mov who f => Sys2Proof.Machine.execMov who f s
  | .sel who f => Sys2Proof.Machine.execSel who f s
  | .iadd who f => Sys2Proof.Machine.execIadd who f s
  | .isub who f => Sys2Proof.Machine.execIsub who f s
  | .imul who f => Sys2Proof.Machine.execImul who f s
  | .imad who f => Sys2Proof.Machine.execImad who f s
  | .imin who f => Sys2Proof.Machine.execImin who f s
  | .imax who f => Sys2Proof.Machine.execImax who f s
  | .andOp who f => Sys2Proof.Machine.execAndOp who f s
  | .orOp who f => Sys2Proof.Machine.execOrOp who f s
  | .xorOp who f => Sys2Proof.Machine.execXorOp who f s
  | .shl who f => Sys2Proof.Machine.execShl who f s
  | .shr who f => Sys2Proof.Machine.execShr who f s
  | .sar who f => Sys2Proof.Machine.execSar who f s
  | .popc who f => Sys2Proof.Machine.execPopc who f s
  | .clz who f => Sys2Proof.Machine.execClz who f s
  | .setp who f => Sys2Proof.Machine.execSetp who f s
  | .vote who f => Sys2Proof.Machine.execVote who f s
  | .shfl who f => Sys2Proof.Machine.execShfl who f s
  | .fadd who f => Sys2Proof.Machine.execFadd who f s
  | .fmul who f => Sys2Proof.Machine.execFmul who f s
  | .ffma who f => Sys2Proof.Machine.execFfma who f s
  | .fmin who f => Sys2Proof.Machine.execFmin who f s
  | .fmax who f => Sys2Proof.Machine.execFmax who f s
  | .cvt who f => Sys2Proof.Machine.execCvt who f s
  | .frcp who f => Sys2Proof.Machine.execFrcp who f s
  | .frsq who f => Sys2Proof.Machine.execFrsq who f s
  | .fexp2 who f => Sys2Proof.Machine.execFexp2 who f s
  | .flog2 who f => Sys2Proof.Machine.execFlog2 who f s
  | .bra who f => Sys2Proof.Machine.execBra who f s
  | .call who f => Sys2Proof.Machine.execCall who f s
  | .ret who f => Sys2Proof.Machine.execRet who f s
  | .exit who f => Sys2Proof.Machine.execExit who f s
  | .ld who f => Sys2Proof.Machine.execLd who f s
  | .st who f => Sys2Proof.Machine.execSt who f s
  | .fenceG who f => Sys2Proof.Machine.execFenceG who f s
  | .atomAdd who f => Sys2Proof.Machine.execAtomAdd who f s
  | .atomMax who f => Sys2Proof.Machine.execAtomMax who f s
  | .atomMin who f => Sys2Proof.Machine.execAtomMin who f s
  | .atomCas who f => Sys2Proof.Machine.execAtomCas who f s
  | .atomExch who f => Sys2Proof.Machine.execAtomExch who f s
  | .redAdd who f => Sys2Proof.Machine.execRedAdd who f s
  | .redFold who f => Sys2Proof.Machine.execRedFold who f s
  | .turnSig who f => Sys2Proof.Machine.execTurnSig who f s
  | .turnWait who f => Sys2Proof.Machine.execTurnWait who f s
  | .barT who f => Sys2Proof.Machine.execBarT who f s
  | .barR who f => Sys2Proof.Machine.execBarR who f s
  | .dmaQ who f => Sys2Proof.Machine.execDmaQ who f s
  | .allocOp who f => Sys2Proof.Machine.execAllocOp who f s
  | .freeOp who f => Sys2Proof.Machine.execFreeOp who f s
  | .statW who f => Sys2Proof.Machine.execStatW who f s
  | .nfChk who f => Sys2Proof.Machine.execNfChk who f s
  | .mxCfg who f => Sys2Proof.Machine.execMxCfg who f s
  | .mxLdw who f => Sys2Proof.Machine.execMxLdw who f s
  | .mxRun who f => Sys2Proof.Machine.execMxRun who f s
  | .mxDrn who f => Sys2Proof.Machine.execMxDrn who f s
  | .boothIssueSlot ring booth => Sys2Proof.Machine.execBoothIssueSlot ring booth s
  | .runLimit who => Sys2Proof.Machine.execRunLimit who s
  | .starvationLimit ring booth => Sys2Proof.Machine.execStarvationLimit ring booth s
  | .latencyElapsed who id => Sys2Proof.Machine.execLatencyElapsed who id s
  | .loadResponse ring op => Sys2Proof.Machine.execLoadResponse ring op s
  | .writeAck ring op => Sys2Proof.Machine.execWriteAck ring op s
  | .ringGroupPlace ref ring => Sys2Proof.Machine.execRingGroupPlace ref ring s
  | .registerClearDone ring booth => Sys2Proof.Machine.execRegisterClearDone ring booth s
  | .scratchpadClearDone ring => Sys2Proof.Machine.execScratchpadClearDone ring s
  | .combinerAccept ring => Sys2Proof.Machine.execCombinerAccept ring s
  | .weighmasterAccept tent => Sys2Proof.Machine.execWeighmasterAccept tent s
  | .scratchpadArbitration ring => Sys2Proof.Machine.execScratchpadArbitration ring s
  | .weightSlotWrite ring => Sys2Proof.Machine.execWeightSlotWrite ring s
  | .latchBroadcast ring => Sys2Proof.Machine.execLatchBroadcast ring s
  | .feederRowRead ring booth => Sys2Proof.Machine.execFeederRowRead ring booth s
  | .arrayRowEnter ring booth => Sys2Proof.Machine.execArrayRowEnter ring booth s
  | .accumulatorRowWrite ring booth => Sys2Proof.Machine.execAccumulatorRowWrite ring booth s
  | .drainRowRead ring booth => Sys2Proof.Machine.execDrainRowRead ring booth s
  | .drainWrite ring booth => Sys2Proof.Machine.execDrainWrite ring booth s
  | .droopDetect ring => Sys2Proof.Machine.execDroopDetect ring s
  | .droopBurstEnd tent => Sys2Proof.Machine.execDroopBurstEnd tent s
  | .bushelRequest tent bank => Sys2Proof.Machine.execBushelRequest tent bank s
  | .atomicRequest site => Sys2Proof.Machine.execAtomicRequest site s
  | .redAddRequest tent bank => Sys2Proof.Machine.execRedAddRequest tent bank s
  | .redFoldRequest tent bank => Sys2Proof.Machine.execRedFoldRequest tent bank s
  | .missFetchIssue tent reg => Sys2Proof.Machine.execMissFetchIssue tent reg s
  | .dramGrainReturn tent reg ecc => Sys2Proof.Machine.execDramGrainReturn tent reg ecc s
  | .requestResend tent id => Sys2Proof.Machine.execRequestResend tent id s
  | .dramAccess chan turn => Sys2Proof.Machine.execDramAccess chan turn s
  | .refresh chan bank => Sys2Proof.Machine.execRefresh chan bank s
  | .erasureMark chan rank sub sym => Sys2Proof.Machine.execErasureMark chan rank sub sym s
  | .rowRemap chan bank sub row => Sys2Proof.Machine.execRowRemap chan bank sub row s
  | .rowRemapComplete chan bank sub row => Sys2Proof.Machine.execRowRemapComplete chan bank sub row s
  | .rateBucketRoll => Sys2Proof.Machine.execRateBucketRoll s
  | .copyStart tent engine => Sys2Proof.Machine.execCopyStart tent engine s
  | .copyGrain tent engine ecc => Sys2Proof.Machine.execCopyGrain tent engine ecc s
  | .copyComplete tent engine => Sys2Proof.Machine.execCopyComplete tent engine s
  | .allocComplete ring op => Sys2Proof.Machine.execAllocComplete ring op s
  | .doorbell queue tail => Sys2Proof.Machine.execDoorbell queue tail s
  | .admqCfg value => Sys2Proof.Machine.execAdmqCfg value s
  | .registerWrite reg value => Sys2Proof.Machine.execRegisterWrite reg value s
  | .commandAccept queue => Sys2Proof.Machine.execCommandAccept queue s
  | .commandComplete ref => Sys2Proof.Machine.execCommandComplete ref s
  | .dispatch ref => Sys2Proof.Machine.execDispatch ref s
  | .copyCommand ref => Sys2Proof.Machine.execCopyCommand ref s
  | .waitCommand ref => Sys2Proof.Machine.execWaitCommand ref s
  | .signalCommand ref => Sys2Proof.Machine.execSignalCommand ref s
  | .invalidate ref => Sys2Proof.Machine.execInvalidate ref s
  | .stepBoundary ref => Sys2Proof.Machine.execStepBoundary ref s
  | .query ref => Sys2Proof.Machine.execQuery ref s
  | .allocCommand ref => Sys2Proof.Machine.execAllocCommand ref s
  | .freeCommand ref => Sys2Proof.Machine.execFreeCommand ref s
  | .allReduce ref => Sys2Proof.Machine.execAllReduce ref s
  | .reduceScatter ref => Sys2Proof.Machine.execReduceScatter ref s
  | .allGather ref => Sys2Proof.Machine.execAllGather ref s
  | .allToAll ref => Sys2Proof.Machine.execAllToAll ref s
  | .broadcast ref => Sys2Proof.Machine.execBroadcast ref s
  | .fusedNorm ref => Sys2Proof.Machine.execFusedNorm ref s
  | .carousel ref => Sys2Proof.Machine.execCarousel ref s
  | .digestCompare ref => Sys2Proof.Machine.execDigestCompare ref s
  | .declare ref => Sys2Proof.Machine.execDeclare ref s
  | .flip ref => Sys2Proof.Machine.execFlip ref s
  | .release ref => Sys2Proof.Machine.execRelease ref s
  | .journalExport ref => Sys2Proof.Machine.execJournalExport ref s
  | .journalImport ref => Sys2Proof.Machine.execJournalImport ref s
  | .replayArm ref => Sys2Proof.Machine.execReplayArm ref s
  | .swingDrainEnd ctx pair => Sys2Proof.Machine.execSwingDrainEnd ctx pair s
  | .digest ref => Sys2Proof.Machine.execDigest ref s
  | .ctxCreate ref => Sys2Proof.Machine.execCtxCreate ref s
  | .ctxSet ref => Sys2Proof.Machine.execCtxSet ref s
  | .ctxTeardown ref => Sys2Proof.Machine.execCtxTeardown ref s
  | .teardownComplete ctx => Sys2Proof.Machine.execTeardownComplete ctx s
  | .queueCreate ref => Sys2Proof.Machine.execQueueCreate ref s
  | .queueDestroy ref => Sys2Proof.Machine.execQueueDestroy ref s
  | .queueResume ref => Sys2Proof.Machine.execQueueResume ref s
  | .turnCreate ref => Sys2Proof.Machine.execTurnCreate ref s
  | .turnGrant ref => Sys2Proof.Machine.execTurnGrant ref s
  | .turnExportAdd ref => Sys2Proof.Machine.execTurnExportAdd ref s
  | .turnExportRemove ref => Sys2Proof.Machine.execTurnExportRemove ref s
  | .handleRelease ref => Sys2Proof.Machine.execHandleRelease ref s
  | .objCreate ref => Sys2Proof.Machine.execObjCreate ref s
  | .objRefAdd ref => Sys2Proof.Machine.execObjRefAdd ref s
  | .objRefDrop ref => Sys2Proof.Machine.execObjRefDrop ref s
  | .objectReclaim obj => Sys2Proof.Machine.execObjectReclaim obj s
  | .poolGrant ref => Sys2Proof.Machine.execPoolGrant ref s
  | .poolReclaim ref => Sys2Proof.Machine.execPoolReclaim ref s
  | .tlbInvalidate ref => Sys2Proof.Machine.execTlbInvalidate ref s
  | .windowCreate ref => Sys2Proof.Machine.execWindowCreate ref s
  | .windowDestroy ref => Sys2Proof.Machine.execWindowDestroy ref s
  | .hostWindowSet ref => Sys2Proof.Machine.execHostWindowSet ref s
  | .hostRead dpa want ecc => Sys2Proof.Machine.execHostRead dpa want ecc s
  | .hostWrite dpa bytes mask keep => Sys2Proof.Machine.execHostWrite dpa bytes mask keep s
  | .bisnpResponse grain dirty => Sys2Proof.Machine.execBisnpResponse grain dirty s
  | .bisnpTimeout grain => Sys2Proof.Machine.execBisnpTimeout grain s
  | .meshFlit link ok => Sys2Proof.Machine.execMeshFlit link ok s
  | .meshLinkFailure link => Sys2Proof.Machine.execMeshLinkFailure link s
  | .flitSend link => Sys2Proof.Machine.execFlitSend link s
  | .dataFlit link flit => Sys2Proof.Machine.execDataFlit link flit s
  | .idleFlit link flit => Sys2Proof.Machine.execIdleFlit link flit s
  | .retryReq link flit => Sys2Proof.Machine.execRetryReq link flit s
  | .linkRetrain link cause => Sys2Proof.Machine.execLinkRetrain link cause s
  | .trainingStep link find => Sys2Proof.Machine.execTrainingStep link find s
  | .trainingTimeout link => Sys2Proof.Machine.execTrainingTimeout link s
  | .packetForward link vc => Sys2Proof.Machine.execPacketForward link vc s
  | .readPacket => Sys2Proof.Machine.execReadPacket s
  | .writePacket => Sys2Proof.Machine.execWritePacket s
  | .atomicPacket => Sys2Proof.Machine.execAtomicPacket s
  | .turnSigPacket => Sys2Proof.Machine.execTurnSigPacket s
  | .readResp => Sys2Proof.Machine.execReadResp s
  | .ack => Sys2Proof.Machine.execAck s
  | .atomicResp => Sys2Proof.Machine.execAtomicResp s
  | .collSeg => Sys2Proof.Machine.execCollSeg s
  | .ident link id dom peerLink => Sys2Proof.Machine.execIdent link id dom peerLink s
  | .echo => Sys2Proof.Machine.execEcho s
  | .echoReply => Sys2Proof.Machine.execEchoReply s
  | .requestTimeout tag => Sys2Proof.Machine.execRequestTimeout tag s
  | .progressTimeout ref rank => Sys2Proof.Machine.execProgressTimeout ref rank s
  | .controlPeriod sense => Sys2Proof.Machine.execControlPeriod sense s
  | .meterSample sample => Sys2Proof.Machine.execMeterSample sample s
  | .capUnattainable tent => Sys2Proof.Machine.execCapUnattainable tent s
  | .capLeaseExpiry => Sys2Proof.Machine.execCapLeaseExpiry s
  | .thermalTrip sensor milliC => Sys2Proof.Machine.execThermalTrip sensor milliC s
  | .avsStepDone tent => Sys2Proof.Machine.execAvsStepDone tent s
  | .idleStop tent => Sys2Proof.Machine.execIdleStop tent s
  | .idleGate tent => Sys2Proof.Machine.execIdleGate tent s
  | .wakeRequest tent => Sys2Proof.Machine.execWakeRequest tent s
  | .islandActive tent => Sys2Proof.Machine.execIslandActive tent s
  | .ageingMeasurement tent sense => Sys2Proof.Machine.execAgeingMeasurement tent sense s
  | .refclkLoss => Sys2Proof.Machine.execRefclkLoss s
  | .refclkReturn => Sys2Proof.Machine.execRefclkReturn s
  | .referenceFallback => Sys2Proof.Machine.execReferenceFallback s
  | .inputSample levels => Sys2Proof.Machine.execInputSample levels s
  | .filteredLevelChange input => Sys2Proof.Machine.execFilteredLevelChange input s
  | .railsGood => Sys2Proof.Machine.execRailsGood s
  | .startFromRom => Sys2Proof.Machine.execStartFromRom s
  | .railFault rails => Sys2Proof.Machine.execRailFault rails s
  | .powerLoss => Sys2Proof.Machine.execPowerLoss s
  | .channelTrained chan result => Sys2Proof.Machine.execChannelTrained chan result s
  | .nvSaveStart => Sys2Proof.Machine.execNvSaveStart s
  | .nvSaveComplete set => Sys2Proof.Machine.execNvSaveComplete set s
  | .hello via msg => Sys2Proof.Machine.execHello via msg s
  | .proof via msg => Sys2Proof.Machine.execProof via msg s
  | .helloLockoutEnd source => Sys2Proof.Machine.execHelloLockoutEnd source s
  | .dictRead via msg => Sys2Proof.Machine.execDictRead via msg s
  | .dictWrite via msg => Sys2Proof.Machine.execDictWrite via msg s
  | .dictClose via msg => Sys2Proof.Machine.execDictClose via msg s
  | .discover via msg => Sys2Proof.Machine.execDiscover via msg s
  | .sessionTimeout session => Sys2Proof.Machine.execSessionTimeout session s
  | .dictMessage via msg => Sys2Proof.Machine.execDictMessage via msg s
  | .neighborSolicitation target => Sys2Proof.Machine.execNeighborSolicitation target s
  | .echoRequest dest data => Sys2Proof.Machine.execEchoRequest dest data s
  | .capW via msg => Sys2Proof.Machine.execCapW via msg s
  | .fracApply via msg => Sys2Proof.Machine.execFracApply via msg s
  | .learnReset via msg => Sys2Proof.Machine.execLearnReset via msg s
  | .refSel via msg => Sys2Proof.Machine.execRefSel via msg s
  | .saveNow via msg => Sys2Proof.Machine.execSaveNow via msg s
  | .route via msg => Sys2Proof.Machine.execRoute via msg s
  | .excludeSet via msg => Sys2Proof.Machine.execExcludeSet via msg s
  | .excludeClear via msg => Sys2Proof.Machine.execExcludeClear via msg s
  | .echoTarget via msg => Sys2Proof.Machine.execEchoTarget via msg s
  | .linkEnable via msg => Sys2Proof.Machine.execLinkEnable via msg s
  | .reEnable via msg => Sys2Proof.Machine.execReEnable via msg s
  | .banksAtCapPeak via msg => Sys2Proof.Machine.execBanksAtCapPeak via msg s
  | .operatorKey via msg => Sys2Proof.Machine.execOperatorKey via msg s
  | .tenantKey via msg => Sys2Proof.Machine.execTenantKey via msg s
  | .mr7Extend via msg => Sys2Proof.Machine.execMr7Extend via msg s
  | .quoteNonce via msg => Sys2Proof.Machine.execQuoteNonce via msg s
  | .fwImage via msg => Sys2Proof.Machine.execFwImage via msg s
  | .manifest via msg => Sys2Proof.Machine.execManifest via msg s
  | .restart via msg => Sys2Proof.Machine.execRestart via msg s
  | .cxlCacheCompletion done => Sys2Proof.Machine.execCxlCacheCompletion done s
  | .hostSnoop grain => Sys2Proof.Machine.execHostSnoop grain s
  | .regulatorNoAnswer tent => Sys2Proof.Machine.execRegulatorNoAnswer tent s
  | .moduleSensorRead chan milliC => Sys2Proof.Machine.execModuleSensorRead chan milliC s
  | .duplicateAddressDetection => Sys2Proof.Machine.execDuplicateAddressDetection s

end Sys2Proof.Machine
end

