-- ==== Sys2Proof/Safety.lean ====
section
/-!
DEFINITION. What counts as a safe step and which states are sound, in the terms that the statements use.
-/

namespace Sys2Proof.Machine

/-! ### The always-on domain -/

/-- What the always-on domain decides and keeps (R385 to R416, R432 to R435, R456, R466 to R473), with the queue of commands: the levels,
floors and shares of the steelyard, the islands, the clocks, the board inputs, the trip latch, the NV store and the measurement log. -/
structure AlwaysOn where
  pending : List Instr
  periods : Nat
  level : FMap Nat
  capLevel : FMap Nat
  thermal : FMap Nat
  fracs : List Nat
  islands : FMap Island
  clocks : Clocks
  inputs : Inputs
  trip : Trip
  nv : FMap NvSet
  log : List (List Byte)
deriving DecidableEq, Repr

/-- The always-on domain of a state. -/
def State.aon (s : State) : AlwaysOn :=
  { pending := s.pending, periods := s.periods, level := s.yard.level, capLevel := s.yard.capLevel, thermal := s.yard.thermal
    fracs := s.yard.fracs, islands := s.islands, clocks := s.clocks, inputs := s.inputs, trip := s.trip, nv := s.nv, log := s.boot.log }

/-- A board input between samples: a run against the filtered level has not reached 8, and a change that is due has ended its run (R468). -/
def InputFilter.sound (f : InputFilter) : Prop := f.run ≤ 7 ∧ (f.due = true → f.run = 0)

/-- A tent's regulator: its target lies at most one step from what it last reported, and on it where no step is under way (R387). -/
def Island.sound (i : Island) : Prop :=
  i.mv ≤ i.confirmed + 10 ∧ i.confirmed ≤ i.mv + 10 ∧ (i.stepping = false → i.mv = i.confirmed)

/-- The always-on domain as the manual keeps it: levels and floors from 0 to 56, the level not below the floor of any tent (R391), eight shares
that sum to 256 (R394), targets a step from what is reported (R387), runs of the board inputs below 8 (R468), clocks stopped while the trip is
latched (R472), at most 256 records of the measurement log (R456). -/
structure AlwaysOn.Sound (a : AlwaysOn) : Prop where
  levels : ∀ t, Assoc.get 0 a.level t ≤ 56 ∧ Assoc.get 0 a.capLevel t ≤ 56 ∧ Assoc.get 0 a.thermal t ≤ 56
  floors : ∀ t, Assoc.get 0 a.thermal t ≤ Assoc.get 0 a.level t ∧ Assoc.get 0 a.capLevel t ≤ Assoc.get 0 a.level t
  shares : a.fracs.length = 8 ∧ a.fracs.sum = 256
  targets : ∀ t, (Assoc.get {} a.islands t).sound
  pins : a.inputs.sysReset.sound ∧ a.inputs.perst.sound ∧ a.inputs.brake.sound ∧ a.inputs.alert.sound
  tripped : a.trip.latched = true → a.clocks.stopped = true
  log : a.log.length ≤ 256

/-! ### Issue -/

/-- The conditions under which an Alasha instruction issues (R40, R45, R64, R69, R104): its troupe is resident and may issue, R45 chooses the
subset `u` of it as ready (`t` is the troupe after that choice), no field of the word gives a reason for refusal, and the troupe is not
diverged at matrix instructions. -/
structure Issuing (s : State) (who : TroupeRef) (op : AlOp) (t : Troupe) (u : Subset) : Prop where
  resident : ∃ t0, s.troupe? who = some t0 ∧ s.mayIssue who t0 = true ∧ t0.choose (op.ready s who t0) = (t, some u)
  accepted : (op.need t).reasons = []
  converged : t.diverged? = none

/-- What an instruction leaves awaited: after a branch its results and the next instruction, for every thread of the subset; else results that
have a latency, for the participants (R37). -/
def AlOp.awaits (op : AlOp) (u : Subset) (n : Need) (ps : List Nat) : List Nat × List Nat :=
  if op.branch then (n.writes ++ [nextInstr], u.threads) else if op.latency then (n.writes, ps) else ([], [])

/-- The troupe as one subset, as a matrix instruction finds it (R133). -/
def Troupe.asOne (t : Troupe) (u : Subset) : Troupe := { t with subsets := [u], running := some u.low, runCount := 0 }

/-- The conditions under which a matrix instruction issues (R40, R95, R104, R133): its troupe is resident and may issue, the subset of it that
arrives is the last (`t` is the troupe with every thread at the instruction, `u` all its threads as one subset), its operands are available,
its queue has room, and no field of the word gives a reason for refusal. -/
structure MatrixIssuing (s : State) (who : TroupeRef) (op : AlOp) (t : Troupe) (u : Subset) : Prop where
  resident : ∃ t0 t1 u0, s.troupe? who = some t0 ∧ s.mayIssue who t0 = true ∧
    t0.choose (fun x => decide (x.wait = .none)) = (t1, some u0) ∧ t = t1.enterWait u0.low .matrix
  gathered : t.matrixReady? = some u
  ready : t.available u (op.need t) = true ∧ op.hold (s.setTroupe who t) who t u = false
  accepted : (op.need (t.asOne u)).reasons = []

/-- The booth issue slot in which the next instruction of a troupe issues (R36). -/
def State.slotOf (s : State) (who : TroupeRef) : Nat := ((s.ring who.ring.val).booth who.booth.val).slots

/-- The booth issue slots that an instruction takes which issues for the chosen troupe `t` (R35, R53, R54). -/
def State.costOf (s : State) (who : TroupeRef) (t : Troupe) (op : AlOp) (ps : List Nat) : Nat :=
  (s.setTroupe who t).issueSlots who t op (op.need t) ps

/-- The state after an instruction of `cost` slots of the troupe `t`, whose registers and threads it has left as in `t`: the counts of slots,
the register cache and the meters have moved on, and nothing else has changed (R35, R54, R343, R395). -/
def State.issued (s : State) (who : TroupeRef) (t : Troupe) (n : Need) (cost : Nat) : State := (s.takeSlots who t n cost).setTroupe who t

/-! ### Steps and memories -/

/-- A step that answers a next state. -/
def goesOn (o : Host.Outcome State Fault Refusal) : Prop := ∃ s, o = .next s

/-- What the module holds of its ells is in canonical form. -/
def dramSound (m : FMap DramEll) : Prop := ∀ p ∈ m, p.2.cipher.wf = true ∧ p.2.tags.wf = true

/-- The byte memories of the state keep their one canonical form: ells, ring scratchpads, and what the port holds of host memory. -/
def State.memSound (s : State) : Prop :=
  dramSound s.dram ∧ (∀ r ∈ s.rings, r.2.scratch.wf = true) ∧ s.hub.hostMem.wf = true

end Sys2Proof.Machine
end

