-- ==== Sys2Proof/Certificates/Slice0/Obligations.lean ====
section
/-!
DEFINITION. The statements for the provers. What a rule of the manual names and the model has no name for stands first, in the namespace
`Spec`; each statement's docstring names the rules it formalises.
-/

namespace Sys2Proof.Spec

open Sys2Proof.Machine

/-! ### The troupe of an Alasha instruction -/

/-- The troupe that an Alasha instruction is issued for; no other command has one here. -/
def troupeOf (i : Instr) : Option TroupeRef :=
  match i with
  | .mov w _ | .sel w _ | .iadd w _ | .isub w _ | .imul w _ | .imad w _ | .imin w _ | .imax w _ | .andOp w _ | .orOp w _ | .xorOp w _
  | .shl w _ | .shr w _ | .sar w _ | .popc w _ | .clz w _ | .setp w _ | .vote w _ | .shfl w _ | .fadd w _ | .fmul w _ | .ffma w _
  | .fmin w _ | .fmax w _ | .cvt w _ | .frcp w _ | .frsq w _ | .fexp2 w _ | .flog2 w _ | .bra w _ | .call w _ | .ret w _ | .exit w _
  | .ld w _ | .st w _ | .fenceG w _ | .atomAdd w _ | .atomMax w _ | .atomMin w _ | .atomCas w _ | .atomExch w _ | .redAdd w _
  | .redFold w _ | .turnSig w _ | .turnWait w _ | .barT w _ | .barR w _ | .dmaQ w _ | .allocOp w _ | .freeOp w _ | .statW w _
  | .nfChk w _ | .mxCfg w _ | .mxLdw w _ | .mxRun w _ | .mxDrn w _ => some w
  | _ => none

/-! ### The integer rows of R84 -/

/-- The word of an R form as a word form. -/
def intRow (i : Instr) : Option (TroupeRef × VForm) :=
  match i with
  | .iadd w f | .imul w f | .andOp w f | .orOp w f | .xorOp w f | .shl w f | .shr w f | .sar w f => some (w, f)
  | .isub w f | .imad w f | .imin w f | .imax w f | .popc w f | .clz w f => some (w, .r f)
  | _ => none

/-- GUARD of a word form. -/
def guardOf (f : VForm) : BitVec 5 := match f with | .r g => g.guard | .i g | .u g => g.guard
/-- Is the destination uniform? -/
def udstOf (f : VForm) : Bool := match f with | .r g => g.udst | .i _ => false | .u _ => true
/-- DST of a word form. -/
def dstOf (f : VForm) : Byte := match f with | .r g => g.dst | .i g | .u g => g.dst
/-- Registers of the destination: a pair for the 64-bit TYPEs (R73). -/
def dstRegs (f : VForm) : Nat := match f with | .r g => (if g.type = 2 ∨ g.type = 3 ∨ g.type = 5 then 2 else 1) | .i _ | .u _ => 1

/-- The value that a mnemonic's row of R84 gives at width w: A, B and C as unsigned or signed numbers. -/
def intTable (w : Nat) (i : Instr) (sgn : Bool) (a b c : BitVec w) : BitVec w :=
  match i with
  | .iadd _ _ => a + b
  | .isub _ _ => a - b
  | .imul _ (.r f) =>
    if f.sub = 1 then (if sgn then BitVec.ofInt w (a.toInt * b.toInt / 2 ^ w) else BitVec.ofNat w (a.toNat * b.toNat / 2 ^ w)) else a * b
  | .imul _ _ => a * b
  | .imad _ _ => a * b + c
  | .imin _ _ => if (if sgn then a.sle b else a.ule b) then a else b
  | .imax _ _ => if (if sgn then a.sle b else a.ule b) then b else a
  | .andOp _ _ => a &&& b
  | .orOp _ _ => a ||| b
  | .xorOp _ _ => a ^^^ b
  | .shl _ _ => a <<< (b.toNat % w)
  | .shr _ _ => a >>> (b.toNat % w)
  | .sar _ _ => a.sshiftRight (b.toNat % w)
  | .popc _ _ => BitVec.ofNat w ((List.range w).filter (fun n => a.getLsbD n)).length
  | .clz _ _ => BitVec.ofNat w (((List.range w).reverse.takeWhile (fun n => !a.getLsbD n)).length)
  | _ => 0

/-- The value for a thread: 64-bit operands are register pairs, and the I forms take IMM32 as B (R73, R74). -/
def intValue (i : Instr) (f : VForm) (t : Troupe) (th : Nat) : Nat :=
  match f with
  | .r g =>
    if g.type.toNat < 2 then
      (intTable 32 i (g.type == 1) (t.src (uA g) th g.srcA) (t.src (uB g) th g.srcB) (t.src (uC g) th g.srcC)).toNat
    else (intTable 64 i (g.type == 3) (t.srcPair (uA g) th g.srcA) (t.srcPair (uB g) th g.srcB) (t.srcPair (uC g) th g.srcC)).toNat
  | .i g => (intTable 32 i false (t.src false th g.srcA) g.imm 0).toNat
  | .u g => (intTable 32 i false (t.src true th g.srcA) g.imm 0).toNat

/-! ### Moves and comparisons -/

/-- An operand of a TYPE: one register, or a pair (R73). -/
def operand (t : Troupe) (type : BitVec 3) (uniform : Bool) (th : Nat) (field : Byte) : Nat :=
  if type = 2 ∨ type = 3 ∨ type = 5 then (t.srcPair uniform th field).toNat else (t.src uniform th field).toNat

/-- NEG flips the sign bit of every element of a floating-point TYPE (R72). -/
def signed (type : BitVec 3) (neg : Bool) (x : Nat) : Nat :=
  if neg then x ^^^ (if type = 4 then 0x80000000 else if type = 5 then 0x8000000000000000 else 0x80008000) else x

/-- The comparisons of SETP on numbers (R72). -/
def orderHolds (cond : BitVec 3) (x y : Int) : Bool :=
  match cond.toNat with
  | 0 => decide (x = y)
  | 1 => decide (x ≠ y)
  | 2 => decide (x < y)
  | 3 => decide (x ≤ y)
  | 4 => decide (x > y)
  | _ => decide (x ≥ y)

/-- The comparisons of SETP on floating-point values: a NaN makes every comparison but "not equal" and "unordered" false (R72). -/
def floatHolds (cond : BitVec 3) (x y : FVal) : Bool :=
  match cond.toNat with
  | 0 => FVal.eq x y
  | 1 => !FVal.eq x y
  | 2 => FVal.lt x y
  | 3 => FVal.lt x y || FVal.eq x y
  | 4 => FVal.lt y x
  | 5 => FVal.lt y x || FVal.eq x y
  | 6 => x.isNan || y.isNan
  | _ => !x.isFinite

/-- A floating-point operand: its format, element 0 of a 16-bit TYPE, negated under NEG (R72, R481). -/
def floatOperand (type : BitVec 3) (neg : Bool) (x : Nat) : FVal :=
  let v : FVal := match type.toNat with
    | 4 => decodeFmt 1 x
    | 5 => decodeFmt 0 x
    | 6 => decodeFmt 4 (x % 65536)
    | _ => decodeFmt 3 (x % 65536)
  if neg then v.negate else v

/-- A COND B under TYPE (R72, R481). -/
def holds (f : RForm) (a b : Nat) : Bool :=
  match f.type.toNat with
  | 0 => orderHolds f.cond (BitVec.ofNat 32 a).toNat (BitVec.ofNat 32 b).toNat
  | 1 => orderHolds f.cond (BitVec.ofNat 32 a).toInt (BitVec.ofNat 32 b).toInt
  | 2 => orderHolds f.cond (BitVec.ofNat 64 a).toNat (BitVec.ofNat 64 b).toNat
  | 3 => orderHolds f.cond (BitVec.ofNat 64 a).toInt (BitVec.ofNat 64 b).toInt
  | _ => floatHolds f.cond (floatOperand f.type (f.neg.getLsbD 1) a) (floatOperand f.type (f.neg.getLsbD 0) b)

/-! ### Floating point -/

/-- The floating-point rows of R84: the exact result before its one rounding. -/
def floatRow (i : Instr) : Option (TroupeRef × VForm × (FVal → FVal → FVal → FVal)) :=
  match i with
  | .fadd w f => some (w, f, fun x y _ => x.add y)
  | .fmul w f => some (w, f, fun x y _ => x.mul y)
  | .ffma w f => some (w, .r f, fun x y z => (x.mul y).add z)
  | .fmin w f => some (w, .r f, fun x y _ => x.minNum y)
  | .fmax w f => some (w, .r f, fun x y _ => x.maxNum y)
  | _ => none

/-- The transcendental rows of R78 with their opcodes. -/
def transRow (i : Instr) : Option (TroupeRef × RForm × Nat) :=
  match i with
  | .frcp w f => some (w, f, 0x71)
  | .frsq w f => some (w, f, 0x72)
  | .fexp2 w f => some (w, f, 0x73)
  | .flog2 w f => some (w, f, 0x74)
  | _ => none

/-- The value for a thread: each element decoded, negated under NEG, combined, and rounded to nearest even in the format of TYPE (R72, R77,
R481). -/
def floatValue (f : VForm) (g : FVal → FVal → FVal → FVal) (t : Troupe) (th : Nat) : Nat :=
  match f with
  | .r r =>
    let a := operand t r.type (uA r) th r.srcA
    let b := operand t r.type (uB r) th r.srcB
    let c := operand t r.type (uC r) th r.srcC
    let sg (n : Bool) (x : FVal) : FVal := if n then x.negate else x
    let el (fmt x y z : Nat) : Nat :=
      roundFmt fmt (g (sg (r.neg.getLsbD 1) (decodeFmt fmt x)) (sg (r.neg.getLsbD 0) (decodeFmt fmt y)) (decodeFmt fmt z))
    match r.type.toNat with
    | 4 => el 1 a b c
    | 5 => el 0 a b c
    | 6 => el 4 (a % 65536) (b % 65536) (c % 65536) + 65536 * el 4 (a / 65536) (b / 65536) (c / 65536)
    | _ => el 3 (a % 65536) (b % 65536) (c % 65536) + 65536 * el 3 (a / 65536) (b / 65536) (c / 65536)
  | .i w => roundFmt 1 (g (decodeFmt 1 (t.src false th w.srcA).toNat) (decodeFmt 1 w.imm.toNat) (.fin false 0 0))
  | .u w => roundFmt 1 (g (decodeFmt 1 (t.src true th w.srcA).toNat) (decodeFmt 1 w.imm.toNat) (.fin false 0 0))

/-! ### Control flow -/

/-- The PC after a one-word instruction (R70). -/
def nextPc (pc : Nat) : Nat := (pc + 8) % 2 ^ 57
/-- The target of BRA and CALL: the next PC plus the signed immediate, 57 bits (R74). -/
def jump (pc : Nat) (imm : W32) : Nat := (((pc : Int) + 8 + imm.toInt) % (2 ^ 57 : Int)).toNat

/-! ### Atomics -/

/-- The rows of ATOM. -/
def atomRow (i : Instr) : Option (TroupeRef × AtomOp × AtomForm) :=
  match i with
  | .atomAdd w f => some (w, .add, f)
  | .atomMax w f => some (w, .max, f)
  | .atomMin w f => some (w, .min, f)
  | .atomCas w f => some (w, .cas, f)
  | .atomExch w f => some (w, .exch, f)
  | _ => none

/-- The rows that ask a unit of the device for something: DMA.Q, ALLOC, FREE, STAT.W, turnstile instructions, atomics and reductions. -/
def asks (i : Instr) : Option TroupeRef :=
  match i with
  | .dmaQ w _ | .allocOp w _ | .freeOp w _ | .statW w _ | .turnSig w _ | .turnWait w _ | .atomAdd w _ | .atomMax w _ | .atomMin w _
  | .atomCas w _ | .atomExch w _ | .redAdd w _ | .redFold w _ => some w
  | _ => none

/-! ### Booths -/

/-- What every troupe of a booth would issue in this slot, oldest first, its instructions fetched (R38 to R40). -/
def looks (s : State) (ring : RingId) (booth : BoothId) : State × List (TroupeRef × Pick) :=
  (((s.ring ring.val).booth booth.val).troupes.map (fun t => t.slot)).foldl (fun acc slot =>
    ((acc.1.look ring booth slot).1, acc.2 ++ [((acc.1.look ring booth slot).2.1, (acc.1.look ring booth slot).2.2)])) (s, [])

/-- The level of a booth in its next a-cycle: read at the start of each run of 64 slots, and 56 under a brake (R390, R399). -/
def levelNow (s : State) (tent : Nat) (y : Booth) : Nat := if y.phase64 = 0 then Assoc.get 0 s.yard.level tent else y.level

/-- A bubble falls on the slot: a droop burst, or the even pattern of R390 at the level in force. -/
def bubbleNow (s : State) (tent : Nat) (y : Booth) : Bool :=
  s.yard.droop.contains tent ||
    (let l := if !s.inputs.brake.filtered || !s.inputs.alert.filtered then 56 else levelNow s tent y
     decide (y.phase64 * l / 64 < (y.phase64 + 1) * l / 64))

/-- The booth one slot further in its pattern. -/
def stepPattern (s : State) (tent : Nat) (y : Booth) (bubble : Bool) : Booth :=
  { y with level := levelNow s tent y, phase64 := (y.phase64 + 1) % 64, owed := if bubble then y.owed + 1 else y.owed }


/-! ### The memory side -/

/-- A request leaves its bank, from the queue or from the mesh, and one that waits on the mesh takes its place (R179, R189). -/
def popFront (s : State) (tent bank : Nat) (q : BReq) : State :=
  s.modTent tent (fun t => t.modBank bank (fun b =>
    (if q ∈ b.queue then { b with queue := b.queue.erase q } else { b with coming := b.coming.erase q }).letIn))

/-- A request has been served: it leaves its bank, and what waited for it may go on (R187, R189). -/
def leaves (s : State) (tent bank : Nat) (q : BReq) : State := (popFront s tent bank q).bushelDone

/-- The request that a bank serves now: it is the next one that replay does not hold back, no fold is due before it, and neither the host, nor
a failed channel, nor a drain holds its ell; for a load, store, read or write, no entry of the overflow queue can go on before it (R187, R189,
R207, R355, R366, R381). -/
def atFront (s : State) (tent bank : Nat) (q : BReq) : Prop :=
  (q.kind.plain = true → s.serveOverflow tent bank = (s, false)) ∧
    s.nextReq? [] (((s.tent tent).bank bank).queue ++ ((s.tent tent).bank bank).coming) = some q ∧
    s.foldForced (q.stepKey s / 2) q.ell = (s, true) ∧ s.forcedReq q = .go ∧ s.mayServe q = (s, true)

/-- The command that makes a bank serve a request (R57, R189). -/
def bankCommand (tent : TentId) (bank : BushelBankId) (q : BReq) : Instr :=
  if q.kind.atomic then .atomicRequest (.bushel tent bank) else .bushelRequest tent bank

/-- The place of a request among the misses: the next one, or that of its first arrival (R188). -/
def orderOf (s : State) (tent : Nat) (q : BReq) : Nat := q.place.getD (s.tent tent).nextOrder

/-- The tent after a request has its place. -/
def ordered (s : State) (tent : Nat) (q : BReq) : State :=
  if q.place = none then s.modTent tent (fun t => { t with nextOrder := t.nextOrder + 1 }) else s

/-- A request is refused: it is to be sent again, and counted (R187, R190). -/
def refused (s : State) (tent : Nat) (q : BReq) : State :=
  ((ordered s tent q).modTent tent (fun t => { t with
    refused := t.refused ++ [⟨(bankKey q.ell).getD 0, orderOf s tent q, { q with place := some (orderOf s tent q) }⟩] })).modTentCounters tent
      (fun c => { c with refusedSends := bump c.refusedSends 1 })

/-- A request goes to the overflow queue of its bank, where one for device memory is counted, or is refused when that holds 64 (R187, R190). -/
def overflowed (s : State) (tent bank : Nat) (q : BReq) : State :=
  if 64 ≤ ((s.tent tent).bank bank).overflow.length then refused s tent q
  else
    let s1 := (ordered s tent q).modTent tent (fun t => t.modBank bank (fun b => { b with
      overflow := b.overflow ++ [{ q with place := some (orderOf s tent q) }] }))
    if isHostEll q.ell then s1
    else s1.modChanCounters (placeOf q.ell).channel (fun c => { c with missCapEvents := bump c.missCapEvents 1 })

/-- A miss register is taken, with what is held of the ell and the frame reserved (R186). -/
def opened (s : State) (tent n : Nat) (q : BReq) (copy : EllCopy) (frame : Option Nat) : State :=
  (ordered s tent q).modTent tent (fun t => { t with
    miss := Assoc.put t.miss n { ell := q.ell, copy, frame, bypass := q.kind.noAlloc, order := orderOf s tent q, waiters := [q] } })

/-- A request is no hit: what it reads of its own ell is not held, or, with no frame, it reads something or may not be written unread (R185,
R202, R222, R230). -/
def misses (s : State) (tent : Nat) (q : BReq) : Prop :=
  (s.tent tent).fetching q.ell = false ∧
    match (s.tent tent).copyOf? q.ell with
    | some c => c.owned (s.keyed c q).key (s.keyed c q).gen = true ∧ c.has q.grain = false ∧ q.kind.whole = false
    | none =>
      if isHostEll q.ell then (∀ op bs keep, q.kind ≠ .store op bs keep) ∧ ∀ who, q.kind ≠ .read who
      else
        let k := s.keyed (s.headerCopy q.ell) q
        q.kind.writes = false ∨ ((s.headerCopy q.ell).owned k.key k.gen = true ∧
          ¬ (q.kind.whole = true ∧ q.kind.noAlloc = false ∧ s.headerChecked q.ell = true))

/-- An access of the copy in frame `k`, which becomes the most recent unless the request does not allocate (R192, R193, R202). -/
def touched (s : State) (tent k : Nat) (q : BReq) : State := if q.kind.noAlloc then s else s.modTent tent (fun t => t.touch k)

/-- A copy after bytes are written into grain `g` under a key: another owner's ell counts as zeros (R171, R194, R230, R239). -/
def written (c : EllCopy) (key gen g : Nat) (bs : List (Nat × Byte)) : EllCopy :=
  let c := c.taken key gen
  { c with
    data := Mem.writeBytes c.data (64 * g) (mergeGrain (c.base g) bs), present := setBit c.present g, dirty := setBit c.dirty g
    dead := clearBit c.dead g, zero := clearBit c.zero g, fold := false, bad := Assoc.del c.bad g }

/-- A copy of a host ell stays clean: what is written goes through the CXL port (R185). -/
def cleaned (c : EllCopy) (new : EllCopy) : EllCopy := if isHostEll c.ell then { new with dirty := 0 } else new

/-- The journal's record of a request that replay lets go on (R376, R381). -/
def recorded (s : State) (ctx : Nat) (cmd : CmdRef) (kind : Nat) (key : W64) (source : Nat) : State :=
  (s.takeForced (s.stepKey ctx cmd) key).jrnRequest (s.stepKey ctx cmd) kind key source

/-- Operands of a combined atomic, by entry. -/
def entries (op : AtomOp) (type : Nat) (c : CombOp) : List (Nat × Nat) :=
  atomEntries op type c.fetch (c.parts.map (fun p => (p.x.toNat, p.n.toNat)))

/-- The first address of a combined request. -/
def addrOf (c : CombOp) : Nat := (c.parts.headD { thread := 0, addr := 0, x := 0 }).addr

/-- Who waits for the writes of a combined request. -/
def writerOf (q : BReq) (c : CombOp) : WrWho := .ring (Fin.ofNat 192 q.ring) c.write

/-- After a RED.ADD a non-finite accumulator is reported; the instruction's trap is raised when this was its last request (R162 to R164). -/
def nfAfter (s : State) (c : CombOp) (y : FVal) (fmt : Nat) : State :=
  State.settleTrap (if y.isFinite then s else s.requestNf c
    (nfDetail 4 (nfKind y) false (c.parts.headD { thread := 0, addr := 0, x := 0 }).thread 0 0 0 0 fmt)) c.who.ring.val c.write

/-- The grains of a host ell that a fold or release writes through the CXL port: those that are not poisoned (R185, R239, R358). -/
def imageGrains (c : EllCopy) : List Nat := (List.range 16).filter (fun g => (Assoc.find? c.bad g).isNone)

/-- A fold or release writes its result to host memory. -/
def imageSent (s : State) (c : EllCopy) (who : WrWho) : State :=
  (imageGrains c).foldl (fun (s : State) g => s.hostWrite (grainOfEll c.ell g) ((List.range 64).zip (c.grain g)) who) s

/-- The end of a RED.FOLD request whose image is converted: the acknowledgement (of host memory, once each of its grains is written), the
saturations, a non-finite result, and a poisoned grain (R162, R185, R198, R239). -/
def released (s : State) (q : BReq) (o : CombOp) (fmt : Nat) (c : EllCopy) (d : RedDone) : State :=
  let n := if isHostEll c.ell then (imageGrains c).length else 0
  let s1 := if isHostEll c.ell then imageSent s c (writerOf q o) else s
  let s2 := if n = 0 then s1.performed (writerOf q o)
    else s1.modRing q.ring (fun x => match Assoc.find? x.writes o.write with
      | some y => { x with writes := Assoc.put x.writes o.write { y with left := y.left + (n - 1) } }
      | none => x)
  let s3 := s2.addSat o.ctx d.sat
  let s4 := match d.nf with
    | some kind => s3.requestNf o (nfDetail 5 kind false (o.parts.headD { thread := 0, addr := 0, x := 0 }).thread 0 0 0 0 fmt)
    | none => s3
  match d.bad with
  | some r => o.fault s4 7 r
  | none => s4.settleTrap o.who.ring.val o.write

/-- Participants of a combined instruction that go into one request: those of one address, or of one ell for RED.FOLD (R56, R90). -/
def groupKey (c : CombOp) (p : Part) : Nat :=
  match c.kind with
  | .redFold _ _ => ellOfGrain (p.addr / 64)
  | _ => p.addr

/-- A miss register of a device ell takes a read slot: it joins the reads of its DRAM bank, and the peak of banks at their cap follows (R187,
R190). -/
def slotTaken (s : State) (tent reg : Nat) (m : MissReg) : State :=
  let t := s.modTent tent (fun t => { t with miss := Assoc.put t.miss reg { m with st := .issued } })
  t.modChan (placeOf m.ell).channel (fun c => { c with
    reads := Assoc.put c.reads (dramBank m.ell) (Assoc.get [] c.reads (dramBank m.ell) ++ [reg])
    counters := { c.counters with banksAtCapPeak := max c.counters.banksAtCapPeak ((t.tent tent).capped (placeOf m.ell).channel) } })

/-- A miss register of a host ell asks the host for the grains that it lacks (R185). -/
def hostAsked (s : State) (tent reg : Nat) (m : MissReg) : State :=
  let gs := ((List.range 16).filter (fun g => !m.copy.has g)).map (grainOfEll m.ell)
  gs.foldl (fun (s : State) g =>
    (s.modHub (fun h => { h with hostReads := h.hostReads ++ [⟨g, none⟩] })).emit (.cxlRead (g - hostGrain)))
    (s.modTent tent (fun t => { t with miss := Assoc.put t.miss reg { m with st := if gs = [] then .returning [] else .host gs } }))

/-- What an ell's header says of a copy that is stored again (R214, R216 to R218). -/
def storedHeader (c : EllCopy) : EllHeader :=
  let z := compress c.plainData
  { owner := c.owner, gen := c.gen, stored := z.stored, form := z.form, wmap := z.wmap, fold := c.fold, zero := z.zero, dead := c.dead }

/-- Corrections of a position in the 24 hour buckets (R221). -/
def countOf (c : Chan) (rank sub : Fin 2) (sym : Fin 10) : Nat := (Assoc.get [] c.buckets (rank.val * 20 + sub.val * 10 + sym.val)).foldl (· + ·) 0

/-- Corrections of a row in the 24 hour buckets (R223). -/
def rowCount (c : Chan) (r : RowId) : Nat := (((c.rowCorr.find? (fun x => x.1 == r)).map (·.2)).getD []).foldl (· + ·) 0

/-- Spare rows of a row's bank in use or being filled (R223). -/
def sparesOf (c : Chan) (r : RowId) : Nat :=
  (c.remaps.filter (fun x => x.1.bank == r.bank && x.1.sub == r.sub)).length +
    (c.remapping.filter (fun x => x.bank == r.bank && x.sub == r.sub)).length

/-! ### Commands of the queues -/

/-- A field of a command's word. -/
def field (c : Cmd) (i hi lo : Nat) : Nat := bits (cmdWord c.words i) hi lo

/-- A command of a Live context that has been accepted and whose own row has not run (R318, R332). -/
def dueIn (s : State) (ref : CmdRef) (op ctx : Nat) (c : Cmd) : Prop :=
  s.cmd? ref = some c ∧ c.st = .accepted ∧ cmdOp c.words = op ∧ c.ctx = some ctx ∧ s.ctxLive ctx = true

/-- A command of an admin queue that has been accepted and whose own row has not run. -/
def dueAdmin (s : State) (ref : CmdRef) (op : Nat) (c : Cmd) : Prop :=
  s.cmd? ref = some c ∧ c.st = .accepted ∧ cmdOp c.words = op ∧ c.ctx = none

/-- A command finished with a status (R328). -/
def finished (c : Cmd) (status : Nat) (err : Bool) : Cmd := { c with st := .finished, status, err := c.err || err }

/-- A malformed command: PARTIAL, an empty PART_MAP, CAUSE 0x000A, its turnstile to be signalled with the error bit (R329). -/
def malformed (c : Cmd) : Cmd := { c with st := .finished, status := 8, err := true, cause := 10, partMap := 0 }

/-- Admin or context queue that takes doorbells (R317, R341, R446). -/
def open_ (s : State) (q : Nat) (k : Queue) : Prop :=
  s.queue? q = some k ∧ s.boot.queues = true ∧ s.boot.hostLink ≠ .ioOnly ∧ k.halted = false ∧ k.stopped = false ∧ k.destroying = false ∧
    s.haltDue q = false ∧
    (k.admin = false → s.ctxLive k.ctx = true)

/-- A command is complete: it leaves the barker's table, and what came for it is dropped (R348). -/
def closed (s : State) (ref : CmdRef) : State :=
  (s.modHub (fun h => { h with cmds := Assoc.del h.cmds (cmdKey ref) })).forgetAnswers (fun a => a == .cmd ref)

/-- A DISPATCH with a fixed placement ends the idleness of the tents whose rings its groups wait for (R410). -/
def awaited (s : State) (d : DispatchSt) : State :=
  if d.fixed then (List.range 8).foldl (fun (s : State) t =>
    if ∃ r ∈ d.rings, tentOfRing r = t then s.modIsland t (fun i => { i with idleSince := none }) else s) s
  else s

/-! ### Collectives -/

/-- The collective rows with their OP (R291). -/
def collRow (i : Instr) : Option (CmdRef × Nat) :=
  match i with
  | .allReduce r => some (r, 0)
  | .reduceScatter r => some (r, 1)
  | .allGather r => some (r, 2)
  | .allToAll r => some (r, 3)
  | .broadcast r => some (r, 4)
  | .fusedNorm r => some (r, 5)
  | .carousel r => some (r, 6)
  | .digestCompare r => some (r, 7)
  | _ => none

/-- A collective as it starts: its group, its rank and the group's next COLL_SEQ (R290, R295). -/
def starting (s : State) (ref : CmdRef) (ctx key my : Nat) (words : List W64) (members : List (Nat × Bool)) : Coll :=
  { ref, ctx, words, key, members, my, seq := Assoc.get 0 s.net.collSeq key }

/-- The collective of a command accepted and due: no earlier one waits and fewer than 16 run (R289). -/
def collDue (s : State) (ref : CmdRef) (op ctx : Nat) (c : Cmd) : Prop :=
  dueIn s ref 3 ctx c ∧ field c 3 31 28 = op ∧ c.cause = 0 ∧ s.net.colls.length < 16 ∧
    ∀ x ∈ s.hub.cmds, cmdOp x.2.words = 3 → x.2.st = .accepted → c.order ≤ x.2.order

/-- A collective has left the table, and what came for it is dropped. -/
def withoutColl (s : State) (ref : CmdRef) : State :=
  (s.modNet (fun n => { n with colls := n.colls.filter (fun x => x.ref != ref) })).forgetAnswers (fun a => match a with
    | .coll r _ => r == ref
    | _ => false)

/-- Level l + 1 of the ordered tree: value i is value 2i plus value 2i + 1 of level l, or value 2i alone (R296). -/
def treeLevel {α : Type} (add : α → α → α) (l next : List α) : Prop :=
  next.length = (l.length + 1) / 2 ∧ ∀ i < next.length, next[i]? = (match l[2 * i]?, l[2 * i + 1]? with
    | some a, some b => some (add a b)
    | a, _ => a)

/-! ### Links -/

/-- What a good flit tells the sender of the other direction (R267): flits up to ACK are acknowledged, and credits come back, never more than 64
on a channel. -/
def acked (k : Link) (f : Flit) : Link :=
  let n := Link.counters k
  let k1 := { k with retry := k.retry.filter (fun x => !seqLe x.seq f.ack), resend := k.resend.filter (fun x => !seqLe x.seq f.ack)
                     counters := { n with received := bumpAt n.received f.ftype.toNat 1 }
                     credits := Assoc.put k.credits f.cvc.toNat (min 64 (Assoc.get 0 k.credits f.cvc.toNat + f.credits.toNat)) }
  { k1 with retryCount := if k1.retry.length = k.retry.length then k.retryCount else 0 }

/-! ### Power -/

/-- Mean power of each of the 15 rails over the period that has ended, in watt; that of the period before where no sample came (R385, R400). -/
def railPower (s : State) : List Rat :=
  (List.range 15).map (fun i => if s.yard.samples = 0 then s.yard.power.getD i 0
    else (s.yard.sums.getD i 0 : Rat) / ((s.yard.samples * 10 ^ 6 : Nat) : Rat))

/-- The budgets of the eight tents out of what the cap leaves beside the non-tent rails, with D afterwards (R394, R395); `v` stands where the
manual's quotient has no value. -/
def tentBudgets (s : State) (v : W64) : FMap Rat × List Rat :=
  s.budgets (railPower s) (s.yard.effective - ratSum ((railPower s).drop 8)) (v.toInt : Rat)

/-- cap_level of a tent after the control law (R393): x is its power less its budget; a stopped tent has level 0, and one of a held brake 56
(R399, log entry 187). -/
def lawLevel (s : State) (v : W64) (t : Nat) : Nat :=
  let p := (railPower s).getD t 0
  let x := p - (tentBudgets s v).2.getD t 0
  let d : Int := if p = 0 then v.toInt else if 0 < x then ratCeil (64 * x / p) else -(ratFloor (64 * (-x) / p))
  if s.tentActive t = false then 0 else if s.braked then 56 else (min (max ((Assoc.get 0 s.yard.capLevel t : Nat) + d) 0) 56).toNat

/-- Thermal floor of a tent after a period (R398). -/
def lawFloor (s : State) (junction : List Int) (t : Nat) : Nat :=
  let old := Assoc.get 0 s.yard.thermal t
  let j : Rat := (junction.getD t 0 : Rat) / 1000
  let throttle := realOf (s.dictVal 0xA001 1 0x42C80000)
  if throttle ≤ j then min (old + 4) 56 else if j < throttle - 5 then old - 1 else old

/-- Is a tent over its budget (R393)? -/
def overBudget (s : State) (v : W64) (t : Nat) : Bool :=
  s.tentActive t && decide ((tentBudgets s v).2.getD t 0 < (railPower s).getD t 0)

/-- A value for each of the eight tents. -/
def perTent (f : Nat → Nat) : FMap Nat := (List.range 8).map (fun t => (t, f t))

/-! ### Whole-machine rules -/

/-- A host access beyond the 2,560 GiB of the HDM decoder (R309), which names nothing. -/
def nowhere (i : Instr) : Prop :=
  match i with
  | .hostRead dpa _ _ => Config.dpaLimit ≤ dpa
  | .hostWrite dpa _ _ _ => Config.dpaLimit ≤ dpa
  | _ => False

/-- The commands of the always-on domain and of the management controller: power, clocks, islands, ageing, start-up, board inputs, the NV store
and the object dictionary. -/
def alwaysOnRow (i : Instr) : Bool :=
  match i with
  | .meterSample _ | .capLeaseExpiry | .capUnattainable _ | .idleStop _ | .idleGate _ | .wakeRequest _ | .islandActive _ | .controlPeriod _
  | .avsStepDone _ | .regulatorNoAnswer _ | .ageingMeasurement _ _ | .refclkLoss | .refclkReturn | .referenceFallback | .moduleSensorRead _ _
  | .nvSaveStart | .nvSaveComplete _ | .railsGood | .railFault _ | .powerLoss | .startFromRom | .channelTrained _ _ | .filteredLevelChange _
  | .inputSample _ | .thermalTrip _ _ | .hello _ _ | .proof _ _ | .helloLockoutEnd _ | .sessionTimeout _ | .discover _ _ | .dictRead _ _
  | .banksAtCapPeak _ _ | .capW _ _ | .fracApply _ _ | .learnReset _ _ | .refSel _ _ | .saveNow _ _ | .route _ _ | .excludeSet _ _
  | .excludeClear _ _ | .echoTarget _ _ | .linkEnable _ _ | .reEnable _ _ | .operatorKey _ _ | .tenantKey _ _ | .mr7Extend _ _
  | .quoteNonce _ _ | .fwImage _ _ | .manifest _ _ | .restart _ _ | .dictWrite _ _ | .dictClose _ _ | .dictMessage _ _
  | .neighborSolicitation _ | .echoRequest _ _ | .duplicateAddressDetection => true
  | _ => false

end Sys2Proof.Spec

open Sys2Proof Sys2Proof.Machine

/-! ### The queue and the step -/

/-- A step runs the command at the front of the queue on the state with the queue's rest; with no command waiting the block idles (the model's
choice, log entry 2). -/
def Obligations.StepRunsFront : Prop :=
  (∀ (c : Instr) (rest : List Instr) (s : State), s.pending = c :: rest → step s = exec c { s with pending := rest }) ∧
  ∀ s : State, s.pending = [] → step s = .next s

/-! ### Issue of Alasha instructions (R34 to R45, R70, R104) -/

/-- R104, R70, R37, R44: an instruction that R45 chooses and that no test refuses issues: its slots are counted, its subset's PC moves on by the
words of the instruction modulo 2^57, its run grows by 1 and its results are pending, after a branch with the next instruction of the troupe;
then it has its effect, and R134 is applied. When reasons
to refuse it apply, the smallest is reported: the troupe takes ILLEGAL_INSTRUCTION with it, at the PC of the instruction, and the instruction
has no other effect. -/
def Obligations.InstructionIssues : Prop :=
  (∀ (i : Instr) (who : TroupeRef) (op : AlOp) (s s1 : State) (t t' : Troupe) (u : Subset) (ps : List Nat), Spec.troupeOf i = some who →
    opOf i = some op → op.matrix = false → Issuing s who op t u → ps = participants t u op.guard → op.test s who t u ps = (s1, .go) →
    t' = t.advance u op (op.need t) ps (s1.slotOf who) →
    exec i s = .next ((op.act ((s1.setTroupe who t).issued who t' (op.need t) (s1.costOf who t op ps)) who t' u ps
      (s1.slotOf who)).checkDiverged who) ∧
    t'.subsets = t.subsets.map (fun x => if x.low = u.low then { u with pc := (u.pc + 8 * op.words) % 2 ^ 57 } else x) ∧
    t'.runCount = t.runCount + 1 ∧ t'.v = t.v ∧ t'.u = t.u ∧ t'.p = t.p ∧ t'.acc = t.acc ∧
    (∀ regs ths, op.awaits u (op.need t) ps = (regs, ths) →
      t'.pending = if regs ≠ [] ∧ ths ≠ [] then t.pending ++ [⟨t.nextId, regs, ths, false⟩] else t.pending)) ∧
  ∀ (i : Instr) (who : TroupeRef) (op : AlOp) (s s1 : State) (t0 t : Troupe) (u : Subset) (v : Verdict) (r : Nat), Spec.troupeOf i = some who →
    opOf i = some op → op.matrix = false → s.troupe? who = some t0 → s.mayIssue who t0 = true →
    t0.choose (op.ready s who t0) = (t, some u) → op.test s who t u (participants t u op.guard) = (s1, v) →
    r ∈ (op.need t).reasons ++ v.reasons → (∀ x ∈ (op.need t).reasons ++ v.reasons, r ≤ x) →
    exec i s = .next ((s1.setTroupe who t).troupeFault who t 10 r u.pc 0 0)

/-- R50, R73, R482: what writing a result does. A vector result goes to its register, or pair with the high half above, of every participant;
0xFF discards it; a uniform result is written once, as for the first participant; every other register keeps its value. A vector source 0xFF
reads as 0. -/
def Obligations.RegisterWrites : Prop :=
  ∀ (t : Troupe) (ps : List Nat) (val : Nat → Nat) (dst : Byte) (k : Nat),
    (dst ≠ 0xFF → dst.toNat + k ≤ 255 → ∀ th n, n < 256 →
      (t.writeAll false dst k ps val).getV th n =
        if th ∈ ps ∧ dst.toNat ≤ n ∧ n < dst.toNat + k then BitVec.ofNat 32 (val th >>> (32 * (n - dst.toNat))) else t.getV th n) ∧
    t.writeAll false 0xFF k ps val = t ∧
    (∀ p rest n, ps = p :: rest → dst.toNat % 64 + k ≤ 64 → n < 64 →
      (t.writeAll true dst k ps val).getU n =
        if dst.toNat % 64 ≤ n ∧ n < dst.toNat % 64 + k then BitVec.ofNat 32 (val p >>> (32 * (n - dst.toNat % 64))) else t.getU n) ∧
    t.writeAll true dst k [] val = t ∧
    (∀ udst, t.writeAll udst dst k ps val = { t with v := (t.writeAll udst dst k ps val).v, u := (t.writeAll udst dst k ps val).u }) ∧
    (t.writeAll false dst k ps val).u = t.u ∧ (t.writeAll true dst k ps val).v = t.v ∧
    (∀ th, t.src false th 0xFF = 0 ∧ t.srcPair false th 0xFF = 0) ∧
    ∀ (n : Nat) (b : Bool) (th m : Nat), n < 8 → m < 8 →
      (t.setPred ps n b).getP th m = if th ∈ ps ∧ m = n then b else t.getP th m

/-- R84: the integer and logic mnemonics, in every form and for every integer TYPE: each participant's destination takes the value of the
mnemonic's row at the operand width, and nothing else changes but the PC, the run and the counts of slots. -/
def Obligations.IntegerResults : Prop :=
  ∀ (i : Instr) (who : TroupeRef) (f : VForm) (op : AlOp) (s : State) (t : Troupe) (u : Subset) (ps : List Nat),
    Spec.intRow i = some (who, f) → opOf i = some op → Issuing s who op t u → ps = participants t u (Spec.guardOf f) →
    exec i s = .next (s.issued who
      ((t.advance u op (op.need t) ps (s.slotOf who)).writeAll (Spec.udstOf f) (Spec.dstOf f) (Spec.dstRegs f) ps (Spec.intValue i f t))
      (op.need t) (s.costOf who t op ps))

/-- R84, R86: MOV, SEL and SHFL write a register; SETP, VOTE any and all, and NF.CHK write a predicate of the participants; VOTE with SUB 2
writes the mask of the thread's own 32-thread part. Nothing else changes but the PC, the run and the counts of slots. -/
def Obligations.MovesAndPredicates : Prop :=
  (∀ (who : TroupeRef) (f : VForm) (s : State) (t : Troupe) (u : Subset) (ps : List Nat), Issuing s who (opMov f) t u →
    ps = participants t u (Spec.guardOf f) →
    exec (.mov who f) s = .next (s.issued who ((t.advance u (opMov f) ((opMov f).need t) ps (s.slotOf who)).writeAll (Spec.udstOf f)
      (Spec.dstOf f) (Spec.dstRegs f) ps (fun th => match f with
        | .r g => Spec.signed g.type (g.neg.getLsbD 1) (Spec.operand t g.type (uA g) th g.srcA)
        | .i g | .u g => g.imm.toNat)) ((opMov f).need t) (s.costOf who t (opMov f) ps))) ∧
  (∀ (who : TroupeRef) (f : RForm) (s : State) (t : Troupe) (u : Subset) (ps : List Nat), Issuing s who (opSel f) t u →
    ps = participants t u f.guard →
    exec (.sel who f) s = .next (s.issued who ((t.advance u (opSel f) ((opSel f).need t) ps (s.slotOf who)).writeAll f.udst f.dst
      (typeRegs f.type) ps (fun th => if t.getP th (f.srcC.toNat % 8)
        then Spec.signed f.type (f.neg.getLsbD 1) (Spec.operand t f.type (uA f) th f.srcA)
        else Spec.signed f.type (f.neg.getLsbD 0) (Spec.operand t f.type (uB f) th f.srcB))) ((opSel f).need t) (s.costOf who t (opSel f) ps))) ∧
  (∀ (who : TroupeRef) (f : RForm) (s : State) (t : Troupe) (u : Subset) (ps : List Nat), Issuing s who (opShfl f) t u →
    ps = participants t u f.guard →
    exec (.shfl who f) s = .next (s.issued who ((t.advance u (opShfl f) ((opShfl f).need t) ps (s.slotOf who)).writeAll f.udst f.dst
      1 ps (fun th =>
        let lane := th / 32 * 32 + (t.src (uB f) th f.srcB).toNat % 32
        if lane ∈ ps then (t.src (uA f) lane f.srcA).toNat else 0)) ((opShfl f).need t) (s.costOf who t (opShfl f) ps))) ∧
  (∀ (who : TroupeRef) (f : RForm) (s : State) (t : Troupe) (u : Subset) (ps : List Nat), Issuing s who (opSetp f) t u →
    ps = participants t u f.guard →
    exec (.setp who f) s = .next (s.issued who (ps.foldl (fun x th => x.setPred [th] (f.dst.toNat % 8)
      (Spec.holds f (Spec.operand t f.type (uA f) th f.srcA) (Spec.operand t f.type (uB f) th f.srcB)))
      (t.advance u (opSetp f) ((opSetp f).need t) ps (s.slotOf who))) ((opSetp f).need t) (s.costOf who t (opSetp f) ps))) ∧
  (∀ (who : TroupeRef) (f : RForm) (s : State) (t : Troupe) (u : Subset) (ps yes : List Nat), Issuing s who (opVote f) t u →
    ps = participants t u f.guard → yes = ps.filter (fun th => t.getP th (f.srcA.toNat % 8)) →
    exec (.vote who f) s = .next (s.issued who (
      let t' := t.advance u (opVote f) ((opVote f).need t) ps (s.slotOf who)
      if f.sub = 0 then t'.setPred ps (f.dst.toNat % 8) (decide (∃ th ∈ ps, t.getP th (f.srcA.toNat % 8) = true))
      else if f.sub = 1 then t'.setPred ps (f.dst.toNat % 8) (decide (∀ th ∈ ps, t.getP th (f.srcA.toNat % 8) = true))
      else t'.writeAll false f.dst 1 ps (fun th => (yes.filter (fun x => x / 32 == th / 32)).foldl (fun m x => m ||| (1 <<< (x % 32))) 0))
      ((opVote f).need t) (s.costOf who t (opVote f) ps))) ∧
  (∀ (who : TroupeRef) (f : RForm) (s : State) (t : Troupe) (u : Subset) (ps : List Nat), Issuing s who (opNfChk f) t u →
    ps = participants t u f.guard →
    exec (.nfChk who f) s = .next (s.issued who ((t.advance u (opNfChk f) ((opNfChk f).need t) ps (s.slotOf who)).setPred ps
      (f.dst.toNat % 8) (if f.sub = 0 then (match s.ctx? t.ctx with | some c => c.nf | none => false)
        else (Assoc.find? t.nf (f.srcA.toNat % 16)).isSome)) ((opNfChk f).need t) (s.costOf who t (opNfChk f) ps)))

/-- R77, R78, R84, R481: the floating-point mnemonics. Every element is the exact result of its row on the decoded operands, rounded once to
nearest even; both elements of a 16-bit TYPE. FRCP, FRSQ, FEXP2 and FLOG2 give what `transcend`, the model's function of R78, gives for the
operand with its sign flipped under NEG, and the canonical NaN for a NaN. Of a finite operand (for FRCP not 0, for FRSQ and FLOG2 positive) that
is one of `ulpCandidates` for the number bracketed on a grid of 2^-400, which one being open (log entry 122); each of them lies within 1 unit in
the last place of every number in the bracket, or is the infinity where the number passes the largest finite one. For FRCP and FRSQ the bracket
is that of the exact result; for FEXP2 and FLOG2 it is the one that the model computes. Nothing else changes but the PC, the run and the counts of
slots. -/
def Obligations.FloatResults : Prop :=
  (∀ (i : Instr) (who : TroupeRef) (f : VForm) (g : FVal → FVal → FVal → FVal) (op : AlOp) (s : State) (t : Troupe) (u : Subset)
    (ps : List Nat), Spec.floatRow i = some (who, f, g) → opOf i = some op → Issuing s who op t u → ps = participants t u (Spec.guardOf f) →
    exec i s = .next (s.issued who
      ((t.advance u op (op.need t) ps (s.slotOf who)).writeAll (Spec.udstOf f) (Spec.dstOf f) (Spec.dstRegs f) ps (Spec.floatValue f g t))
      (op.need t) (s.costOf who t op ps))) ∧
  (∀ (i : Instr) (who : TroupeRef) (f : RForm) (opcode : Nat) (op : AlOp) (s : State) (t : Troupe) (u : Subset) (ps : List Nat),
    Spec.transRow i = some (who, f, opcode) → opOf i = some op → Issuing s who op t u → ps = participants t u f.guard →
    exec i s = .next (s.issued who
      ((t.advance u op (op.need t) ps (s.slotOf who)).writeAll f.udst f.dst 1 ps (fun th =>
        (transcend opcode (if f.neg.getLsbD 1 then t.src (uA f) th f.srcA ^^^ 0x80000000#32 else t.src (uA f) th f.srcA)).toNat))
      (op.need t) (s.costOf who t op ps)) ∧ ∀ x : W32, decodeFmt 1 x.toNat = .nan → transcend opcode x = 0x7FC00000#32) ∧
  (∀ (x : W32) (n : Bool) (m : Nat) (e : Int), decodeFmt 1 x.toNat = .fin n m e →
    (m ≠ 0 → transcend 0x71 x ∈ (ulpCandidates n (fixRcp m e)).map (BitVec.ofNat 32) ∧
      ((fixRcp m e).n : Rat) * (m * (2 : Rat) ^ e) ≤ 2 ^ 400 ∧ (2 : Rat) ^ 400 < ((fixRcp m e).n + 1) * (m * (2 : Rat) ^ e)) ∧
    (m ≠ 0 → n = false → transcend 0x72 x ∈ (ulpCandidates false (fixRsq m e)).map (BitVec.ofNat 32) ∧
      ((fixRsq m e).n : Rat) ^ 2 * (m * (2 : Rat) ^ e) ≤ 2 ^ 800 ∧ (2 : Rat) ^ 800 < ((fixRsq m e).n + 1) ^ 2 * (m * (2 : Rat) ^ e)) ∧
    transcend 0x73 x ∈ (ulpCandidates false (fixExp2 n m e)).map (BitVec.ofNat 32) ∧
    (m ≠ 0 → n = false → transcend 0x74 x ∈ (ulpCandidates (fixLog2 m e).1 (fixLog2 m e).2).map (BitVec.ofNat 32))) ∧
  ∀ (neg : Bool) (v : Fix) (c : Nat) (q : Rat), c ∈ ulpCandidates neg v → (v.n : Rat) / 2 ^ 400 ≤ q → q < (v.n + 1) / 2 ^ 400 →
    (v.exact = true → q = v.n / 2 ^ 400) →
    (∃ (m : Nat) (e : Int), decodeFmt 1 c = .fin neg m e ∧ |m * (2 : Rat) ^ e - q| ≤ (2 : Rat) ^ e) ∨
      (decodeFmt 1 c = .inf neg ∧ (2 : Rat) ^ 128 - 2 ^ 104 ≤ q)

/-- R43, R47, R48, R70, R74, R84, R94, R134, R483: control flow. A split by PC makes of the issuing subset one subset per distinct next PC, each
holding exactly the threads that go there; the part with the lowest thread keeps the stamp and the others take the slot of the splitting
instruction; other subsets are not touched. BRA sends the participants to the next PC plus the immediate and the others to the next PC; CALL
does the same after it has put the next PC into its pair; RET sends the participants to the PC in its pair; nothing else changes but the run,
the counts of slots and the hold of the troupe's next instruction (R37). That RET takes its address modulo 2^57 is the model's choice (log entry
17). EXIT takes its participants out of the troupe, remembering the PC of each; the troupe ends with its last thread, and else its barriers are
looked at again. BAR.T and BAR.R put the subset into their wait state and release what they complete; after a BAR.T that does not wait, the next
instruction of the troupe is held as after a branch (R37). Then R134 is applied. -/
def Obligations.ControlFlow : Prop :=
  (∀ (t : Troupe) (u : Subset) (slot : Nat) (target : Nat → Nat), t.subset? u.low = some u →
    (∀ x ∈ t.subsets, x.low ≠ u.low → x ∈ (t.split u.low slot target).subsets) ∧
    (∀ th ∈ u.threads, ∃ x ∈ (t.split u.low slot target).subsets, x.pc = target th ∧ x.wait = u.wait ∧
      (∀ k, k ∈ x.threads ↔ k ∈ u.threads ∧ target k = target th) ∧ x.stamp = if u.low ∈ x.threads then u.stamp else slot) ∧
    (∀ x ∈ (t.split u.low slot target).subsets, x ∈ t.subsets ∨ ∀ k ∈ x.threads, k ∈ u.threads ∧ x.pc = target k) ∧
    t.split u.low slot target = { t with subsets := (t.split u.low slot target).subsets }) ∧
  (∀ (who : TroupeRef) (f : IForm) (s : State) (t : Troupe) (u : Subset) (ps : List Nat), Issuing s who (opBra f) t u →
    ps = participants t u f.guard →
    exec (.bra who f) s = .next (s.issued who ((t.advance u (opBra f) ((opBra f).need t) ps (s.slotOf who)).split u.low (s.slotOf who)
      (fun th => if th ∈ ps then Spec.jump u.pc f.imm else Spec.nextPc u.pc)) ((opBra f).need t) (s.costOf who t (opBra f) ps))) ∧
  (∀ (who : TroupeRef) (f : CallForm) (s : State) (t : Troupe) (u : Subset) (ps : List Nat), Issuing s who (opCall f) t u →
    ps = participants t u f.f.guard →
    exec (.call who f) s = .next (s.issued who
      (((t.advance u (opCall f) ((opCall f).need t) ps (s.slotOf who)).writeAll f.uniform f.f.dst 2 ps (fun _ => Spec.nextPc u.pc)).split u.low
        (s.slotOf who) (fun th => if th ∈ ps then Spec.jump u.pc f.f.imm else Spec.nextPc u.pc)) ((opCall f).need t) (s.costOf who t (opCall f) ps))) ∧
  (∀ (who : TroupeRef) (f : RForm) (s : State) (t : Troupe) (u : Subset) (ps : List Nat), Issuing s who (opRet f) t u →
    ps = participants t u f.guard → (∀ th ∈ ps, (t.srcPair (uA f) th f.srcA).toNat % 8 = 0) →
    exec (.ret who f) s = .next (s.issued who ((t.advance u (opRet f) ((opRet f).need t) ps (s.slotOf who)).split u.low (s.slotOf who)
      (fun th => if th ∈ ps then (t.srcPair (uA f) th f.srcA).toNat % 2 ^ 57 else Spec.nextPc u.pc)) ((opRet f).need t) (s.costOf who t (opRet f) ps))) ∧
  (∀ (who : TroupeRef) (f : RForm) (s : State) (t t' : Troupe) (u : Subset) (ps : List Nat), Issuing s who (opExit f) t u →
    ps = participants t u f.guard →
    t' = ((t.advance u (opExit f) ((opExit f).need t) ps (s.slotOf who)).exitThreads u ps).settleBarT →
    (exec (.exit who f) s = .next ((if t'.subsets = [] then
          (s.issued who t' ((opExit f).need t) (s.costOf who t (opExit f) ps)).endTroupe who.ring.val who.booth.val t'
        else (s.issued who t' ((opExit f).need t) (s.costOf who t (opExit f) ps)).settleBarrier who.ring.val).checkDiverged who)) ∧
    (∀ th ∈ ps, Assoc.find? t'.exited th = some u.pc) ∧ (∀ th, th ∉ ps → Assoc.find? t'.exited th = Assoc.find? t.exited th)) ∧
  (∀ (who : TroupeRef) (f : BarForm) (s : State) (t t' : Troupe) (u : Subset), Issuing s who (opBarT f) t u →
    t' = ((t.advance u (opBarT f) ((opBarT f).need t) u.threads (s.slotOf who)).enterWait u.low .convergence).settleBarT →
    exec (.barT who f) s = .next (((s.issued who
      (if t'.subsets.any Subset.atBarT then t' else t'.addPending [nextInstr] t'.live false)
      ((opBarT f).need t) (s.costOf who t (opBarT f) u.threads)).settleBarrier who.ring.val).checkDiverged who)) ∧
  (∀ (who : TroupeRef) (f : BarForm) (s : State) (t : Troupe) (u : Subset), Issuing s who (opBarR f) t u →
    exec (.barR who f) s = .next (((s.issued who
      (((t.advance u (opBarR f) ((opBarR f).need t) u.threads (s.slotOf who)).enterWait u.low (.ringBarrier f.g)).settleBarT)
      ((opBarR f).need t) (s.costOf who t (opBarR f) u.threads)).settleBarrier who.ring.val).checkDiverged who))

/-- R83, R84, R91, R92, R346: FENCE.G and TURN.SIG issue only when no write of their participants is unacknowledged. FENCE.G then does nothing;
TURN.SIG signals its turnstile once for the subset. TURN.WAIT goes on, with PDST telling of the error bit, when its turnstile has reached the
value, and waits else. A signal of ADD adds, and stops at 2^64 - 1 with the error bit when the sum would pass it; MAX takes the larger value;
the error bit of the signal stays. -/
def Obligations.FenceAndTurnstiles : Prop :=
  (∀ (who : TroupeRef) (f : RForm) (s : State) (t : Troupe) (u : Subset) (ps : List Nat), Issuing s who (opFenceG f) t u →
    ps = participants t u f.guard → (s.ring who.ring.val).fenceHolds t.uid ps = false ∧
    exec (.fenceG who f) s =
      .next (s.issued who (t.advance u (opFenceG f) ((opFenceG f).need t) ps (s.slotOf who)) ((opFenceG f).need t) (s.costOf who t (opFenceG f) ps))) ∧
  (∀ (who : TroupeRef) (f : TurnForm) (s : State) (t : Troupe) (u : Subset) (ps : List Nat), Issuing s who (opTurnSig f) t u →
    ps = participants t u f.guard → ps ≠ [] → s.canSignal t.ctx (t.getU f.handleU.toNat) = true →
    (s.ring who.ring.val).fenceHolds t.uid ps = false ∧
    exec (.turnSig who f) s = .next (((s.issued who (t.advance u (opTurnSig f) ((opTurnSig f).need t) ps (s.slotOf who))
      ((opTurnSig f).need t) (s.costOf who t (opTurnSig f) ps)).signalHandle t.ctx t.phase (t.getU f.handleU.toNat) f.mode
        (if f.valImm then f.imm.setWidth 64 else (t.getU (f.valU.toNat + 1) ++ t.getU f.valU.toNat : BitVec 64)) false none).checkDiverged who)) ∧
  (∀ (who : TroupeRef) (f : TurnForm) (s : State) (t t' : Troupe) (u : Subset) (ps : List Nat) (v : W64), Issuing s who (opTurnWait f) t u →
    ps = participants t u f.guard → ps ≠ [] → s.canWait t.ctx (t.getU f.handleU.toNat) = true →
    v = (if f.valImm then f.imm.setWidth 64 else (t.getU (f.valU.toNat + 1) ++ t.getU f.valU.toNat : BitVec 64)) →
    t' = t.advance u (opTurnWait f) ((opTurnWait f).need t) ps (s.slotOf who) →
    exec (.turnWait who f) s = .next (s.issued who
      (match s.waitEnd t.ctx (t.getU f.handleU.toNat).toNat v with
        | some e => if f.pdstEn then t'.setPred ps f.pdst.toNat e else t'
        | none => t'.enterWait u.low (.turnstile (t.getU f.handleU.toNat).toNat v (if f.pdstEn then some f.pdst.toNat else none) ps))
      ((opTurnWait f).need t) (s.costOf who t (opTurnWait f) ps))) ∧
  ∀ (t : Turn) (v : W64) (err : Bool),
    (t.count.toNat + v.toNat < 2 ^ 64 → t.signal false v err = { t with count := t.count + v, err := t.err || err }) ∧
    (2 ^ 64 ≤ t.count.toNat + v.toNat → t.signal false v err = { t with count := BitVec.allOnes 64, err := true }) ∧
    t.signal true v err = { t with count := if t.count < v then v else t.count, err := t.err || err }

/-- R79 to R83, R128, R176, R346: LD and ST. A .S access queues its bytes, at the ring address of the troupe's allocation, for the scratchpad
arbiter, 16 B of port for every distinct word, a transposing read the elements of every row of its 16 B; with no participant nothing is queued.
A .G or .L access acts on the places
that translation gives, grain by grain (`issueLoad`, `issueStore`; for one grain of a load, LineOutcomes): a load is entered among the ring's
loads with the grain and offset of every participant, and a .G store among its writes with one acknowledgement awaited per grain. -/
def Obligations.LoadsAndStores : Prop :=
  (∀ (who : TroupeRef) (f : MemForm) (s : State) (t t' : Troupe) (u : Subset) (ps : List Nat), Issuing s who (opLd f) t u →
    ps = participants t u f.guard → f.space = 0 → testScratch s who t f ps = .go →
    t' = t.advance u (opLd f) ((opLd f).need t) ps (s.slotOf who) →
    (ps = [] → exec (.ld who f) s = .next (s.issued who t' ((opLd f).need t) (s.costOf who t (opLd f) ps))) ∧
    (ps ≠ [] → ∀ bytes, bytes = 16 * (wordsOf (ps.flatMap (scratchBytes (s.ring who.ring.val) t f))).length →
      ∃ q, exec (.ld who f) s = .next ((s.issued who
        { t' with
            pending := t.pending ++ [⟨t.nextId, if f.data = 0xFF then [] else (List.range (memRegs f)).map (f.data.toNat + ·), ps, true⟩]
            nextId := t.nextId + 1 } ((opLd f).need t) (s.costOf who t (opLd f) ps)).modRing who.ring.val (fun r => { r with sreqs := r.sreqs ++ [q] })) ∧
      (f.transpose = false → q = .load who t.uid t.nextId f.data.toNat (2 ^ f.size.toNat) f.signed
        (ps.map (fun th => (th, (s.ring who.ring.val).baseOf t + ((t.src f.baseU th f.base).toNat + f.offset.toInt).toNat))) bytes) ∧
      (f.transpose = true → ∃ el : Nat, el = (if f.signed then 4 else 2) ∧ q = .tload who t.uid t.nextId f.data.toNat el
        (ps.map (fun th => (th, (List.range (16 / el)).map (fun k => (s.ring who.ring.val).baseOf t +
          ((t.src f.baseU th f.base).toNat + tOffset f) + k * tPitch f + th % 32 * el)))) bytes))) ∧
  (∀ (who : TroupeRef) (f : MemForm) (s : State) (t t' : Troupe) (u : Subset) (ps : List Nat), Issuing s who (opSt f) t u →
    ps = participants t u f.guard → f.space = 0 → testScratch s who t f ps = .go →
    t' = t.advance u (opSt f) ((opSt f).need t) ps (s.slotOf who) →
    (ps = [] → exec (.st who f) s = .next (s.issued who t' ((opSt f).need t) (s.costOf who t (opSt f) ps))) ∧
    (ps ≠ [] → ∀ bs, bs = ps.flatMap (fun th =>
        ((List.range (2 ^ f.size.toNat)).zip (leBytes (2 ^ f.size.toNat) (t.srcWords false th f.data (memRegs f)))).map
          (fun x => ((s.ring who.ring.val).baseOf t + ((t.src f.baseU th f.base).toNat + f.offset.toInt).toNat + x.1, x.2))) →
      exec (.st who f) s = .next ((s.issued who t' ((opSt f).need t) (s.costOf who t (opSt f) ps)).modRing who.ring.val (fun r => { r with
        sreqs := r.sreqs ++ [.store who t.uid bs (16 * (distinct (bs.map (fun p => p.1 / 16))).length)] })))) ∧
  (∀ (who : TroupeRef) (f : MemForm) (s s1 : State) (t t' : Troupe) (u : Subset) (ps : List Nat), Issuing s who (opLd f) t u →
    ps = participants t u f.guard → f.space ≠ 0 → testGlobal s who t f false ps = (s1, .go) →
    t' = t.advance u (opLd f) ((opLd f).need t) ps (s1.slotOf who) →
    exec (.ld who f) s = .next ((((s1.setTroupe who t).issued who t' ((opLd f).need t) (s1.costOf who t (opLd f) ps)).issueLoad who t' f u.pc ps).checkDiverged
      who)) ∧
  (∀ (who : TroupeRef) (f : MemForm) (s s1 : State) (t t' : Troupe) (u : Subset) (ps : List Nat), Issuing s who (opSt f) t u →
    ps = participants t u f.guard → f.space ≠ 0 → testGlobal s who t f true ps = (s1, .go) →
    t' = t.advance u (opSt f) ((opSt f).need t) ps (s1.slotOf who) →
    exec (.st who f) s = .next ((((s1.setTroupe who t).issued who t' ((opSt f).need t) (s1.costOf who t (opSt f) ps)).issueStore who t' f u.pc ps).checkDiverged
      who)) ∧
  ∀ (s s1 : State) (who : TroupeRef) (t : Troupe) (f : MemForm) (pc : Nat) (ps : List Nat) (phys : List (Nat × Phys)) (v : Verdict), phys ≠ [] →
    (translateAll s (tentOfRing who.ring.val) t.ctx false (ps.map (fun th => (th, globalAddr t f th))) = (s1, phys, v) →
      ∃ op o, Assoc.find? ((s.issueLoad who t f pc ps).ring who.ring.val).loads op = some o ∧ o.who = who ∧ o.pend = t.nextId ∧
        o.reg = f.data.toNat ∧ o.size = 2 ^ f.size.toNat ∧ o.signed = f.signed ∧
        o.dsts = phys.map (fun p => ⟨p.1, p.2.grain, p.2.addr % 64⟩)) ∧
    (f.space = 1 → translateAll (s.setTroupe who t) (tentOfRing who.ring.val) t.ctx true (ps.map (fun th => (th, globalAddr t f th))) =
        (s1, phys, v) →
      ∃ op w, Assoc.find? ((s.issueStore who t f pc ps).ring who.ring.val).writes op = some w ∧ w.uid = t.uid ∧ w.threads = ps ∧
        w.left = (distinct (phys.map (fun p => p.2.grain))).length)

/-- R176, R191, R192: what a ring L1 does with one grain of a load. .STRM goes to the home under the hint and leaves L1 alone; a .G load with DEAD
drops the line and asks the home. A hit is served from the line and becomes the most recent; a .L line that holds a part of the bytes keeps
them and the rest is fetched. A .L miss asks the home and will allocate a line; a .G miss does the same, unless the stream detector marks it to
bypass. DEAD on a .L line drops it and gives no new one: bytes that it holds whole are served and the grain is marked at its home, else the grain is
asked of its home. -/
def Obligations.LineOutcomes : Prop :=
  ∀ (s : State) (ring op ctx : Nat) (f : MemForm) (cmd : CmdRef) (g key gen : Nat) (mask : W64) (q : Nat → LoadAlloc → BReq)
    (loc : Option CmdRef),
    q = (fun op a => ⟨ring, ctx, key, gen, ellOfGrain g, grainInEll g, .load op (f.hint == 2) a, none⟩) →
    loc = (if f.space = 2 then some cmd else none) →
    (f.hint = 1 → s.loadGrain ring op ctx f cmd g key gen mask = (s.sendBushel (q op .hint), {})) ∧
    (f.hint = 2 → f.space ≠ 2 → s.loadGrain ring op ctx f cmd g key gen mask =
      ((s.modRing ring (fun r => { r with l1 := r.l1.filter (fun x => !(x.2.grain == g && x.2.loc.isNone)) })).sendBushel (q op .frame), {})) ∧
    (∀ k l, f.hint = 0 → (s.ring ring).l1Find? g loc = some (k, l) →
      s.loadGrain ring op ctx f cmd g key gen mask =
        if mask &&& ~~~l.valid = 0 then (s.modRing ring (fun r => r.l1Put k l), { data := some l.data })
        else ((s.modRing ring (fun r => r.l1Put k l)).sendBushel (q op .frame), { alloc := true, under := some (l.valid, l.data) })) ∧
    (∀ k l, f.hint = 2 → f.space = 2 → (s.ring ring).l1Find? g loc = some (k, l) → mask &&& ~~~l.valid = 0 →
      ∃ n, s.loadGrain ring op ctx f cmd g key gen mask =
        ((s.modRing ring (fun r => { r with l1 := Assoc.del r.l1 k, nextOp := r.nextOp + 1 })).sendBushel (q n .frame),
          { data := some l.data })) ∧
    (∀ k l, f.hint = 2 → f.space = 2 → (s.ring ring).l1Find? g loc = some (k, l) → mask &&& ~~~l.valid ≠ 0 →
      s.loadGrain ring op ctx f cmd g key gen mask =
        ((s.modRing ring (fun r => { r with l1 := Assoc.del r.l1 k })).sendBushel (q op .frame), { under := some (l.valid, l.data) })) ∧
    (f.hint = 2 → f.space = 2 → (s.ring ring).l1Find? g loc = none →
      s.loadGrain ring op ctx f cmd g key gen mask = (s.sendBushel (q op .frame), {})) ∧
    (f.hint = 0 → f.space = 2 → (s.ring ring).l1Find? g loc = none →
      s.loadGrain ring op ctx f cmd g key gen mask = (s.sendBushel (q op .frame), { alloc := true })) ∧
    (f.hint = 0 → f.space ≠ 2 → (s.ring ring).l1Find? g loc = none → ∀ r marked, (s.ring ring).streamMiss (ellOfGrain g) = (r, marked) →
      s.loadGrain ring op ctx f cmd g key gen mask =
        ((s.setRing ring r).sendBushel (q op (if marked then .stream else .frame)), { alloc := !marked }))

/-- R56 to R60, R87 to R90: an atomic or a reduction issues into the combiner's queue with one entry for the troupe instruction; a fetch form
waits for its values. A scratchpad atomic names ring addresses; a global one and a reduction name the places that translation gives. -/
def Obligations.AtomicsQueue : Prop :=
  (∀ (i : Instr) (who : TroupeRef) (o : AtomOp) (f : AtomForm) (s : State) (t t' : Troupe) (u : Subset) (ps : List Nat) (w : Nat),
    Spec.atomRow i = some (who, o, f) → Issuing s who (opAtom o f) t u → ps = participants t u f.guard → ps ≠ [] → f.global = false →
    testAtom s who t f ps = (s, .go) → w = atomWidth f.type.toNat →
    t' = t.advance u (opAtom o f) ((opAtom o f).need t) ps (s.slotOf who) →
    exec i s = .next ((s.issued who
      (if f.dst = 0xFF then t' else { t' with
        pending := t.pending ++ [⟨t.nextId, (List.range (w / 4)).map (f.dst.toNat + ·), ps, true⟩], nextId := t.nextId + 1 })
      ((opAtom o f).need t) (s.costOf who t (opAtom o f) ps)).modRing who.ring.val (fun r => { r with
        nextOp := r.nextOp + 2
        loads := if f.dst = 0xFF then r.loads else Assoc.put r.loads r.nextOp
          { who, ctx := t.ctx, pend := t.nextId, pc := u.pc, reg := f.dst.toNat, size := w, signed := false, dsts := [], l1 := [], atom := true
            need := ps.length, org := s.originOf t }
        combiner := r.combiner ++ [{ who, uid := t.uid, ctx := t.ctx, cmd := t.cmd, kind := .atom o f.type.toNat, global := false
                                     fetch := f.dst != 0xFF, pc := u.pc, load := r.nextOp, write := r.nextOp + 1
                                     parts := ps.map (fun th => { thread := th, addr := r.baseOf t + (atomAddr t f th).toNat
                                                                  x := BitVec.ofNat 64 (t.srcWords false th f.srcB (w / 4))
                                                                  n := BitVec.ofNat 64 (t.srcWords false th f.srcC (w / 4)) })
                                     source := sourceOf who.ring.val t, org := s.originOf t }] }))) ∧
  (∀ (i : Instr) (who : TroupeRef) (o : AtomOp) (f : AtomForm) (s s1 s2 : State) (t t' : Troupe) (u : Subset) (ps : List Nat) (w : Nat)
    (all : List (Nat × Nat)) (phys : List (Nat × Phys)),
    Spec.atomRow i = some (who, o, f) → Issuing s who (opAtom o f) t u → ps = participants t u f.guard → f.global = true →
    testAtom s who t f ps = (s1, .go) → w = atomWidth f.type.toNat →
    t' = t.advance u (opAtom o f) ((opAtom o f).need t) ps (s1.slotOf who) → all = ps.map (fun th => (th, (atomAddr t f th).toNat)) →
    ∀ v, translateAll ((s1.setTroupe who t).issued who t' ((opAtom o f).need t) (s1.costOf who t (opAtom o f) ps)) (tentOfRing who.ring.val) t.ctx true
        (all.filter (fun p => !isRemote p.2)) = (s2, phys, v) →
      ∀ parts, parts = globalParts s2 phys (all.filter (fun p => isRemote p.2)) (fun th => BitVec.ofNat 64 (t.srcWords false th f.srcB (w / 4)))
          (fun th => BitVec.ofNat 64 (t.srcWords false th f.srcC (w / 4))) ps →
        exec i s = .next ((s2.queueComb who t' u.pc (.atom o f.type.toNat) true (f.dst != 0xFF) parts (partAddrs parts).length f.dst.toNat
          w).checkDiverged who)) ∧
  (∀ (who : TroupeRef) (f : RedForm) (s s1 : State) (t t' : Troupe) (u : Subset) (ps : List Nat), Issuing s who (opRedAdd f) t u →
    ps = participants t u f.guard → testRed s who t f (if f.accRnd.getLsbD 1 then 16 else 4) ps = (s1, .go) →
    t' = t.advance u (opRedAdd f) ((opRedAdd f).need t) ps (s1.slotOf who) →
    exec (.redAdd who f) s = .next ((((s1.setTroupe who t).issued who t' ((opRedAdd f).need t) (s1.costOf who t (opRedAdd f) ps)).queueRed who t' u f
      (.redAdd f.fmt.toNat (f.accRnd.getLsbD 1)) (fun th => (t.src false th f.srcB).setWidth 64) ps false).checkDiverged who)) ∧
  (∀ (who : TroupeRef) (f : RedForm) (s s1 : State) (t t' : Troupe) (u : Subset) (ps : List Nat), Issuing s who (opRedFold f) t u →
    ps = participants t u f.guard → testRed s who t f 1 ps = (s1, .go) →
    t' = t.advance u (opRedFold f) ((opRedFold f).need t) ps (s1.slotOf who) →
    exec (.redFold who f) s = .next ((((s1.setTroupe who t).issued who t' ((opRedFold f).need t) (s1.costOf who t (opRedFold f) ps)).queueRed who t' u f
      (.redFold f.fmt.toNat f.accRnd.toNat) (fun _ => 0) ps true).checkDiverged who))

/-- R57: combining changes nothing. The one entry that a request carries for its participants leaves in memory what the participants applied
one by one in ascending lane order leave, and the value returned to each participant is the one memory held just before it: for the integer
TYPEs of ATOM.ADD, ATOM.MAX and ATOM.MIN, on values and operands of the width. -/
def Obligations.CombiningIsSequential : Prop :=
  ∀ (o : AtomOp) (type m : Nat) (xs : List Nat) (fetch : Bool), o = .add ∨ o = .max ∨ o = .min → type < 4 → xs ≠ [] →
    m < 2 ^ (8 * atomWidth type) → (∀ x ∈ xs, x < 2 ^ (8 * atomWidth type)) →
    (atomRun o type (atomEntries o type fetch (xs.map (fun x => (x, 0)))) m).1 = xs.foldl (fun a x => atomStep o type a x 0) m ∧
    ∀ k, k < xs.length → (atomReturns o type xs (atomRun o type (atomEntries o type fetch (xs.map (fun x => (x, 0)))) m).2)[k]? =
      some ((xs.take k).foldl (fun a x => atomStep o type a x 0) m)

/-- R84, R151 to R158, R162, R163: CVT, unless its context traps a non-finite element that it meets. Each participant (with UDST, the first one)
gets its converted
elements; the saturations are added to the context's count; a non-finite element sets the context's sticky flags; RND 2 counts one more
stochastic CVT for each of them. -/
def Obligations.Conversions : Prop :=
  ∀ (who : TroupeRef) (f : CvtForm) (s : State) (t t' : Troupe) (c : Ctx) (u : Subset) (ps qs : List Nat), Issuing s who (opCvt f) t u →
    ps = participants t u f.guard → qs = (if f.udst then ps.take 1 else ps) → s.ctx? t.ctx = some c →
    (c.nfTrap = true → ∀ th ∈ qs, (cvtThread t f th).first = none) →
    t' = qs.foldl (fun x th => x.putWords f.udst th f.dst (cvtRegs f.dstFmt.toNat (2 ^ f.count.toNat)) (cvtThread t f th).word)
      (t.advance u (opCvt f) ((opCvt f).need t) ps (s.slotOf who)) →
    exec (.cvt who f) s = .next (
      let r := (s.issued who { t' with cvtCount := if f.rnd = 2 then qs.foldl (fun m th => Assoc.put m th (Assoc.get 0 m th + 1)) t.cvtCount
                                                   else t.cvtCount } ((opCvt f).need t) (s.costOf who t (opCvt f) ps)).addSat t.ctx
        ((qs.map (fun th => (cvtThread t f th).sat)).foldl (· + ·) 0)
      if ∃ th ∈ qs, (cvtThread t f th).first ≠ none then r.setNf t.ctx else r)

/-- R86, R100 to R102, R247, R339: DMA.Q puts one copy into the ring's issue queue and sets its predicate, or clears it when the queue holds
16; ALLOC hands its request to the ringmasters and waits; FREE gives an allocation back and says in its predicate whether there was one;
STAT.W hands the packed values of its participants to the tent's weighmaster. Without a participant none of these, no turnstile instruction and
no atomic or reduction does anything but go on. -/
def Obligations.Requests : Prop :=
  (∀ (who : TroupeRef) (f : RForm) (s : State) (t t' : Troupe) (u : Subset) (ps : List Nat) (w : DmaWords), Issuing s who (opDmaQ f) t u →
    ps = participants t u f.guard → ps ≠ [] → w = dmaWords t (f.srcA.toNat % 64) →
    (opDmaQ f).test s who t u ps = (s, .go) → t' = t.advance u (opDmaQ f) ((opDmaQ f).need t) ps (s.slotOf who) →
    exec (.dmaQ who f) s = .next (if (s.ring who.ring.val).dmaq.length < 16
      then (((s.issued who (t'.setPred ps (f.srcC.toNat % 8) true) ((opDmaQ f).need t) (s.costOf who t (opDmaQ f) ps)).modHub
          (fun h => { h with order := h.order + 1 })).modRing who.ring.val (fun r => { r with dmaq := r.dmaq ++ [
            { ctx := t.ctx, cmd := t.cmd, base := r.baseOf t, size := r.sizeOf t, src := BitVec.ofNat 64 w.src, dst := BitVec.ofNat 64 w.dst
              len := w.len, handle := w.handle, inc := w.inc.setWidth 64, order := s.hub.order, ring := who.ring.val, pc := u.pc
              org := s.originOf t }] }))
      else s.issued who (t'.setPred ps (f.srcC.toNat % 8) false) ((opDmaQ f).need t) (s.costOf who t (opDmaQ f) ps))) ∧
  (∀ (who : TroupeRef) (f : RForm) (s : State) (t t' : Troupe) (u : Subset) (ps : List Nat), Issuing s who (opAlloc f) t u →
    ps = participants t u f.guard → ps ≠ [] → t' = t.advance u (opAlloc f) ((opAlloc f).need t) ps (s.slotOf who) →
    exec (.allocOp who f) s = .next ((s.issued who { t' with
        pending := t.pending ++ [⟨t.nextId, [256 + f.dst.toNat % 64, 256 + f.dst.toNat % 64 + 1, 320 + f.srcC.toNat % 8], u.threads, true⟩]
        nextId := t.nextId + 1 } ((opAlloc f).need t) (s.costOf who t (opAlloc f) ps)).modRing who.ring.val (fun r => { r with
          nextOp := r.nextOp + 1
          allocs := Assoc.put r.allocs r.nextOp { who, ctx := t.ctx, pend := t.nextId, size := t.srcPair true 0 f.srcA, pool := f.sub.toNat
                                                  dst := f.dst.toNat % 64, pdst := f.srcC.toNat % 8, threads := ps } }))) ∧
  (∀ (who : TroupeRef) (f : RForm) (s s1 : State) (t t' : Troupe) (u : Subset) (ps : List Nat), Issuing s who (opFree f) t u →
    ps = participants t u f.guard → ps ≠ [] → (opFree f).test s who t u ps = (s1, .go) →
    t' = t.advance u (opFree f) ((opFree f).need t) ps (s1.slotOf who) →
    ∀ s2 ok, ((s1.setTroupe who t).issued who t' ((opFree f).need t) (s1.costOf who t (opFree f) ps)).freeAt t.ctx (t.srcPair true 0 f.srcA).toNat = (s2, ok) →
      exec (.freeOp who f) s = .next ((s2.setTroupe who (t'.setPred ps (f.srcC.toNat % 8) ok)).checkDiverged who)) ∧
  (∀ (who : TroupeRef) (f : StatForm) (s : State) (t : Troupe) (u : Subset) (ps : List Nat), Issuing s who (opStatW f) t u →
    ps = participants t u f.guard → ps ≠ [] →
    exec (.statW who f) s = .next ((s.issued who (t.advance u (opStatW f) ((opStatW f).need t) ps (s.slotOf who))
      ((opStatW f).need t) (s.costOf who t (opStatW f) ps)).modTent (tentOfRing who.ring.val) (fun x => { x with statq := x.statq ++ [
        { who, ctx := t.ctx, accept := match s.cmd? t.cmd with | some c => c.accept | none => 0
          tag := (t.getU (f.srcB.toNat % 64)).toNat % 4096, fmt := f.fmt.toNat
          vals := ps.flatMap (fun th => (List.range (2 ^ f.count.toNat)).map
            (cvtElem f.fmt.toNat (t.srcWords false th f.srcA (cvtRegs f.fmt.toNat (2 ^ f.count.toNat))))) }] }))) ∧
  ∀ (i : Instr) (who : TroupeRef) (op : AlOp) (s : State) (t : Troupe) (u : Subset), Spec.asks i = some who → opOf i = some op →
    Issuing s who op t u → participants t u op.guard = [] →
    exec i s = .next (s.issued who (t.advance u op (op.need t) [] (s.slotOf who)) (op.need t) (s.costOf who t op []))

/-- R95 to R99, R107, R115, R122, R133: the matrix instructions of a troupe whose threads have all arrived. MX.CFG sets the configuration;
MX.LDW joins the ring's weight-load queue, MX.RUN and MX.DRN join the booth's matrix queue, each with its scratchpad addresses counted from
the troupe's allocation and the next arrival number, an MX.RUN that may have its latch asking for it at once (R116); an MX.DRN into registers
makes them unavailable, and one with stochastic rounding is
counted. The troupe goes on as one subset, two words further. -/
def Obligations.MatrixIssue : Prop :=
  (∀ (who : TroupeRef) (f : MxCfgForm) (s : State) (t t' : Troupe) (u : Subset), MatrixIssuing s who (opMxCfg f) t u →
    t' = (t.asOne u).advance u (opMxCfg f) ((opMxCfg f).need t) u.threads (s.slotOf who) →
    exec (.mxCfg who f) s = .next (s.issued who { t' with
      cfg := { afmt := f.afmt.toNat, wfmt := f.wfmt.toNat, passes := f.passes.toNat, scale := f.scale.toNat } } ((opMxCfg f).need t) (s.costOf who (t.asOne u) (opMxCfg f) u.threads))) ∧
  (∀ (who : TroupeRef) (f : MxLdwForm) (s : State) (t t' : Troupe) (u : Subset) (base : Nat), MatrixIssuing s who (opMxLdw f) t u →
    t' = (t.asOne u).advance u (opMxLdw f) ((opMxLdw f).need t) u.threads (s.slotOf who) →
    base = (s.ring who.ring.val).baseOf t + (if f.baseEn then (t.getU f.baseU.toNat).toNat else 0) →
    (opMxLdw f).test (s.setTroupe who t) who (t.asOne u) u u.threads = (s.setTroupe who t, .go) →
    exec (.mxLdw who f) s = .next ((s.issued who t' ((opMxLdw f).need t) (s.costOf who (t.asOne u) (opMxLdw f) u.threads)).modRing who.ring.val (fun r => { r with
      nextSeq := r.nextSeq + 1
      ldq := r.ldq ++ [{ seq := r.nextSeq, who, uid := t.uid, ctx := t.ctx, slot := f.slot.toNat, cfg := t.cfg, transposed := f.transpose
                         addr := base + f.addrOff.toNat, scaleAddr := base + f.scaleOff.toNat, pitch := f.pitch.toNat }] }))) ∧
  (∀ (who : TroupeRef) (f : MxRunForm) (s : State) (t t' : Troupe) (u : Subset) (base : Nat), MatrixIssuing s who (opMxRun f) t u →
    t' = (t.asOne u).advance u (opMxRun f) ((opMxRun f).need t) u.threads (s.slotOf who) →
    base = (s.ring who.ring.val).baseOf t + (if f.baseEn then (t.getU f.baseU.toNat).toNat else 0) →
    (opMxRun f).test (s.setTroupe who t) who (t.asOne u) u u.threads = (s.setTroupe who t, .go) →
    exec (.mxRun who f) s = .next ((((s.issued who t' ((opMxRun f).need t) (s.costOf who (t.asOne u) (opMxRun f) u.threads)).modBooth who.ring.val who.booth.val (fun y => { y with
      mq := y.mq ++ [.run { seq := (s.ring who.ring.val).nextSeq, who, uid := t.uid, ctx := t.ctx, phase := t.phase, cfg := t.cfg
                            slot := f.slot.toNat, acc := f.acc.toNat, rows := if f.rows = 0 then 128 else f.rows.toNat, start := f.start
                            addr := base + f.addrOff.toNat, scaleAddr := base + f.scaleOff.toNat, pitch := f.pitch.toNat }] })).modRing
        who.ring.val (fun r => { r with nextSeq := r.nextSeq + 1 })).noteLatches who.ring.val)) ∧
  ∀ (who : TroupeRef) (f : MxDrnForm) (s : State) (t t' : Troupe) (u : Subset) (base : Nat), MatrixIssuing s who (opMxDrn f) t u →
    t' = (t.asOne u).advance u (opMxDrn f) ((opMxDrn f).need t) u.threads (s.slotOf who) →
    base = (s.ring who.ring.val).baseOf t + (if f.baseEn then (t.getU f.baseU.toNat).toNat else 0) →
    (opMxDrn f).test (s.setTroupe who t) who (t.asOne u) u u.threads = (s.setTroupe who t, .go) →
    exec (.mxDrn who f) s = .next ((((s.issued who
      { (if f.toRegs then t'.addPending ((List.range (if f.rows = 0 then 128 else f.rows.toNat)).map (f.dreg.toNat + ·)) (List.range t.width) true
         else t') with drnCount := if f.rnd = 2 then t.drnCount + 1 else t.drnCount } ((opMxDrn f).need t) (s.costOf who (t.asOne u) (opMxDrn f) u.threads)).modBooth who.ring.val
        who.booth.val (fun y => { y with
          mq := y.mq ++ [.drn { seq := (s.ring who.ring.val).nextSeq, who, uid := t.uid, ctx := t.ctx, cfg := t.cfg, dfmt := f.dfmt.toNat
                                rnd := f.rnd.toNat, acc := f.acc.toNat, rows := if f.rows = 0 then 128 else f.rows.toNat, toRegs := f.toRegs
                                rowsum := f.rowsum, dreg := f.dreg.toNat, scaleExp := f.scaleExp.toInt, addr := base + f.addrOff.toNat
                                rowsumAddr := base + f.rowsumOff.toNat, pitch := f.pitch.toNat, pc := u.pc, count := t.drnCount, seed := t.seed
                                kernelId := t.kernelId, groupIndex := t.groupIndex, index := t.index, org := s.originOf t
                                pend := t.nextId }] })).modRing
        who.ring.val (fun r => { r with nextSeq := r.nextSeq + 1 })).noteLatches who.ring.val)

/-- R35, R36, R125, R389, R390: one a-cycle of a booth whose clock runs. While a troupe instruction is in issue it takes the cycle, and a bubble of
the pattern, or of a droop burst, is owed by the booth; a bubble takes a free cycle, and so does one owed; every bubble is owed by the array
too. Else the slot is
free for an instruction. A booth whose clock stands does nothing. A droop detector starts a burst on its
tent, counted once; during a burst it only renews it; the end of the burst takes it back. When a burst is counted is the model's choice (log
entry 130: R389 says only that bursts are counted). -/
def Obligations.BoothCycle : Prop :=
  (∀ (ring : RingId) (booth : BoothId) (s s' : State) (y : Booth) (b : Bool), y = (s.ring ring.val).booth booth.val →
    s' = s.modYard (fun z => { z with slots := Assoc.put z.slots (tentOfRing ring.val) (Assoc.get 0 z.slots (tentOfRing ring.val) + 1) }) →
    b = Spec.bubbleNow s (tentOfRing ring.val) y →
    (s.ringClock ring.val = false → exec (.boothIssueSlot ring booth) s = .next s) ∧
    (s.ringClock ring.val = true → 0 < y.busy → exec (.boothIssueSlot ring booth) s = .next (s'.modBooth ring.val booth.val (fun _ =>
      { Spec.stepPattern s (tentOfRing ring.val) y b with
          busy := y.busy - 1, claims := if b then y.claims + 1 else y.claims }))) ∧
    (s.ringClock ring.val = true → y.busy = 0 → b = true → exec (.boothIssueSlot ring booth) s =
      .next (s'.modBooth ring.val booth.val (fun _ => Spec.stepPattern s (tentOfRing ring.val) y true))) ∧
    (s.ringClock ring.val = true → y.busy = 0 → b = false → 0 < y.claims → exec (.boothIssueSlot ring booth) s =
      .next (s'.modBooth ring.val booth.val (fun _ => { Spec.stepPattern s (tentOfRing ring.val) y false with claims := y.claims - 1 }))) ∧
    (s.ringClock ring.val = true → y.busy = 0 → b = false → y.claims = 0 → exec (.boothIssueSlot ring booth) s =
      .next ((s'.modBooth ring.val booth.val (fun _ => Spec.stepPattern s (tentOfRing ring.val) y false)).issueSlot ring booth false))) ∧
  (∀ (ring : RingId) (s : State), tentOfRing ring.val ∉ s.yard.droop → exec (.droopDetect ring) s = .next (s.modYard (fun y => { y with
    droop := insertNat (tentOfRing ring.val) y.droop
    droops := Assoc.put y.droops (tentOfRing ring.val) (min (Assoc.get 0 y.droops (tentOfRing ring.val) + 1) (2 ^ 64 - 1)) }))) ∧
  (∀ (ring : RingId) (s : State), tentOfRing ring.val ∈ s.yard.droop → exec (.droopDetect ring) s = .next s) ∧
  ∀ (tent : TentId) (s : State), exec (.droopBurstEnd tent) s =
    .next (s.modYard (fun y => { y with droop := y.droop.filter (fun t => t != tent.val) }))

/-- R38, R39, R41, R44, R45: the choice in a free slot. The oldest ready troupe that has been passed over for 256 slots issues; with none, the oldest
ready one, unless the slot is asked for by the limit alone. The troupe chosen and those not ready start their counts again, the other ready
ones count the slots taken, and the booth stays busy for all but the first of them; the troupe is looked at again, so that a subset whose
next instruction has to wait ends its run. RUN_LIMIT ends a run of 64 instructions, its stamp the
slot of the last one. The subset that runs: subsets of one PC that wait for nothing are merged, keeping the smallest stamp, and two hold one PC
only while one of them waits; the running subset goes on while it is ready and has issued fewer than 64 instructions; else its run ends, with
the slot of its last instruction as its stamp, and of the ready subsets the one with the smallest stamp runs, at equal stamps the one with the
lowest thread; with no ready subset none does. -/
def Obligations.SlotChoice : Prop :=
  (∀ (ring : RingId) (booth : BoothId) (limitOnly : Bool) (s s1 s2 : State) (l ready late : List (TroupeRef × Pick)) (w : TroupeRef × Pick),
    Spec.looks s ring booth = (s1, l) → ready = l.filter (fun p => p.2.isReady) →
    late = ready.filter (fun p => match ((s1.ring ring.val).booth booth.val).troupe? p.1.slot.val with
      | some t => decide (256 ≤ t.passedOver) | none => false) →
    (if late = [] then (if limitOnly then none else ready.head?) else late.head?) = some w → s2 = s1.issuePick w.1 w.2 →
    s.issueSlot ring booth limitOnly = ((s2.modBooth ring.val booth.val (fun y =>
      { y with
          troupes := y.troupes.map (fun t => { t with passedOver :=
            if t.slot = w.1.slot.val ∨ t.slot ∉ ready.map (fun p => p.1.slot.val) then 0
            else t.passedOver + (y.slots - ((s1.ring ring.val).booth booth.val).slots) })
          busy := y.slots - ((s1.ring ring.val).booth booth.val).slots - 1 })).look ring booth w.1.slot.val).1) ∧
  (∀ (ring : RingId) (booth : BoothId) (s : State), (∃ t ∈ ((s.ring ring.val).booth booth.val).troupes, 256 ≤ t.passedOver) →
    s.ringClock ring.val = true → ((s.ring ring.val).booth booth.val).busy = 0 → ((s.ring ring.val).booth booth.val).claims = 0 →
    Spec.bubbleNow s (tentOfRing ring.val) ((s.ring ring.val).booth booth.val) = false →
    exec (.starvationLimit ring booth) s = .next (((s.modYard (fun z =>
        { z with slots := Assoc.put z.slots (tentOfRing ring.val) (Assoc.get 0 z.slots (tentOfRing ring.val) + 1) })).modBooth ring.val booth.val
      (fun _ => Spec.stepPattern s (tentOfRing ring.val) ((s.ring ring.val).booth booth.val) false)).issueSlot ring booth true)) ∧
  (∀ (who : TroupeRef) (s : State) (t : Troupe) (u : Subset), s.troupe? who = some t → t.running.bind t.subset? = some u → 64 ≤ t.runCount →
    exec (.runLimit who) s = .next (s.setTroupe who { t with
      subsets := t.subsets.map (fun x => if x.low = u.low then { u with stamp := t.lastSlot } else x), running := none })) ∧
  (∀ (t : Troupe) (ready : Subset → Bool),
    (t.merged ready).subsets.Pairwise (fun x y => x.pc = y.pc → ready x = false ∨ ready y = false) ∧
    (∀ th, th ∈ (t.merged ready).live ↔ th ∈ t.live) ∧
    ∀ x ∈ (t.merged ready).subsets, ∃ l : List Subset, l ≠ [] ∧ (∀ y ∈ l, y ∈ t.subsets ∧ y.pc = x.pc ∧ x.stamp ≤ y.stamp) ∧
      (1 < l.length → ∀ y ∈ l, ready y = true) ∧ (∀ th, th ∈ x.threads ↔ ∃ y ∈ l, th ∈ y.threads) ∧ ∃ y ∈ l, x.stamp = y.stamp) ∧
  ∀ (t t1 t' : Troupe) (ready : Subset → Bool) (r o : Option Subset), t1 = t.merged ready → r = t1.running.bind t1.subset? →
    t.choose ready = (t', o) →
    (∀ u, r = some u → ready u = true → t.runCount < 64 → t' = t1 ∧ o = some u) ∧
    ((∀ u, r = some u → ready u = false ∨ 64 ≤ t.runCount) →
      t'.subsets = (match r with
        | some u => t1.subsets.map (fun x => if x.low = u.low then { u with stamp := if 0 < t.runCount then t.lastSlot else u.stamp } else x)
        | none => t1.subsets) ∧
      (o = none → t'.running = none ∧ ∀ x ∈ t'.subsets, ready x = false) ∧
      ∀ u, o = some u → u ∈ t'.subsets ∧ ready u = true ∧ t'.running = some u.low ∧ t'.runCount = 0 ∧
        ∀ x ∈ t'.subsets, ready x = true → u.stamp < x.stamp ∨ (u.stamp = x.stamp ∧ u.low ≤ x.low))

/-- R37, R40, R79, R103, R194, R346: the ends of waits. A latency that has elapsed ends the wait for its registers. Load data that have all
come, none dead and none in error, are written to the registers of each thread, zero- or sign-extended, after the L1 lines that they
allocate, and the memory wait ends; bytes that a .L line holds stand for the fetched ones. An
acknowledgement that has come takes one off those awaited, the last one forgets the write, and the ring barrier is looked at again. -/
def Obligations.WaitsEnd : Prop :=
  (∀ (who : TroupeRef) (id : Nat) (s : State) (t : Troupe), s.troupe? who = some t →
    exec (.latencyElapsed who id) s = .next (s.setTroupe who { t with pending := t.pending.filter (fun p => p.memory || p.id != id) })) ∧
  (∀ (ring : RingId) (op : Nat) (s s1 : State) (o : LoadOp) (t : Troupe), Assoc.find? (s.ring ring.val).loads op = some o → o.atom = false →
    o.bad = none → (∀ d ∈ o.dsts, ∃ b, Assoc.find? o.got d.grain = some (.data b)) → (∀ p ∈ o.got, ∃ b, p.2 = .data b) →
    s1 = (if ((s.modRing ring.val (fun r => { r with loads := Assoc.del r.loads op })).ring ring.val).takesLines o then
      (s.modRing ring.val (fun r => { r with loads := Assoc.del r.loads op })).fillLines ring.val o
      else s.modRing ring.val (fun r => { r with loads := Assoc.del r.loads op })) →
    s1.troupe? o.who = some t → (∃ p ∈ t.pending, p.id = o.pend) →
    exec (.loadResponse ring op) s = .next (s1.setTroupe o.who
      { o.dsts.foldl (fun x d => x.putWords false d.thread (BitVec.ofNat 8 o.reg) (if o.size ≤ 4 then 1 else o.size / 4)
          (let bs := match Assoc.find? o.got d.grain with
             | some (.data b) => ((underMask (Assoc.find? o.under d.grain) b).drop d.off).take o.size
             | _ => []
           if o.signed ∧ o.size ≤ 2 then ((BitVec.ofNat (8 * o.size) (leNat bs)).signExtend 32).toNat else leNat bs)) t with
          pending := t.pending.filter (fun p => p.id != o.pend) })) ∧
  ∀ (ring : RingId) (op : Nat) (s : State) (w : WriteOp), Assoc.find? (s.ring ring.val).writes op = some w → w.acked ≠ 0 →
    exec (.writeAck ring op) s = .next ((s.modRing ring.val (fun r => { r with
      writes := if w.left - 1 = 0 then Assoc.del r.writes op else Assoc.put r.writes op { w with left := w.left - 1, acked := w.acked - 1 } }))
      |>.settleBarrier ring.val)

/-- R50, R63: a troupe starts with v0 its thread number, v1 its number in the ring group, every other vector
register 0 and every predicate false; u0 to u7 as R63 gives them, then the words of the argument block at ARG_VA, and 0 beyond; one subset of
all its threads at the entry point; accumulators zero. It issues nothing before its clears and the one of its group are done, and the latter
makes the whole allocation read as zeros and leaves every other byte of the scratchpad. That the argument block is read with the descriptor,
once the command has been fetched, is the model's choice (log entry 58). -/
def Obligations.InitialTroupe : Prop :=
  (∀ (d : DispatchSt) (ref : CmdRef) (ctx phase group g ring i slot stamp : Nat) (t : Troupe),
    t = newTroupe d ref ctx phase group g ring d.desc.scratchBytes i slot stamp →
    (∀ th n, n < 256 → t.getV th n = if n = 0 ∧ th < d.desc.width then BitVec.ofNat 32 th
      else if n = 1 ∧ th < d.desc.width then BitVec.ofNat 32 (i * d.desc.width + th) else 0) ∧
    (∀ th n, t.getP th n = false) ∧ t.acc = [] ∧ t.nf = [] ∧ t.cleared = false ∧
    t.getU 0 = BitVec.ofNat 32 g ∧ t.getU 1 = BitVec.ofNat 32 i ∧ t.getU 2 = BitVec.ofNat 32 d.desc.troupes ∧
    t.getU 3 = BitVec.ofNat 32 (d.desc.kernelId * 65536 + tentOfRing ring * 256 + ring) ∧ t.getU 4 = BitVec.ofNat 32 d.desc.width ∧
    t.getU 5 = BitVec.ofNat 32 (1024 * d.desc.scratch) ∧ t.getU 6 = BitVec.ofNat 32 d.groups ∧ t.getU 7 = 0 ∧
    (∀ n, t.getU (8 + n) = d.args.getD n 0) ∧
    t.subsets = [{ threads := List.range d.desc.width, pc := d.desc.entry, stamp := stamp, wait := .none }] ∧ t.running = none ∧ t.pending = []) ∧
  (∀ (s s1 : State) (q : QueueId) (ctx ordinal : Nat) (c : FetchedCmd) (seed : W64) (k : Desc) (bs : List Byte), c.words.length = 12 →
    k = descOf c.words → c.bad = none → cmdLoaded c.words = false →
    s.readVa (.cmd ⟨q, c.count⟩) 0 ctx k.argVa (4 * k.argWords) = (s1, .ok bs) → ∃ c1, s.loadCmd q ctx c = (s1, c1) ∧ c1.bad = none ∧
      c1.count = c.count ∧
      ∀ d, d = newDispatch c1.words seed ordinal → d.desc = k ∧ d.args.length = k.argWords ∧
        ∀ n < k.argWords, d.args.getD n 0 = BitVec.ofNat 32 (leNat ((bs.drop (4 * n)).take 4))) ∧
  (∀ (i : Instr) (who : TroupeRef) (op : AlOp) (s : State) (t : Troupe), Spec.troupeOf i = some who → opOf i = some op →
    s.troupe? who = some t → (t.cleared = false ∨ (s.ring who.ring.val).groupCleared t = false) → exec i s = .next s) ∧
  ∀ (ring : RingId) (s : State) (g : RingGroup), (s.ring ring.val).groups.find? (fun g => !g.cleared) = some g →
    (s.ring ring.val).scratch.wf = true →
    ∃ m, exec (.scratchpadClearDone ring) s = .next (s.modRing ring.val (fun r => { r with
        groups := r.groups.map (fun x => if x.id = g.id then { x with cleared := true } else x), scratch := m })) ∧
      m.wf = true ∧ ∀ a, Mem.read m a = if g.base ≤ a ∧ a < g.base + g.size then 0 else Mem.read (s.ring ring.val).scratch a

/-- R61 to R65, R108, R167, R200, R323, R374, R410: the placement of a ring group on a ring that has room for all of its troupes, under fixed
and under free placement: the group
joins the ring with its scratchpad range (no STEP_BOUNDARY of its context accepted before the dispatch is still in progress), the ring takes the
kernel's L1 size and keeps local lines alone, the troupes go to their booths, the tent is idle no longer, and the dispatch counts the group as
placed, under free placement with its ring in the journal. A ring serves another context only once no group, no work and no state kept for the
debugger is left on it; then its reduction ells are folded, for which the placement waits, and its weight slots and lines are given up. A ring
takes the lowest group not placed, under fixed placement among those that go to it. The clears of R64: the oldest troupe not cleared is cleared
next. Which range and booths a group gets, and when groups are of one kernel, are the model's choices (log entries 26, 163, 164). -/
def Obligations.PlacementAndClears : Prop :=
  (∀ (ref : CmdRef) (ring : RingId) (s s1 : State) (c : Cmd) (d : DispatchSt) (ctx g base : Nat) (booths : List Nat) (r r1 : Ring) (ok : Bool),
    s.cmd? ref = some c → c.dispatch = some d → c.ctx = some ctx → c.st = .running → s.ctxLive ctx = true →
    (∀ b ∈ s.boundaries ctx, c.accept ≤ b) → s.ringClock ring.val = true → s.groupFor d ring.val = some g →
    (d.fixed = false → ∀ x, s.replayRing ctx ref c.accept g = some x → x = ring.val) → r = s.ring ring.val → r.openTo ctx = true →
    (d.desc.groupsMax = 0 ∨ (r.groups.filter (fun x => x.kernel == d.desc.kernel)).length < d.desc.groupsMax) →
    (r.groups = [] ∨ r.l1Units = d.desc.l1Units) → s.indexClash ctx ref g r = false →
    r.scratchFit d.desc.scratchBytes d.desc.l1Units = some base →
    d.desc.spread ((List.range 4).map (fun b => (r.booth b).room)) = some booths →
    s.passRing ring.val ctx = (s1, ok) → r1 = s1.ring ring.val →
    exec (.ringGroupPlace ref ring) s = .next (if ok then
        let s2 := ((s1.setRing ring.val (Ring.addTroupes { r1 with
            l1Units := d.desc.l1Units
            groups := r1.groups ++ [{ id := r1.nextGroup, cmd := ref, ctx, index := g, base, size := d.desc.scratchBytes
                                      cleared := decide (d.desc.scratchBytes = 0), live := d.desc.troupes, kernel := d.desc.kernel }]
            nextGroup := r1.nextGroup + 1
            l1 := if r1.groups = [] ∧ r1.l1Units ≠ d.desc.l1Units then [] else r1.l1.filter (fun l => l.2.loc.isSome)
            loads := Assoc.mapVals (fun _ (o : LoadOp) => if o.loc.isNone then { o with l1 := [] } else o) r1.loads }
          d ref ctx (cmdPhase c.words) r1.nextGroup g ring.val d.desc.scratchBytes booths)).modIsland (tentOfRing ring.val)
            (fun i => { i with idleSince := none })).modCmd ref (fun c => { c with dispatch := c.dispatch.map (fun d => d.place g ring.val) })
        if d.fixed then s2
        else s2.jrnMod (s2.stepKey ctx ref) (fun j =>
          { j with cmds := j.cmds.map (fun e => if e.accept = c.accept then { e with rings := e.rings.set g ring.val } else e) })
      else s1)) ∧
  (∀ (ref : CmdRef) (ring : RingId) (s : State) (c : Cmd) (d : DispatchSt) (ctx : Nat), s.cmd? ref = some c → c.dispatch = some d →
    c.ctx = some ctx → (s.ring ring.val).openTo ctx = false → exec (.ringGroupPlace ref ring) s = .next s) ∧
  (∀ (s s1 : State) (ring ctx other : Nat) (r : Ring) (ok : Bool), r = s.ring ring →
    (r.ctx = none ∨ r.ctx = some ctx → r.openTo ctx = true ∧ s.passRing ring ctx = (s.modRing ring (fun r => { r with ctx := some ctx }), true)) ∧
    (r.ctx = some other → other ≠ ctx → (r.openTo ctx = true ↔ r.groups = [] ∧ r.debug = false ∧ r.workLeft = false) ∧
      (s.foldRing ring = (s1, ok) → s.passRing ring ctx =
        (if ok then s1.modRing ring (fun r => { r with ctx := some ctx, wslots := [], l1 := [], streams := [] }) else s1, ok)))) ∧
  (∀ (s : State) (d : DispatchSt) (ring g n : Nat), s.groupFor d ring = some g → n = (s.allowedNow d).length →
    ring ∈ s.allowedNow d ∧ d.next ≤ g ∧ g < d.groups ∧ g ∉ d.placedOut ∧ (d.fixed = true → (s.allowedNow d)[g % n]? = some ring) ∧
    ∀ x, d.next ≤ x → x < g → (d.fixed = true → x % n = g % n) → x ∈ d.placedOut) ∧
  (∀ (ring : RingId) (booth : BoothId) (s : State) (t : Troupe),
    ((s.ring ring.val).booth booth.val).troupes.find? (fun t => !t.cleared) = some t →
    exec (.registerClearDone ring booth) s = .next (s.modBooth ring.val booth.val (fun y => { y with
      troupes := y.troupes.map (fun u => if u.slot = t.slot then { t with cleared := true } else u) })))

/-- R56, R60, R90, R128, R248, R260: COMBINER_ACCEPT takes the oldest troupe instruction and sends one request for each of its addresses (each
ell for RED.FOLD), in the order of their lowest participants. WEIGHMASTER_ACCEPT adds the oldest STAT.W to its tag's entry of the tent, or counts
its values when the tag is out of range; of a dispatch behind a boundary in progress they are kept for the new step. SCRATCHPAD_ARBITRATION
serves what waits while 512 B of reads and of writes last, one of more than 512 B in parts: what the last a-cycle refused, the weight port first,
then the weight port, then vector code, atomics and copies (the order among these three is the model's choice, log entry 179); a request never
passes an earlier refused one of its troupe, and what the a-cycle refused comes first in the next. -/
def Obligations.QueuesTake : Prop :=
  (∀ (ring : RingId) (s : State) (c : CombOp) (rest : List CombOp), (s.ring ring.val).combiner = c :: rest →
    exec (.combinerAccept ring) s =
      .next (c.requests.foldl (fun z q => z.sendComb ring.val q) (s.modRing ring.val (fun r => { r with combiner := rest }))) ∧
    (∀ p ∈ c.parts, ∃ q ∈ c.requests, p ∈ q.parts) ∧
    (∀ q ∈ c.requests, q = { c with parts := q.parts } ∧ q.parts.Sublist c.parts ∧
      ∀ p ∈ q.parts, ∀ p' ∈ q.parts, Spec.groupKey c p = Spec.groupKey c p') ∧
    (c.requests.flatMap (fun q => q.parts.take 1)).Sublist c.parts ∧
    ((c.requests.flatMap (fun q => q.parts.take 1)).map (Spec.groupKey c)).Nodup) ∧
  (∀ (tent : TentId) (s : State) (q : StatReq) (rest : List StatReq) (c : Ctx), (s.tent tent.val).statq = q :: rest → s.ctx? q.ctx = some c →
    exec (.weighmasterAccept tent) s = .next ((s.modTent tent.val (fun t => { t with statq := rest })).setCtx q.ctx
      (if ∃ b ∈ s.boundaries q.ctx, b < q.accept then { c with later := c.later ++ [(tent.val, q)] }
       else if q.tag < c.tagCount then
         { c with tags := Assoc.put c.tags (q.tag * 8 + tent.val) (q.vals.foldl
             (fun e v => e.add (Assoc.get 0 c.eref q.tag) (decodeFmt q.fmt v)) (Assoc.get {} c.tags (q.tag * 8 + tent.val))) }
       else { c with outOfRange := BitVec.ofNat 64 (min (c.outOfRange.toNat + q.vals.length) (2 ^ 64 - 1)) }))) ∧
  (∀ (ring : RingId) (s : State) (r : Ring) (a a1 a2 a3 : Arb), r = s.ring ring.val →
    a1 = Arb.vector ring.val (Arb.grant ring.val ⟨s.setRing ring.val { r with sreqs := [] }, []⟩ (fun c => c.late && c.user == .weights))
      (r.sreqs.take r.refused) →
    a2 = Arb.grant ring.val a1 (fun c => c.late && !(c.user == .weights)) →
    a3 = Arb.vector ring.val (Arb.grant ring.val a2 (fun c => !c.late && c.user == .weights)) (r.sreqs.drop r.refused) →
    a = Arb.grant ring.val a3 (fun c => !c.late && !(c.user == .weights)) →
    exec (.scratchpadArbitration ring) s = .next ((a.s.modRing ring.val (fun r => { r with
      sreqs := a.refused, refused := a.refused.length, late := r.refusing, refusing := [], rdUsed := 0, wrUsed := 0 })).settleBarrier
        ring.val)) ∧
  (∀ (ring : Nat) (a : Arb) (q : ScratchReq) (left : Nat), left = 512 - (a.s.ring ring).portUsed q.isStore →
    Arb.one ring a q =
      if ∃ x ∈ a.refused, x.owner = q.owner then { a with refused := a.refused ++ [q] }
      else if q.cost ≤ left then { a with s := (a.s.modRing ring (fun r => r.portCount q.isStore q.cost)).serveScratch ring q }
      else if 512 < q.cost then
        { s := a.s.modRing ring (fun r => r.portCount q.isStore left), refused := a.refused ++ [q.withCost (q.cost - left)] }
      else { a with refused := a.refused ++ [q] }) ∧
  ∀ (r r' : Ring) (c : PortClaim) (left n : Nat), left = 512 - r.portUsed c.store → n = (if 512 < c.bytes then left else 0) → r' = r.grantOne c →
    (c.bytes ≤ left → r'.granted = r.granted ++ [c] ∧ r'.claims = r.claims ∧ r'.portUsed c.store = r.portUsed c.store + c.bytes) ∧
    (left < c.bytes → r'.granted = r.granted ∧ r'.claims = r.claims ++ [{ c with bytes := c.bytes - n, late := true }] ∧
      r'.portUsed c.store = r.portUsed c.store + n) ∧
    r'.portUsed (!c.store) = r.portUsed (!c.store) ∧ (r.portUsed c.store ≤ 512 → r'.portUsed c.store ≤ 512)

/-- R114 to R117, R123, R128: the front of the matrix path. WEIGHT_SLOT_WRITE reads the next 256 B of the source of the MX.LDW at the front and,
when it has read all, writes the tile to its slot, or slot pair; LATCH_BROADCAST gives the tile of the request made first to every array that
asks for that slot and has a free bank; FEEDER_ROW_READ reads the next activation row of the first MX.RUN that has one to read into the row
buffer, an FP32 row of two or three passes in two halves. The weight port asks the scratchpad's port first and uses what it was granted (log entry
152); a feeder row that the port has no room for is refused and is tried again. -/
def Obligations.MatrixFront : Prop :=
  (∀ (ring : RingId) (s : State) (r : Ring) (l : Ldw) (rest : List Ldw) (n : Nat) (got : List Byte), r = s.ring ring.val → r.ldq = l :: rest →
    r.ldwReady l = true → n = ((partOf l.got.length 256 l.ranges).map (·.2)).foldl (· + ·) 0 →
    got = l.got ++ readRanges r.scratch (partOf l.got.length 256 l.ranges) →
    (r.portHas .weights false = false → exec (.weightSlotWrite ring) s = .next (s.setRing ring.val (r.portAsk .weights false n))) ∧
    (r.portHas .weights false = true → got.length < (l.ranges.map (·.2)).foldl (· + ·) 0 →
      exec (.weightSlotWrite ring) s = .next (s.setRing ring.val { r.portUse .weights false with ldq := { l with got } :: rest })) ∧
    (r.portHas .weights false = true → (l.ranges.map (·.2)).foldl (· + ·) 0 ≤ got.length →
      exec (.weightSlotWrite ring) s = .next (((s.setRing ring.val { r.portUse .weights false with
        ldq := rest, wslots := putTile r.wslots l.slot (tileOf l got) }).noteLatches ring.val).settleBarrier ring.val))) ∧
  (∀ (m : FMap WSlot) (slot : Nat) (t : Tile), Assoc.find? (putTile m slot t) slot = some (.tile t) ∧
    (pairTile t.fmt = true → Assoc.find? (putTile m slot t) (slot + 1) = some .upper) ∧
    ∀ k, k ≠ slot → k / 2 ≠ slot / 2 → k ≠ slot + 1 → Assoc.sortedFrom 0 m = true → Assoc.find? (putTile m slot t) k = Assoc.find? m k) ∧
  (∀ (ring : RingId) (s s' : State) (r : Ring) (o : MxRunOp) (t : Tile) (asks : List MxRunOp) (before after : List Nat),
    s' = s.noteLatches ring.val → r = s'.ring ring.val →
    asks = r.booths.flatMap (fun b => if b.2.freeBanks = [] then [] else r.latchWants b.2) → o ∈ asks →
    (∀ x ∈ asks, x.seq = o.seq → x = o) → r.latchq = before ++ o.seq :: after → (∀ q ∈ before, ∀ x ∈ asks, x.seq ≠ q) →
    Assoc.find? r.wslots o.slot = some (.tile t) →
    exec (.latchBroadcast ring) s = .next ((s'.setRing ring.val { r with
      booths := Assoc.mapVals (fun _ (y : Booth) => y.latch o.slot t (r.latchWants y)) r.booths }).noteLatches ring.val)) ∧
  (∀ (ring : RingId) (s : State) (q : Nat), q ∈ ((s.noteLatches ring.val).ring ring.val).latchq ↔
    ∃ y ∈ (s.ring ring.val).booths, ∃ o ∈ (s.ring ring.val).latchWants y.2, o.seq = q) ∧
  (∀ (ring : RingId) (s : State), ∃ kept new, ((s.noteLatches ring.val).ring ring.val).latchq = kept ++ new ∧
    kept.Sublist (s.ring ring.val).latchq ∧ ∀ q ∈ new, q ∉ (s.ring ring.val).latchq) ∧
  ∀ (ring : RingId) (booth : BoothId) (s : State) (r : Ring) (y : Booth) (o : MxRunOp) (n : Nat) (p : Nat × Nat) (sc : List (Nat × Nat)),
    r = s.ring ring.val → y = r.booth booth.val → (y.runs.take 2).find? (fun o => decide (o.rowsRead < o.rows)) = some o →
    (o.half = true ∨ y.feed.length < 16) → r.rowWaits o (o.rowRanges o.rowsRead) = false → o.rowRanges o.rowsRead = p :: sc →
    n = (if 2 ≤ o.cfg.passes then 64 else p.2 + (sc.map (·.2)).foldl (· + ·) 0) →
    (r.roomFor (.feeder booth.val) false n = false →
      exec (.feederRowRead ring booth) s = .next (s.setRing ring.val (r.portRefuse (.feeder booth.val) false n))) ∧
    (r.roomFor (.feeder booth.val) false n = true → o.half = false →
      exec (.feederRowRead ring booth) s = .next (s.setRing ring.val ((r.setBooth booth.val { y.setRun (if 2 ≤ o.cfg.passes then
          { o with half := true } else { o with rowsRead := o.rowsRead + 1, half := false }) with
        feed := y.feed ++ [{ seq := o.seq, row := o.rowsRead
                             bytes := Mem.readBytes r.scratch p.1 (if 2 ≤ o.cfg.passes then 64 else if o.cfg.passes = 1 then 128 else p.2)
                             scales := readRanges r.scratch sc }] }).portTake (.feeder booth.val) false n))) ∧
    (r.roomFor (.feeder booth.val) false n = true → o.half = true →
      exec (.feederRowRead ring booth) s = .next (s.setRing ring.val ((r.setBooth booth.val { y.setRun { o with
          rowsRead := o.rowsRead + 1, half := false } with
        feed := y.feed.map (fun f => if f.seq = o.seq ∧ f.row = o.rowsRead then
          { f with bytes := f.bytes ++ Mem.readBytes r.scratch (p.1 + 64) 64 } else f) }).portTake (.feeder booth.val) false n)))

/-- R109, R118, R123 to R125, R132, R144, R161: the array. A bubble that is owed enters in place of a row and writes nothing. A row whose data are
buffered whole, whose tile is latched and whose unit no earlier MX.DRN has still to read enters with its products; after the last row of an MX.RUN
its queue entry and its latch are free; the rows of the phase are counted. ACCUMULATOR_ROW_WRITE adds the oldest row in the array to its
accumulator row: every element takes its K-step of R144, from zero at START; the non-finite record of a unit keeps its place where no element
becomes NaN or infinite (R161). -/
def Obligations.ArrayRows : Prop :=
  (∀ (ring : RingId) (booth : BoothId) (s : State), 0 < ((s.ring ring.val).booth booth.val).owed →
    exec (.arrayRowEnter ring booth) s =
      .next (s.modBooth ring.val booth.val (fun y => { y with owed := y.owed - 1, drainHold := true }))) ∧
  (∀ (ring : RingId) (booth : BoothId) (s : State) (y : Booth) (o : MxRunOp) (rest : List MxRunOp) (k seq : Nat) (f : FeedRow) (t : Tile),
    y = (s.ring ring.val).booth booth.val → y.owed = 0 → y.runs = o :: rest →
    o.rowsIn < o.rowsRead → y.feed.find? (fun f => f.seq == o.seq && f.row == o.rowsIn) = some f → o.bank = some k →
      Assoc.find? y.latches k = some (t, seq) →
    y.unitUnread o ((8 * o.acc + o.rowsIn) / 8) = false →
    exec (.arrayRowEnter ring booth) s = .next (((s.modBooth ring.val booth.val (fun _ =>
      let p : PipeRow := ⟨o.seq, o.uid, o.ctx, 8 * o.acc + o.rowsIn, o.start, rowProducts o.cfg t f.bytes f.scales⟩
      let z : Booth := { y with feed := y.feed.erase f, pipe := y.pipe ++ [p] }
      if o.rowsIn + 1 = o.rows then { z with
          mq := y.mq.filter (fun q => match q with | .run x => x.seq != o.seq | .drn _ => true)
          latches := y.latches.filter (fun l => l.2.2 != o.seq) }
      else z.setRun { o with rowsIn := o.rowsIn + 1 })).noteLatches ring.val).modCtx o.ctx (fun c => { c with
        phases := Assoc.put c.phases o.phase { Assoc.get {} c.phases o.phase with
          rows := min ((Assoc.get {} c.phases o.phase).rows + max 1 o.cfg.passes) (2 ^ 64 - 1) } }))) ∧
  (∀ (ring : RingId) (booth : BoothId) (s : State) (p : PipeRow) (rest : List PipeRow), ((s.ring ring.val).booth booth.val).pipe = p :: rest →
    exec (.accumulatorRowWrite ring booth) s = .next (s.modBooth ring.val booth.val (fun y =>
      (Booth.modAcc { y with pipe := rest } p.uid p.ctx (fun t => t.accumulate p)).prune))) ∧
  ∀ (t : Troupe) (p : PipeRow), (∀ n < 32, ((t.accumulate p).accRow p.accRow).getD n AccEl.zero =
      accStep (if p.start then AccEl.zero else (t.accRow p.accRow).getD n AccEl.zero) (p.prods.getD n [])) ∧
    (∀ k, k ≠ p.accRow → (t.accumulate p).accRow k = t.accRow k) ∧ (t.accumulate p).v = t.v ∧ (t.accumulate p).u = t.u ∧
    (t.accumulate p).p = t.p ∧ (t.accumulate p).subsets = t.subsets ∧
    (p.start = false → (∀ n < 32, (((t.accumulate p).accRow p.accRow).getD n AccEl.zero).special = true →
        ((t.accRow p.accRow).getD n AccEl.zero).special = true) →
      ∀ u, (Assoc.find? (t.accumulate p).nf u).map (fun n => (n.row, n.col)) = (Assoc.find? t.nf u).map (fun n => (n.row, n.col)))

/-- R99, R126, R128, R135, R153 to R156, R164: the drain engine. A read held back by a bubble takes its a-cycle, and while a row that it has
read is not written the engine reads no other. Else the next row of the first MX.DRN that has one is converted, its saturations are counted,
and it waits to be written; DRAIN_WRITE writes the oldest row into scratchpad, or registers, and its row sum, when no earlier read is in the way
and the port has room for its bytes, and is refused else; the last row ends the MX.DRN, and its first non-finite position is reported: of the rows
converted and of the elements that the units' records name, the earliest in drain order, what was converted there before what a record says. -/
def Obligations.DrainRows : Prop :=
  (∀ (ring : RingId) (booth : BoothId) (s : State), ((s.ring ring.val).booth booth.val).drainHold = true →
    exec (.drainRowRead ring booth) s = .next (s.modBooth ring.val booth.val (fun y => { y with drainHold := false }))) ∧
  (∀ (ring : RingId) (booth : BoothId) (s : State), ((s.ring ring.val).booth booth.val).drainHold = false →
    ((s.ring ring.val).booth booth.val).drain ≠ [] → exec (.drainRowRead ring booth) s = .next s) ∧
  (∀ (ring : RingId) (booth : BoothId) (s : State) (y : Booth) (d : MxDrnOp) (t : Troupe), y = (s.ring ring.val).booth booth.val →
    y.drainHold = false → y.drain = [] → y.drns.find? (fun d => decide (d.rowsRead < d.rows)) = some d → y.owner? d.uid d.ctx = some t →
    y.unitDone d (d.acc + d.rowsRead / 8) = true →
    ∃ y' bs sum, exec (.drainRowRead ring booth) s = .next ((s.modBooth ring.val booth.val (fun _ => y')).addSat d.ctx
        (((List.range 32).map (fun n => (drainEl d d.rowsRead n ((t.accRow (8 * d.acc + d.rowsRead)).getD n AccEl.zero)).sat)).foldl (· + ·) 0)) ∧
      y'.drain = [{ seq := d.seq, row := d.rowsRead, bytes := bs, rowsum := sum }] ∧
      bs = drainRowBytes d ((List.range 32).map (fun n => (drainEl d d.rowsRead n ((t.accRow (8 * d.acc + d.rowsRead)).getD n AccEl.zero)).enc)) ∧
      (d.rowsum = false → sum = none) ∧
      (d.rowsum = true → sum = some (BitVec.ofNat 32 (roundFmt 1 ((t.accRow (8 * d.acc + d.rowsRead)).foldl
        (fun a e => a.add (FVal.scale d.scaleExp e.val)) FVal.zero)))) ∧
      y'.pipe = y.pipe ∧ y'.feed = y.feed ∧ y'.latches = y.latches ∧ y'.slots = y.slots ∧ y'.mq.length = y.mq.length ∧
      ∃ d', y'.drns.find? (fun x => x.seq == d.seq) = some d' ∧ d'.rowsRead = d.rowsRead + 1 ∧
        d'.first = ((List.range 32).map (fun n => ((drainEl d d.rowsRead n ((t.accRow (8 * d.acc + d.rowsRead)).getD n AccEl.zero)).nf).map
          (fun k => (d.rowsRead, n, k.1, k.2)))).foldl earlier (earlier (recordCandidate t d (d.acc + d.rowsRead / 8)) d.first)) ∧
  (∀ a b x : Nat × Nat × Nat × Bool, earlier (some a) (some b) = some x →
    x = (if a.1 < b.1 ∨ (a.1 = b.1 ∧ a.2.1 < b.2.1) then a else b)) ∧
  (∀ (ring : RingId) (booth : BoothId) (s : State) (r : Ring) (y : Booth) (d : MxDrnOp) (row : DrainRow) (rest : List DrainRow) (n : Nat),
    r = s.ring ring.val → y = r.booth booth.val → y.drain = row :: rest → y.drns.find? (fun d => d.seq == row.seq) = some d →
    r.drainWaits d (d.rowRanges row.row) = false → n = ((d.rowRanges row.row).map (·.2)).foldl (· + ·) 0 →
    (r.roomFor (.drain booth.val) true n = false →
      exec (.drainWrite ring booth) s = .next (s.setRing ring.val (r.portRefuse (.drain booth.val) true n))) ∧
    ∀ (y1 : Booth) (s1 : State), r.roomFor (.drain booth.val) true n = true →
      y1 = { y with drain := rest, troupes := if d.toRegs then
        y.troupes.map (fun t => if t.uid = d.uid ∧ t.ctx = d.ctx then t.putDrained d row else t) else y.troupes } →
      s1 = (s.setRing ring.val { (r.setBooth booth.val (if d.rowsWritten + 1 = d.rows then
          { y1 with mq := y1.mq.filter (fun q => match q with | .drn x => x.seq != d.seq | .run _ => true) }
          else y1.setDrn { d with rowsWritten := d.rowsWritten + 1 })).portTake (.drain booth.val) true n with
        scratch :=
          let m := if d.toRegs then r.scratch else Mem.writeBytes r.scratch (d.addr + rowAt d.pitch (drainBytes d.dfmt) row.row) row.bytes
          match row.rowsum with
          | some w => Mem.writeBytes m (d.rowsumAddr + 4 * row.row) (leBytes 4 w.toNat)
          | none => m }).settleBarrier ring.val →
      exec (.drainWrite ring booth) s =
        .next (if d.rowsWritten + 1 = d.rows then (s1.endDrain d).modBooth ring.val booth.val Booth.prune else s1)) ∧
  (∀ (t : Troupe) (d : MxDrnOp) (row : DrainRow) (i n : Nat), n < 255 → d.dreg + row.row < 255 → (t.putDrained d row).getV i n =
    if i < 32 ∧ n = d.dreg + row.row then BitVec.ofNat 32 (leNat ((row.bytes.drop (4 * i)).take 4)) else t.getV i n) ∧
  (∀ (d : MxDrnOp) (s : State), d.first = none → d.sumNf = none → s.endDrain d = s) ∧
  ∀ (d : MxDrnOp) (s : State) (row col kind : Nat) (inAcc : Bool), d.first = some (row, col, kind, inAcc) →
    s.endDrain d = s.nfEventOf d.who.ring.val d.ctx d.org d.pc (nfDetail 1 kind inAcc 0xFF (d.acc + row / 8) row col 0 d.dfmt)

/-- R171, R185 to R190, R192 to R194, R202, R203, R222, R230, R355, R366: what a bushel bank does with the request it serves, a load, a store,
an atomic, or a read or write of another agent. A request on an ell that a frame holds is performed on the copy, when what it reads is held or
dead, or the ell is another owner's, and the copy is put back. With no frame, a store to host memory and a read of it by another agent go
through the CXL port; a write that reads nothing of a device ell takes a frame without a fetch, or, beside the bushel, goes back to the module.
A request for an ell being fetched joins its waiter list; a miss takes the lowest free miss register while its DRAM bank has fewer than 512,
with a frame reserved unless it bypasses the bushel; else it goes to the overflow queue, or is refused when that holds 64 or the waiter pool says
so; while the pool has no entry at all, it stays. Behind an earlier request for its ell that waits it waits too. A load gives what the read gives,
and a .DEAD one marks the grain; a store writes its bytes and is acknowledged, one of host memory goes on through the CXL port, and a partial
store to a poisoned grain is INTEGRITY. A grain that the host may hold is snooped first, and a drain bit holds what changes its ell. A refused
request that is sent again joins its bank before later ones for its ell, or the overflow queue, in the order of first arrival for its DRAM
bank. -/
def Obligations.BankServesRequest : Prop :=
  (∀ (tent : TentId) (bank : BushelBankId) (s : State) (q : BReq) (t : Tent) (g : Nat), Spec.atFront s tent.val bank.val q →
    q.kind.plain = true ∨ q.kind.atomic = true → t = s.tent tent.val → t.behind bank.val q.ell = false → g = grainOfEll q.ell q.grain →
    (∀ c k q' s0 s1 c', t.fetching q.ell = false → t.frameOf? q.ell = some k → t.copyOf? q.ell = some c → q' = s.keyed c q →
      (c.owned q'.key q'.gen = false ∨ c.has q.grain = true ∨ q.kind.whole = true) →
      (s.prepare (s.performReq c q').2 q.kind.isDead = (s0, true) → (Spec.touched s0 tent.val k q).performReq c q' = (s1, c') →
        exec (Spec.bankCommand tent bank q) s = .next (Spec.leaves (s1.putAfter c c' q.kind.isDead) tent.val bank.val q)) ∧
      (s.prepare (s.performReq c q').2 q.kind.isDead = (s0, false) → (s0.tent tent.val).chosenHits bank.val = [] →
        exec (Spec.bankCommand tent bank q) s = .next s0.bushelDone)) ∧
    (isHostEll q.ell = true → t.fetching q.ell = false → t.copyOf? q.ell = none →
      (∀ op bs keep, q.kind = .store op bs keep → exec (.bushelRequest tent bank) s =
        .next (Spec.leaves (s.hostWrite g bs (.ring (Fin.ofNat 192 q.ring) op)) tent.val bank.val q)) ∧
      ∀ who, q.kind = .read who → exec (.bushelRequest tent bank) s = .next (Spec.leaves (s.hostGrain? who g).1 tent.val bank.val q)) ∧
    (∀ c q' s1 s2 s3 c', isHostEll q.ell = false → t.fetching q.ell = false → t.copyOf? q.ell = none → c = s.headerCopy q.ell →
      q' = s.keyed c q → q.kind.writes = true → s.needHeader [] q.ell = (s1, true) →
      (q.kind.noAlloc = false → c.owned q'.key q'.gen = false ∨ (q.kind.whole = true ∧ s.headerChecked q.ell = true) →
        s1.install c = (s2, true) → s2.performReq c q' = (s3, c') →
        exec (Spec.bankCommand tent bank q) s = .next (Spec.leaves (s3.putAfter c c' false) tent.val bank.val q)) ∧
      (q.kind.noAlloc = true → c.owned q'.key q'.gen = false → s1.performReq c q' = (s3, c') →
        exec (Spec.bankCommand tent bank q) s = .next (Spec.leaves (s3.storeEll c') tent.val bank.val q))) ∧
    (t.fetching q.ell = true →
      (t.pool (bankKey q.ell) = .room → exec (Spec.bankCommand tent bank q) s = .next (Spec.leaves ((s.modTent tent.val (fun t => { t with
        miss := Assoc.mapVals (fun _ (m : MissReg) => if m.ell = q.ell then
          { m with waiters := m.waiters ++ [q], bypass := m.bypass && q.kind.noAlloc } else m) t.miss })).modTentCounters tent.val
            (fun c => { c with merged := bump c.merged 1 })) tent.val bank.val q)) ∧
      (t.pool (bankKey q.ell) = .refuse →
        exec (Spec.bankCommand tent bank q) s = .next (Spec.leaves (Spec.refused s tent.val q) tent.val bank.val q)) ∧
      (t.pool (bankKey q.ell) = .wait → t.chosenHits bank.val = [] → exec (Spec.bankCommand tent bank q) s = .next s.bushelDone)) ∧
    (Spec.misses s tent.val q →
      (512 ≤ t.bankRegs (bankKey q.ell) →
        exec (Spec.bankCommand tent bank q) s = .next (Spec.leaves (Spec.overflowed s tent.val bank.val q) tent.val bank.val q)) ∧
      (t.bankRegs (bankKey q.ell) < 512 →
        (t.pool (bankKey q.ell) = .refuse →
          exec (Spec.bankCommand tent bank q) s = .next (Spec.leaves (Spec.refused s tent.val q) tent.val bank.val q)) ∧
        (t.pool (bankKey q.ell) = .wait ∨ Assoc.firstFree t.miss 0 4096 = none → t.pool (bankKey q.ell) ≠ .refuse →
          t.chosenHits bank.val = [] → exec (Spec.bankCommand tent bank q) s = .next s.bushelDone) ∧
        ∀ n, t.pool (bankKey q.ell) = .room → Assoc.firstFree t.miss 0 4096 = some n →
          (∀ c, t.copyOf? q.ell = some c → exec (Spec.bankCommand tent bank q) s =
            .next (Spec.leaves (Spec.opened s tent.val n q c (t.frameOf? q.ell)) tent.val bank.val q)) ∧
          ∀ s1 frame n', t.copyOf? q.ell = none → (if q.kind.noAlloc then (s, none) else s.reserve tent.val q.ell) = (s1, frame) →
            (s1.tent tent.val).freeReg? q = some n' → exec (Spec.bankCommand tent bank q) s =
            .next (Spec.leaves (Spec.opened s1 tent.val n' q (s.headerCopy q.ell) frame) tent.val bank.val q)))) ∧
  (∀ (tent : TentId) (bank : BushelBankId) (s : State) (q : BReq) (t : Tent), t = s.tent tent.val →
    q.kind.plain = true ∨ q.kind.atomic = true → (q.kind.plain = true → s.serveOverflow tent.val bank.val = (s, false)) →
    s.nextReq? [] ((t.bank bank.val).queue ++ (t.bank bank.val).coming) = some q → t.behind bank.val q.ell = true →
    exec (Spec.bankCommand tent bank q) s = .next (Spec.leaves (if ∃ r ∈ t.refused, r.req.ell = q.ell then Spec.refused s tent.val q
      else Spec.overflowed s tent.val bank.val q) tent.val bank.val q)) ∧
  (∀ (s s1 : State) (c : EllCopy) (q : BReq) (g : Nat), g = grainOfEll q.ell q.grain →
    (∀ op dead alloc, q.kind = .load op dead alloc →
      s1 = (if c.owned q.key q.gen then s else s.modChanCounters (placeOf c.ell).channel (fun k => { k with foreignReads := bump k.foreignReads 1 })) →
      s.performReq c q = (State.replyLoad (if c.read q.key q.gen q.grain = .dead then
          s1.modTentCounters (homeTent c.ell) (fun k => { k with deadReads := bump k.deadReads 1 }) else s1) q.ring op g
          (match c.read q.key q.gen q.grain with | .ok b => .data b | .dead => .dead | .bad x => .integrity x),
        if dead = true ∧ c.owned q.key q.gen = true then { c with dead := setBit c.dead q.grain } else c)) ∧
    (∀ op bs keep, q.kind = .store op bs keep →
      s1 = (if isHostEll q.ell then (s.countTakeover c q.key q.gen).hostWrite g bs (.ring (Fin.ofNat 192 q.ring) op)
        else (s.countTakeover c q.key q.gen).performed (.ring (Fin.ofNat 192 q.ring) op)) →
      (c.owned q.key q.gen = false ∨ wholeGrain bs = true ∨ Assoc.find? c.bad q.grain = none →
        s.performReq c q = (s1, Spec.cleaned c (Spec.written c q.key q.gen q.grain bs))) ∧
      ∀ w x, c.owned q.key q.gen = true → wholeGrain bs = false → Assoc.find? c.bad q.grain = some x →
        Assoc.find? (s.ring q.ring).writes op = some w → s.performReq c q =
          (s1.originFault q.ring w.ctx w.org 7 2 w.pc 0 0, Spec.cleaned c (Spec.written c q.key q.gen q.grain bs))) ∧
    (∀ who bs, q.kind = .write who bs → s.performReq c q = ((s.countTakeover c q.key q.gen).performed who
      (c.owned q.key q.gen && !wholeGrain bs && (Assoc.find? c.bad q.grain).isSome), Spec.written c q.key q.gen q.grain bs)) ∧
    ∀ g', c.owned q.key q.gen = false → c.read q.key q.gen g' = .ok zeroGrain) ∧
  (∀ (s : State) (q : BReq) (g : Nat), g = grainOfEll q.ell q.grain → isHostEll q.ell = true ∨ s.memoryFailed = false →
    q.kind.plain = true ∨ q.kind.atomic = true → q.kind.ofHost = false →
    (s.hub.backPending g = true → s.mayServe q = (s, false)) ∧
    (∀ e, s.hub.backPending g = false → s.hub.entry? g = some e → q.kind.writes = true ∨ e.exclusive = true →
      s.mayServe q = (s.snoop g q.kind.writes, false)) ∧
    (s.hub.backPending g = false → (∀ e, s.hub.entry? g = some e → q.kind.writes = false ∧ e.exclusive = false) →
      (Assoc.find? s.hub.drainMap q.ell = none ∨ (q.kind.writes = false ∧ q.kind.isDead = false) → s.mayServe q = (s, true)) ∧
      (∀ x, Assoc.find? s.hub.drainMap q.ell = some x → q.kind.writes = true ∨ q.kind.isDead = true →
        s.mayServe q = (s.modHub (fun h => { h with
          drainFront := if q.ell ∈ h.drainFront then h.drainFront else h.drainFront ++ [q.ell] }), false)))) ∧
  ∀ (tent : TentId) (id : Nat) (s : State) (r : Refused) (t : Tent) (b : BankQ) (l : List BReq), t = s.tent tent.val →
    t.refused.find? (fun r => r.num == id) = some r → homeTent r.req.ell = tent.val → b = t.bank (bushelBank r.req.ell) →
    r.req.place = some r.num → l = b.queue ++ b.coming →
    ((∃ x ∈ t.refused, x.bank = r.bank ∧ x.num < r.num) → exec (.requestResend tent id) s = .next s) ∧
    ((∀ x ∈ t.refused, x.bank = r.bank → r.num ≤ x.num) →
      t.bankRegs (bankKey r.req.ell) < 512 ∨ t.fetching r.req.ell = true ∨ (t.frameOf? r.req.ell).isSome →
      ∀ l', l' = l.takeWhile (fun x => x.ell != r.req.ell) ++ r.req :: l.dropWhile (fun x => x.ell != r.req.ell) →
      exec (.requestResend tent id) s = .next (s.modTent tent.val (fun t => { t with
        refused := t.refused.filter (fun x => x.num != id)
        banks := Assoc.put t.banks (bushelBank r.req.ell) { b with
          queue := l'.take b.queue.length ++ (l'.drop b.queue.length).take (64 - b.queue.length)
          coming := (l'.drop b.queue.length).drop (64 - b.queue.length) } }))) ∧
    ((∀ x ∈ t.refused, x.bank = r.bank → r.num ≤ x.num) → 512 ≤ t.bankRegs (bankKey r.req.ell) → t.fetching r.req.ell = false →
      t.frameOf? r.req.ell = none → exec (.requestResend tent id) s = .next (if b.overflow.length < 64 then
        State.modChanCounters (s.modTent tent.val (fun t => { t with
          refused := t.refused.filter (fun x => x.num != id)
          banks := Assoc.put t.banks (bushelBank r.req.ell) { b with overflow := b.overflow ++ [r.req] } })) (placeOf r.req.ell).channel
            (fun c => { c with missCapEvents := bump c.missCapEvents 1 })
        else s.modTentCounters tent.val (fun c => { c with refusedSends := bump c.refusedSends 1 })))

/-- R183, R202, R214 to R219, R225, R226: a write-back stores what a copy holds, and a fetch brings back what was stored. A copy with a dirty
grain is stored compressed, each slot encrypted and tagged under the owner's keys, and its header says so; one whose grains are clean stores its
header alone; an unchanged one, and a host ell, store nothing. An evicted frame is Free and its copies are stored, once nothing has to be fetched
for them and their header frame is there. Every live grain that is not poisoned reads, after the ell is fetched again, as it was when stored. -/
def Obligations.ReadAfterWriteBack : Prop :=
  (∀ (s : State) (c : EllCopy), s.unsaved c = false → s.storeEll c = s) ∧
  (∀ (s : State) (c : EllCopy), s.unsaved c = true ↔ isHostEll c.ell = false ∧
    (c.dirty ≠ 0 ∨ c.dead ≠ (s.header c.ell).dead ∨ c.fold ≠ (s.header c.ell).fold)) ∧
  (∀ (s : State) (c : EllCopy), s.unsaved c = true → c.dirty = 0 →
    (s.storeEll c).header c.ell = { s.header c.ell with dead := c.dead, fold := c.fold } ∧
    ((s.storeEll c).dramEll c.ell).cipher = (s.dramEll c.ell).cipher ∧ ((s.storeEll c).dramEll c.ell).tags = (s.dramEll c.ell).tags) ∧
  (∀ (s s1 : State) (c : EllCopy) (h : EllHeader) (d : DramEll), s.unsaved c = true → c.dirty ≠ 0 → h = Spec.storedHeader c →
    s1 = s.storeEll c →
    d = (s.dramEll c.ell).putSlots (s.ownerKey c.owner c.gen) c.ell c.gen (storedBytes h.form h.stored c.plainData) h.stored →
    s1.header c.ell = h ∧ (s1.dramEll c.ell).cipher = d.cipher ∧ (s1.dramEll c.ell).tags = d.tags ∧ (s1.dramEll c.ell).bad = c.bad ∧
    (s1.chan (placeOf c.ell).channel).writes = (s.chan (placeOf c.ell).channel).writes ++ [c.ell] ∧
    (∀ e, e ≠ c.ell → s1.dramEll e = s.dramEll e) ∧
    ((s.dramEll c.ell).cipher.wf = true → (s.dramEll c.ell).tags.wf = true → ∀ g < 16,
      (Assoc.find? c.bad g = none → (s1.gatherSlots (s1.headerCopy c.ell) []).read c.owner c.gen g =
        if mapBit c.dead g then .dead else .ok (c.grain g)) ∧
      ∀ x < h.stored, (s1.dramEll c.ell).tagDiffers (s1.ownerKey h.owner h.gen) c.ell h.gen x = false)) ∧
  ∀ (bring : State → List Nat → Nat → State × Bool) (s s1 : State) (tent k : Nat) (avoid : List Nat) (l : List EllCopy) (u : Nat),
    Assoc.find? (s.tent tent).frames k = some ⟨.ells l, u⟩ →
    ((∃ c ∈ l, s.lacks c = true) → s.evictWith bring tent k avoid = ((l.filter s.lacks).foldl State.askFill s, false)) ∧
    ((∀ c ∈ l, s.lacks c = false) →
      ((∀ c ∈ l, s.unsaved c = false) ∧ s1 = s) ∨ (∃ c, l.find? s.unsaved = some c ∧ bring s (k :: avoid) c.ell = (s1, true)) →
      s.evictWith bring tent k avoid = (l.foldl (fun (s : State) c => (s.storeEll c).jrnEvict c.ell) (s1.dropFrame tent k), true))

/-- R57, R58, R128, R162, R163, R194, R376: a combined atomic is performed whole at its home. ATOMIC_REQUEST at a scratchpad takes the oldest
one of the ring, once the arbiter has granted its read and its write, for which it asks; at a bushel bank it is served as any request. Memory
becomes what the entries give one after another, the fetch values go back, the write is acknowledged (one of host memory goes on through the CXL
port), and a non-finite result is reported. A poisoned grain is INTEGRITY. With the trap enabled the report of a global instruction waits until
all of its requests have been performed. -/
def Obligations.AtomicPerformed : Prop :=
  (∀ (ring : RingId) (s s0 : State) (r : Ring) (c : CombOp) (rest : List CombOp) (op : AtomOp) (type a w m : Nat) (v : Nat × List Nat),
    r = s.ring ring.val → r.satoms = c :: rest → c.kind = .atom op type → a = Spec.addrOf c → w = atomWidth type →
    (unrecorded op type c.fetch = true ∨ s.forced (s.stepKey c.ctx c.cmd) (scratchRunKey ring.val a) c.source = .go) →
    ((r.portHas .atomic false = false ∨ r.portHas .atomic true = false) → exec (.atomicRequest (.scratchpad ring)) s =
      .next (s.setRing ring.val ((r.portAsk .atomic false w).portAsk .atomic true w))) ∧
    (r.portHas .atomic false = true → r.portHas .atomic true = true →
      s0 = (let s1 := s.setRing ring.val ((r.portUse .atomic false).portUse .atomic true)
        if unrecorded op type c.fetch then s1 else Spec.recorded s1 c.ctx c.cmd 0 (scratchRunKey ring.val a) c.source) →
      m = leNat (Mem.readBytes r.scratch a w) → v = atomRun op type (Spec.entries op type c) m →
      exec (.atomicRequest (.scratchpad ring)) s = .next ((((s0.modRing ring.val (fun x => { x with
        satoms := rest, scratch := Mem.writeBytes x.scratch a (leBytes w v.1) })).replyAtom ring.val c op type v.2).scratchNfEvent
          ring.val c op type m).settleBarrier ring.val))) ∧
  (∀ (s : State) (c : CombOp) (d : W64), (∀ x, s.ctx? c.ctx = some x → x.nfTrap = false) → s.requestNf c d = s.setNf c.ctx) ∧
  (∀ (s : State) (ring write : Nat) (w : WriteOp) (d : W64), Assoc.find? (s.ring ring).writes write = some w → w.trap = some d →
    (w.acked < w.left → s.settleTrap ring write = s) ∧
    (w.left ≤ w.acked → w.load = none → s.settleTrap ring write =
      State.originFault (s.modRing ring (fun r => { r with writes := Assoc.put r.writes write { w with trap := none } }))
        ring w.ctx w.org 6 0 w.pc 0 d)) ∧
  ∀ (s s0 : State) (q : BReq) (o : CombOp) (op : AtomOp) (type : Nat) (c c' : EllCopy) (off m : Nat)
    (r : Nat × List Nat) (bs : List (Nat × Byte)), q.kind = .atom o → o.kind = .atom op type →
    s0 = (let s1 := if unrecorded op type o.fetch then s else Spec.recorded s q.ctx o.cmd 1 (ellRunKey 1 q.ell) o.source
      s1.countTakeover c q.key q.gen) →
    off = Spec.addrOf o % 64 → m = leNat ((((c.taken q.key q.gen).base q.grain).drop off).take (atomWidth type)) →
    r = atomRun op type (Spec.entries op type o) m →
    bs = ((List.range (atomWidth type)).zip (leBytes (atomWidth type) r.1)).map (fun p => (off + p.1, p.2)) →
    c' = Spec.cleaned c (Spec.written c q.key q.gen q.grain bs) →
    (∀ x, c.owned q.key q.gen = true → Assoc.find? c.bad q.grain = some x →
      s.performReq c q = (o.fault (s.performed (Spec.writerOf q o)) 7 x, c)) ∧
    (c.owned q.key q.gen = false ∨ Assoc.find? c.bad q.grain = none →
      (isHostEll q.ell = false → s.performReq c q = ((s0.replyAtom q.ring o op type r.2).atomNfEvent o op type m, c')) ∧
      (isHostEll q.ell = true → s.performReq c q = (((s0.replyAtom q.ring { o with global := false } op type r.2).hostWrite
        (grainOfEll q.ell q.grain) bs (Spec.writerOf q o)).atomNfEvent o op type m, c')))

/-- R90, R104, R147, R162, R185, R195 to R200, R203, R239: reductions at the home. RED_ADD_REQUEST adds its values into the ring's reduction ell,
FP32 after FP32 rounding or exactly into W96, made zero in a free frame of the set on first use, and is acknowledged; a non-finite result is
reported; an accumulator of the other kind is the fault of R104. RED_FOLD_REQUEST converts the image that its bank holds, after the accumulators
of the ring's reduction ell are added, whose frame it frees; an image not held is fetched first, beside the bushel: that the fetch holds a miss
register without a frame is the model's choice (log entry 38). A request of a context that is lost is acknowledged and does nothing more. -/
def Obligations.ReductionsAtHome : Prop :=
  (∀ (tent : TentId) (bank : BushelBankId) (s s1 : State) (q : BReq) (c : CombOp) (fmt : Nat) (w96 : Bool), q.kind = .redAdd c →
    c.kind = .redAdd fmt w96 → Spec.atFront s tent.val bank.val q → s.ctxLive q.ctx = true →
    (s.addRed q c fmt w96 = (s1, true) → exec (.redAddRequest tent bank) s = .next (Spec.leaves s1 tent.val bank.val q)) ∧
    (s.addRed q c fmt w96 = (s1, false) → (s1.tent tent.val).chosenHits bank.val = [] →
      exec (.redAddRequest tent bank) s = .next s1.bushelDone)) ∧
  (∀ (s : State) (q : BReq) (c : CombOp) (fmt : Nat) (w96 : Bool) (t : Tent), t = s.tent (homeTent q.ell) →
    (t.foldWaits (bushelBank q.ell) q.ell q.ring = true → s.addRed q c fmt w96 = (s, false)) ∧
    (t.foldWaits (bushelBank q.ell) q.ell q.ring = false →
      (∀ k r s1 off xs, t.redOf? q.ell q.ring = some (k, r) → r.w96 = w96 → r.st = .pinned →
        s1 = Spec.recorded s q.ctx c.cmd 2 (ellRunKey 2 q.ell) c.source → off = Spec.addrOf c % 64 + 64 * q.grain →
        xs = c.parts.map (fun p => addend fmt p.x) →
        (∀ e, w96 = true → e = xs.foldl (fun e x => accStep e [x]) (Assoc.get AccEl.zero r.acc (off / 16)) →
          s.addRed q c fmt w96 = (Spec.nfAfter (State.performed (s1.putFrame (homeTent q.ell) k (.red { r with
            acc := Assoc.put r.acc (off / 16) e })) (Spec.writerOf q c)) c e.val fmt, true)) ∧
        (∀ x xs' v, w96 = false → xs = x :: xs' → v = roundFmt 1 (FVal.add (decodeFmt 1 (Assoc.get 0 r.f32 (off / 4)).toNat)
            (xs'.foldl (fun a b => decodeFmt 1 (roundFmt 1 (FVal.add a b))) x)) →
          s.addRed q c fmt w96 = (Spec.nfAfter (State.performed (s1.putFrame (homeTent q.ell) k (.red { r with
            f32 := Assoc.put r.f32 (off / 4) (BitVec.ofNat 32 v) })) (Spec.writerOf q c)) c (decodeFmt 1 v) fmt, true))) ∧
      (∀ k, t.redOf? q.ell q.ring = none → (t.redFrames (bushelSet q.ell)).length < 12 → t.free? (bushelSet q.ell) = some k →
        s.addRed q c fmt w96 = State.addRed (s.putFrame (homeTent q.ell) k (.red { ell := q.ell, ring := q.ring, ctx := q.ctx, key := q.key
                                                                                   gen := q.gen, w96, st := .pinned, f32 := [], acc := [] }))
          q c fmt w96) ∧
      (∀ k r, t.redOf? q.ell q.ring = some (k, r) → r.st = .pinned → r.w96 ≠ w96 →
        s.addRed q c fmt w96 = (c.fault (s.performed (Spec.writerOf q c)) 10 12, true)) ∧
      (∀ k r, t.redOf? q.ell q.ring = some (k, r) → r.st ≠ .pinned → s.addRed q c fmt w96 = (s, false)))) ∧
  (∀ (tent : TentId) (bank : BushelBankId) (s s1 : State) (q : BReq) (c : CombOp) (fmt rnd : Nat) (t : Tent), t = s.tent tent.val →
    q.kind = .redFold c → c.kind = .redFold fmt rnd → Spec.atFront s tent.val bank.val q → s.ctxLive q.ctx = true → homeTent q.ell = tent.val →
    t.behind bank.val q.ell = false → s1 = (if (t.pinned? q).isSome then s.setRed q.ell q.ring .releasing else s) →
    (∀ r, t.pinned? q = some r → fmt = 15 → r.w96 = false → exec (.redFoldRequest tent bank) s =
      .next (Spec.leaves (c.fault (s.performed (Spec.writerOf q c)) 10 12) tent.val bank.val q)) ∧
    ((∀ r, t.pinned? q = some r → fmt = 15 → r.w96 = true) →
      (∀ k x s2 s3 x', t.fetching q.ell = false → (s1.tent tent.val).frameOf? q.ell = some k → (s1.tent tent.val).copyOf? q.ell = some x →
        (x.whole = true ∨ x.owned q.key q.gen = false) → q.key ≠ deviceKey → s1.prepare (s1.performReq x q).2 false = (s2, true) →
        s2.performReq x q = (s3, x') → ((s3.putAfter x x' false).tent tent.val).redOf? q.ell q.ring = none →
        exec (.redFoldRequest tent bank) s = .next (Spec.leaves (s3.putAfter x x' false) tent.val bank.val q)) ∧
      ∀ n, t.fetching q.ell = false → t.copyOf? q.ell = none → (s1.tent tent.val).copyOf? q.ell = none →
        (s.headerCopy q.ell).owned q.key q.gen = true → q.key ≠ deviceKey →
        t.bankRegs (bankKey q.ell) < 512 → t.pool (bankKey q.ell) = .room → Assoc.firstFree t.miss 0 4096 = some n →
        exec (.redFoldRequest tent bank) s =
          .next (Spec.leaves (Spec.opened s1 tent.val n q (s.headerCopy q.ell) none) tent.val bank.val q))) ∧
  (∀ (s s1 : State) (x x' : EllCopy) (q : BReq) (c : CombOp) (fmt rnd : Nat) (d : RedDone), q.kind = .redFold c → c.kind = .redFold fmt rnd →
    (s.ctxLive q.ctx = false → s.performReq x q = (s.performed (Spec.writerOf q c), x)) ∧
    (s.ctxLive q.ctx = true → isHostEll x'.ell = isHostEll x.ell →
      (((∀ k r, (s.tent (homeTent q.ell)).redOf? q.ell q.ring = some (k, r) → r.st ≠ .releasing) →
        s.intoImage x q.key q.gen none (fmt == 15) (some (fmt, rnd)) = (s1, x', d) →
        s.performReq x q = (Spec.released s1 q c fmt x' d, x')) ∧
      ∀ k r key, (s.tent (homeTent q.ell)).redOf? q.ell q.ring = some (k, r) → r.st = .releasing → 
        s.intoImage x r.key r.gen (some r) r.w96 (some (fmt, rnd)) = (s1, x', d) → key = (s1.dropFrame (homeTent q.ell) k).stepKey q.ctx c.cmd →
        s.performReq x q = (Spec.released (((s1.dropFrame (homeTent q.ell) k).takeForced key (ellRunKey 4 q.ell)).jrnFold key 4 q.ell q.ring)
          q c fmt x' d, x')))) ∧
  (∀ (s s1 : State) (x x' : EllCopy) (q : BReq) (d : RedDone), q.kind = .fold → isHostEll x'.ell = isHostEll x.ell →
    ((s.tent (homeTent q.ell)).redOf? q.ell q.ring = none → s.performReq x q = (s, x)) ∧
    ∀ k r, (s.tent (homeTent q.ell)).redOf? q.ell q.ring = some (k, r) → s.intoImage x r.key r.gen (some r) r.w96 none = (s1, x', d) →
      s.performReq x q = (((((if isHostEll x.ell then Spec.imageSent s1 x' .none else s1).dropFrame (homeTent q.ell) k).modTentCounters
        (homeTent q.ell) (fun x => { x with folds := bump x.folds 1 })).takeForced (2 * r.ctx) (ellRunKey 3 r.ell)).jrnFold (2 * r.ctx) 3 r.ell
          r.ring, x')) ∧
  ∀ (tent : TentId) (bank : BushelBankId) (s : State) (q : BReq) (c : CombOp), q.kind = .redAdd c ∨ q.kind = .redFold c →
    s.nextReq? [] (((s.tent tent.val).bank bank.val).queue ++ ((s.tent tent.val).bank bank.val).coming) = some q → s.ctxLive q.ctx = false →
    exec (if q.kind = .redAdd c then .redAddRequest tent bank else .redFoldRequest tent bank) s =
      .next (Spec.leaves (s.performed (Spec.writerOf q c)) tent.val bank.val q)

/-- R183, R185 to R187, R192, R201, R209, R210, R219 to R222, R226, R227, R230: a fetch. The first waiting miss register of a DRAM bank with
fewer than 32 read slots, on a channel with fewer than 256, takes a slot once the header frame is there: with a frame of its set reserved as
Filling, or without when every waiter bypasses the bushel; one of a host ell asks the host for the grains it lacks. The bank's turn serves the
read at its head, opens its rows, and leaves to return, for waiters that own the ell, the header until it has been compared, and, while one of
them needs data, the stored slots of the absent grains, those of the first waiter's grain first. What returns is decoded, compared with its tag
and marks the grains that a failure affects; grains whose slots have all come are held and serve the waiters that they can; the last item
completes the fill: the waiters are served in order, the register is free, and the frame holds the ell. A turn for writes takes a batch of at
most 32, and no second one while a read is ready. -/
def Obligations.FetchesOfElls : Prop :=
  (∀ (tent : TentId) (reg : Nat) (s s1 s2 s3 : State) (m m' : MissReg) (held : Option Nat), Assoc.find? (s.tent tent.val).miss reg = some m →
    m.st = .waiting → s.needHeader [] m.ell = (s1, true) →
    (isHostEll m.ell = true ∨
      (∀ x ∈ (s.tent tent.val).miss, x.2.st = .waiting → bankKey x.2.ell = bankKey m.ell → m.order ≤ x.2.order) ∧
      (s.tent tent.val).bankSlots (bankKey m.ell) < 32 ∧ (s.tent tent.val).chanSlots (placeOf m.ell).channel < 256) →
    held = (s1.tent tent.val).frameOf? m.ell →
    ((∃ k s2', m.bypass = false ∧ m.frame = none ∧ held = none ∧ s1.freeFrame tent.val (bushelSet m.ell) [] = (s2', some k) ∧
        s2 = s2'.putFrame tent.val k (.filling m.ell) ∧ m' = { m with frame := some k }) ∨
      ((m.bypass = true ∨ m.frame.isSome ∨ held.isSome) ∧ s2 = s1 ∧ m' = { m with frame := m.frame.or held })) →
    s3 = (if m.bypass = true ∧ ∃ q ∈ m.waiters, q.kind.isStream = true then
      s2.modTentCounters tent.val (fun c => { c with bypass := bump c.bypass 1 }) else s2) →
    exec (.missFetchIssue tent reg) s = .next (if isHostEll m.ell then (Spec.hostAsked s3 tent.val reg m').fillStep tent.val reg
      else Spec.slotTaken s3 tent.val reg m')) ∧
  (∀ (chan : ChanId) (bank : DramBankId) (s s1 : State) (c : Chan) (reg : Nat) (rest slots left : List Nat) (m : MissReg),
    c = s.chan chan.val → Assoc.get [] c.reads bank.val = reg :: rest →
    Assoc.find? (s.tent (chan.val / 4)).miss reg = some m → bank.val ∈ s.readyBanks chan.val →
    (bank.val ∈ c.taken → ∀ b ∈ s.readyBanks chan.val, b ∈ c.taken) → left = s.toFetch (chan.val / 4) m →
    slots = left.filter (fun x => x != headerItem) →
    s1 = (State.countMoved (s.modChan chan.val (fun c => { c with
      reads := if rest = [] then Assoc.del c.reads bank.val else Assoc.put c.reads bank.val rest
      taken := if bank.val ∈ c.taken then [bank.val] else c.taken ++ [bank.val], wrote := false }))
        m.ell (left.length + tagGrains slots) 0).openRow m.ell (decide (slots ≠ [])) →
    exec (.dramAccess chan (.read bank)) s = .next (State.fillStep ((if headerItem ∈ left then s1.openHeaderRow m.ell else s1).modTent
      (chan.val / 4) (fun t => { t with miss := Assoc.put t.miss reg { m with st := .returning left } })) (chan.val / 4) reg)) ∧
  (∀ (chan : ChanId) (s : State) (c : Chan) (batch : List Nat), c = s.chan chan.val →
    batch = (c.writes.filter (fun e => !c.rowBusy e)).take 32 →
    (c.wrote = true → s.readyBanks chan.val ≠ [] → exec (.dramAccess chan .writes) s = .next s) ∧
    (c.wrote = false ∨ s.readyBanks chan.val = [] → exec (.dramAccess chan .writes) s = .next (s.modChan chan.val (fun c => { c with
      writes := batch.foldl List.erase c.writes, wrote := true })))) ∧
  (∀ (s : State) (tent : Nat) (m : MissReg) (mine : List BReq) (need : Prop),
    mine = (m.waiters.map (s.keyed m.copy)).filter (fun q => m.copy.owned q.key q.gen) →
    need = (∃ q ∈ mine, m.copy.readyFor q ((s.tent tent).framed m) = false) →
    (headerItem ∈ s.toFetch tent m ↔ mine ≠ [] ∧ s.headerChecked m.ell = false) ∧
    (∀ x < 16, x ∈ s.toFetch tent m ↔ need ∧ ∃ g < 16, m.copy.has g = false ∧ x ∈ slotsOfGrain (s.header m.ell) g) ∧
    ∀ q, need → m.waiters.find? (fun q => decide (q.grain < 16) && !m.copy.has q.grain) = some q →
      ∃ l, s.toFetch tent m = (if s.headerChecked m.ell then [] else [headerItem]) ++ slotsOfGrain (s.header m.ell) q.grain ++ l) ∧
  (∀ (x y e : Nat), decodeBeat none [x] = .corrected x ∧ decodeBeat (some e) [e] = .good ∧ (x ≠ e → decodeBeat (some e) [x] = .bad) ∧
    decodeBeat none [x, y] = .bad) ∧
  (∀ (h : EllHeader) (item : Nat) (x : EccFound) (g r : Nat), (g, r) ∈ affected h item x ↔ g < 16 ∧
    if 0 < x.header.2 ∨ x.headerDiffers = true then r = 4
    else mapBit h.dead g = false ∧ ((0 < x.tag.2 ∧ r = 3 ∧ ∃ y ∈ slotsOfGrain h g, y % 2 = item % 2) ∨
      (0 < x.data.2 ∧ r = 2 ∧ item ∈ slotsOfGrain h g) ∨ (x.tagDiffers = true ∧ r = 1 ∧ item ∈ slotsOfGrain h g))) ∧
  (∀ (tent : TentId) (reg : Nat) (ecc : Ecc) (s s1 s2 s3 : State) (m : MissReg) (item : Nat) (rest : List Nat) (c : EllCopy)
    (x : EccFound), Assoc.find? (s.tent tent.val).miss reg = some m → m.st = .returning (item :: rest) →
    x = s.decodeItem m.ell item (s.ownedBy m) ecc → s1 = s.countEcc m.ell item x →
    s2 = (if item = headerItem ∧ s.ownedBy m = true then s1.modHeaderFrame m.ell (fun hs ch ck =>
      .header (headerFrame m.ell).1 hs ch (setBit ck (headerFrame m.ell).2)) else s1) →
    s2.markEcc (s2.gatherSlots m.copy rest) item (s.ownedBy m) x = (s3, c) →
    exec (.dramGrainReturn tent reg ecc) s = .next (State.retryFetch (State.freeWaitingKeys (State.fillStep (s3.modTent tent.val (fun t =>
      { t with miss := Assoc.put t.miss reg { m with copy := c, st := .returning rest } })) tent.val reg)))) ∧
  (∀ (s s1 : State) (tent reg : Nat) (m : MissReg) (c : EllCopy) (ws : List BReq), Assoc.find? (s.tent tent).miss reg = some m →
    (m.st = .returning [] → s.fillStep tent reg = s.completeFill tent reg m) ∧
    ((∃ x l, m.st = .returning (x :: l)) ∨ (∃ l, m.st = .host l) →
      serveWaiters s m.copy ((s.tent tent).framed m) m.waiters = (s1, c, ws) → s.fillStep tent reg =
        s1.modTent tent (fun t => { t with miss := Assoc.put t.miss reg { m with copy := c, waiters := ws } }))) ∧
  ∀ (s s1 s2 s3 : State) (tent reg : Nat) (m : MissReg) (c new new' : EllCopy) (framed dead : Bool) (l : List BReq),
    framed = (s.tent tent).framed m → c = { m.copy with size := if isHostEll m.ell then 1024 else 64 * (s.header m.ell).stored } →
    serveInOrder s c framed m.waiters = (s1, new, []) → (framed = true ∨ s1.lacks new = false) → dead = decide (new.dead ≠ 0) →
    (if m.frame.isSome ∧ (s.tent tent).frameOf? m.ell = none then (if dead && new.spent then s.needHeader [] m.ell else (s, true))
      else s.prepare new dead) = (s2, true) →
    serveInOrder s2 c framed m.waiters = (s3, new', l) →
    s.completeFill tent reg m =
      ((s3.modTent tent (fun t => { t with miss := Assoc.del t.miss reg })).placeFill tent m c new').retryHeld

/-- R221, R223, R235, R369: upkeep of memory. A refresh closes its bank's row. A position whose corrections of 24 hours have reached 16 becomes
the erasure of its rank and subchannel, or is refused when another stands. A row with 8 corrections or an uncorrectable beat is copied to a
spare row while its bank has one of its 64 left; at the end of the copy the row is redirected to the next spare row, and its counts start
again. When an hour bucket expires every window of 24 hours drops its oldest hour. -/
def Obligations.MemoryUpkeep : Prop :=
  (∀ (chan : ChanId) (bank : DramBankId) (s : State), exec (.refresh chan bank) s =
    .next (s.modChan chan.val (fun c => { c with rowOpen := Assoc.del c.rowOpen bank.val }))) ∧
  (∀ (chan : ChanId) (rank sub : Fin 2) (sym : Fin 10) (s : State),
    (Spec.countOf (s.chan chan.val) rank sub sym < 16 → exec (.erasureMark chan rank sub sym) s = .next s) ∧
    (16 ≤ Spec.countOf (s.chan chan.val) rank sub sym → Assoc.find? (s.chan chan.val).erasures (rank.val * 2 + sub.val) = none →
      exec (.erasureMark chan rank sub sym) s = .next (State.saveChans (s.modChan chan.val (fun c => { c with
        erasures := Assoc.put c.erasures (rank.val * 2 + sub.val) sym.val
        counters := { c.counters with erasuresMarked := bump c.counters.erasuresMarked 1 } })))) ∧
    (∀ x, 16 ≤ Spec.countOf (s.chan chan.val) rank sub sym → Assoc.find? (s.chan chan.val).erasures (rank.val * 2 + sub.val) = some x →
      exec (.erasureMark chan rank sub sym) s = .next (if x = sym.val then s else
        s.modChanCounters chan.val (fun k => { k with erasuresRefused := bump k.erasuresRefused 1 })))) ∧
  (∀ (chan : ChanId) (bank : DramBankId) (sub : Fin 2) (row : Nat) (s : State) (r : RowId) (c : Chan), r = ⟨bank.val, sub.val, row⟩ →
    c = s.chan chan.val →
    ((Spec.rowCount c r < 8 ∧ r ∉ c.rowBad) ∨ r ∈ c.remapping → exec (.rowRemap chan bank sub row) s = .next s) ∧
    (8 ≤ Spec.rowCount c r ∨ r ∈ c.rowBad → r ∉ c.remapping →
      exec (.rowRemap chan bank sub row) s = .next (if 64 ≤ Spec.sparesOf c r then
        s.modChan chan.val (fun c => { c with noSpare := insertNat bank.val c.noSpare })
        else s.modChan chan.val (fun c => { c with remapping := c.remapping ++ [r] }))) ∧
    (r ∈ c.remapping → exec (.rowRemapComplete chan bank sub row) s = .next (State.saveChans ((s.modChan chan.val (fun c => { c with
        remapping := c.remapping.erase r
        remaps := c.remaps ++ [(r, (c.remaps.filter (fun x => x.1.bank == r.bank && x.1.sub == r.sub)).length)]
        rowCorr := c.rowCorr.filter (fun x => x.1 != r), rowBad := c.rowBad.erase r })).modChanCounters chan.val (fun k => { k with
          sparesUsed := Assoc.put k.sparesUsed bank.val (Assoc.get 0 k.sparesUsed bank.val + 1) })))) ∧
    (r ∉ c.remapping → exec (.rowRemapComplete chan bank sub row) s = .next s)) ∧
  ∀ (s : State), exec .rateBucketRoll s = .next { s with
    chans := Assoc.mapVals (fun _ (c : Chan) => { c with
      buckets := Assoc.mapVals (fun _ (l : List Nat) => 0 :: l.take 23) c.buckets
      rowCorr := c.rowCorr.map (fun r => (r.1, 0 :: r.2.take 23)) }) s.chans
    resil := { s.resil with
      corr := 0 :: s.resil.corr.take 23, retrain := 0 :: s.resil.retrain.take 23, loss := 0 :: s.resil.loss.take 23 } }

/-- R100, R102, R105, R128, R169 to R174, R185, R194, R282, R339, R344: the DMA engines. A free engine of a tent takes the copy queued first of
those at the tent and at the heads of its rings' DMA issue queues (log entry 31: the order among the queues is the model's choice). Of a local
source the next grain is read, at its home or in a scratchpad, once the scratchpad ports that it needs have been granted, and its bytes join the
piece of the destination, a grain or a 4 KiB packet, that they belong to; a piece goes to its destination once it is whole. A poisoned grain fails
the parts its bytes lie in and leaves free bytes; one without a translation stops the engine and loses the context. Of a remote source a READ of
at most a 4 KiB piece is sent. A copy whose bytes are all read, written and answered frees its engine: a DMA.Q increments its turnstile, with the
error bit when a part failed, and a COPY finishes; while writes are on their way, those that nothing holds arrive. ALLOC_COMPLETE writes the
address of the allocation, or 0, and the predicate. -/
def Obligations.CopyEngines : Prop :=
  (∀ (tent : TentId) (engine : EngineId) (s : State), s.engine? tent.val engine.val = none →
    (∀ c rest, (s.tent tent.val).copyq = c :: rest →
      (∀ r d, r / 24 = tent.val → (s.ring r).dmaq.head? = some d → c.order ≤ d.order) →
      exec (.copyStart tent engine) s = .next (s.modTent tent.val (fun t => { t with
        copyq := rest, engines := Assoc.put t.engines engine.val c }))) ∧
    (∀ r d rest, r / 24 = tent.val → (s.ring r).dmaq = d :: rest →
      (∀ c, (s.tent tent.val).copyq.head? = some c → d.order < c.order) →
      (∀ r' d', r' / 24 = tent.val → r' ≠ r → (s.ring r').dmaq.head? = some d' → d.order < d'.order) →
      exec (.copyStart tent engine) s = .next ((s.modRing r (fun x => { x with dmaq := rest })).putEngine tent.val engine.val
        { ctx := d.ctx, cmd := d.cmd, dmaq := true, phase := ((s.cmd? d.cmd).map (fun c => cmdPhase c.words)).getD 0
          src := copyEnd r d.base d.size d.src.toNat, dst := copyEnd r d.base d.size d.dst.toNat, len := d.len, handle := d.handle, inc := d.inc
          order := d.order, ring := d.ring, pc := d.pc, org := d.org }))) ∧
  (∀ (tent : TentId) (engine : EngineId) (late : Bool) (s s0 : State) (c : CopyOp) (n : Nat), s0 = s.copyEmit tent.val engine.val late →
    s0.engine? tent.val engine.val = some c → c.stopped = false → c.waits = false → c.swing = none → c.done < c.len →
    (∀ dev w off, c.src ≠ .remote dev w off) → n = c.stepLen →
    (∀ s1, s0.copyPorts tent.val engine.val c (decide (c.part c.done ∉ c.failed)) n = (s1, false) →
      exec (.copyGrain tent engine late) s = .next s1) ∧
    (∀ s1 s2 bs, s0.copyPorts tent.val engine.val c true n = (s1, true) → c.part c.done ∉ c.failed →
      s1.copyRead tent.val c c.done n = (s2, .ok bs) → exec (.copyGrain tent engine late) s =
        .next ((s2.modEngine tent.val engine.val (fun x => { x with done := c.done + n })).copyTake tent.val engine.val late c.done bs)) ∧
    (∀ s1 s2, s0.copyPorts tent.val engine.val c true n = (s1, true) → c.part c.done ∉ c.failed →
      s1.copyRead tent.val c c.done n = (s2, .integrity) → exec (.copyGrain tent engine late) s =
        .next ((((s2.freeTake n).1.modEngine tent.val engine.val (fun x => (x.fail c.done 5).fail (c.done + (n - 1)) 5)).modEngine tent.val
          engine.val (fun x => { x with done := c.done + n })).copyTake tent.val engine.val late c.done (s2.freeTake n).2)) ∧
    (∀ s1 s2 va, s0.copyPorts tent.val engine.val c true n = (s1, true) → c.part c.done ∉ c.failed →
      s1.copyRead tent.val c c.done n = (s2, .fault va) → exec (.copyGrain tent engine late) s =
        .next ((s2.copyFault tent.val engine.val c.done va).copyEmit tent.val engine.val late)) ∧
    (∀ s1 s2, s0.copyPorts tent.val engine.val c true n = (s1, true) → c.part c.done ∉ c.failed →
      s1.copyRead tent.val c c.done n = (s2, .held) → exec (.copyGrain tent engine late) s = .next s2) ∧
    ∀ s1, s0.copyPorts tent.val engine.val c false n = (s1, true) → c.part c.done ∈ c.failed → exec (.copyGrain tent engine late) s =
      .next (((s1.freeTake n).1.modEngine tent.val engine.val (fun x => { x with done := c.done + n })).copyTake tent.val engine.val late
        c.done (s1.freeTake n).2)) ∧
  (∀ (c : CopyOp) (a : Nat), c.src = .va a → c.part c.done ∉ c.failed → c.stepLen = min (64 - (a + c.done) % 64) (c.len - c.done)) ∧
  (∀ (tent at_ n : Nat) (s : State) (c : CopyOp),
    (∀ ring base size off, c.src = .scratch ring base size off →
      s.copyRead tent c at_ n = (s, .ok (Mem.readBytes (s.ring ring).scratch (base + off + at_) n))) ∧
    (∀ a s1, c.src = .va a → s.translate tent c.ctx (a + at_) false = (s1, .fault) → s.copyRead tent c at_ n = (s1, .fault (a + at_))) ∧
    ∀ a s1 s2 p x, c.src = .va a → s.translate tent c.ctx (a + at_) false = (s1, .ok p) →
      s1.homeRead (.copy tent c.order) p.key (s1.keyGen p.key) p.grain = (s2, x) → s.copyRead tent c at_ n = match x with
        | none => (s2, .held)
        | some (.ok b) => (s2.takeAnswers (.copy tent c.order) [p.grain], .ok ((b.drop ((a + at_) % 64)).take n))
        | some .dead => ((s2.takeAnswers (.copy tent c.order) [p.grain]).modCtx c.ctx (fun y => { y with deadRead := true }),
            .ok (List.replicate n 0))
        | some (.bad _) => (s2.takeAnswers (.copy tent c.order) [p.grain], .integrity)) ∧
  (∀ (tent engine at_ : Nat) (late : Bool) (s : State) (c : CopyOp) (bs : List Byte), s.engine? tent engine = some c → c.buf = [] →
    s.overlapFree c at_ bs = (s, bs) → bs ≠ [] → c.stopped = false →
    (c.piece at_ = (at_, at_ + bs.length) → s.copyTake tent engine late at_ bs =
      (s.putEngine tent engine { c with buf := [(at_, bs)] }).copyPut tent engine late { c with buf := [(at_, bs)] } (at_, bs)) ∧
    ((∀ ring base size off, c.dst ≠ .scratch ring base size off) → at_ + bs.length < (c.piece at_).2 →
      s.copyTake tent engine late at_ bs = s.putEngine tent engine { c with buf := [(at_, bs)] })) ∧
  (∀ (c : CopyOp) (o : Nat), c.swing = none →
    (∀ a, c.dst = .va a → c.piece o = ((a + o) / 64 * 64 - a, min ((a + o) / 64 * 64 + 64 - a) c.len)) ∧
    ∀ dev w off, c.dst = .remote dev w off → c.piece o = ((off + o) / 4096 * 4096 - off, min ((off + o) / 4096 * 4096 + 4096 - off) c.len)) ∧
  (∀ (tent engine : Nat) (late : Bool) (s s0 : State) (c : CopyOp) (f : Nat × List Byte), s.engine? tent engine = some c → c.buf = [f] →
    s0 = s.putEngine tent engine { c with buf := [] } →
    (∀ ring base size off, c.dst = .scratch ring base size off → s.copyPut tent engine late c f =
      (s0.modRing ring (fun r => { r with scratch := Mem.writeBytes r.scratch (base + off + f.1) f.2 })).countCopy c f.2.length) ∧
    (∀ va s1, c.dst = .va va → s.translate tent c.ctx (va + f.1) true = (s1, .held) → s.copyPut tent engine late c f = s1) ∧
    (∀ va s1 p b s2, c.dst = .va va → s.translate tent c.ctx (va + f.1) true = (s1, .ok p) → s1.engine? tent engine = some c →
      b = (List.range f.2.length).zipWith (fun i x => (p.addr % 64 + i, x)) f.2 →
      s2 = (s1.putEngine tent engine { c with buf := [], outstanding := c.outstanding + 1 }).countCopy c f.2.length →
      s.copyPut tent engine late c f = if p.host then s2.hostWrite p.grain b (.copy tent engine c.order f.1 f.2.length)
        else if late then s2.modHub (fun h => { h with
          hostWrites := h.hostWrites ++ [⟨p.grain, b, .copy tent engine c.order f.1 f.2.length, some (p.key, s2.keyGen p.key)⟩] })
        else s2.homeWrite p.key (s2.keyGen p.key) p.grain b (.copy tent engine c.order f.1 f.2.length)) ∧
    ∀ dev w off, c.dst = .remote dev w off → s.copyPut tent engine late c f =
      ((s.putEngine tent engine { c with buf := [], outstanding := c.outstanding + 1 }).countCopy c f.2.length).request
        (writePacketOf dev w off (off + f.1) f.2) (.copyWrite tent engine f.1 f.2.length)) ∧
  (∀ (tent : TentId) (engine : EngineId) (late : Bool) (s s0 : State) (c : CopyOp) (dev w off n : Nat),
    s0 = s.copyEmit tent.val engine.val late → s0.engine? tent.val engine.val = some c →
    c.stopped = false → c.waits = false → c.swing = none → c.done < c.len → c.src = .remote dev w off →
    n = min (4096 - (off + c.done) % 4096) (c.len - c.done) →
    exec (.copyGrain tent engine late) s = .next ((s0.putEngine tent.val engine.val { c with
      done := c.done + n, outstanding := c.outstanding + 1 }).request (readPacketOf dev w off (off + c.done) n)
        (.copyRead tent.val engine.val c.done n))) ∧
  (∀ (tent : TentId) (engine : EngineId) (s s0 t : State) (c : CopyOp), s0 = s.copyEmit tent.val engine.val false →
    s0.engine? tent.val engine.val = some c → c.swing = none →
    (c.outstanding ≠ 0 → exec (.copyComplete tent engine) s = .next s0.retryHeld) ∧
    (c.stopped = true ∨ c.len ≤ c.done → c.buf = [] → c.outstanding = 0 →
      t = (s0.modTent tent.val (fun t => { t with engines := Assoc.del t.engines engine.val })).forgetAnswers (fun a => a == .copy tent.val c.order) →
      (c.dmaq = true → exec (.copyComplete tent engine) s =
        .next (t.signalHandle c.ctx c.phase c.handle false c.inc (decide (c.failed ≠ [])) none)) ∧
      (∀ m, c.dmaq = false → s0.cmd? c.cmd = some m → m.st = .running → exec (.copyComplete tent engine) s =
        .next (t.setCmd c.cmd (if c.failed = [] then Spec.finished m 0 false else Spec.finished (m.copyResult c) 8 true))))) ∧
  ∀ (ring : RingId) (op : Nat) (s s1 : State) (a : AllocOp) (va : Option Nat) (t : Troupe),
    Assoc.find? (s.ring ring.val).allocs op = some a → s.allocate (.alloc ring.val op) a.ctx a.pool a.size.toNat = (s1, some va) →
    s1.troupe? a.who = some t → (∃ p ∈ t.pending, p.id = a.pend) →
    exec (.allocComplete ring op) s = .next ((s1.modRing ring.val (fun r => { r with allocs := Assoc.del r.allocs op })).setTroupe a.who
      (((t.putWords true 0 (BitVec.ofNat 8 a.dst) 2 (va.getD 0)).setPred a.threads a.pdst va.isSome).dropPending a.pend))

/-- R12, R13, R313, R316, R317, R334, R341, R446: doorbells and the device control registers. A doorbell of a queue that takes none is ignored
and counted; one that names more than the ring holds is QUEUE_OVERRUN; else the slots up to the tail are fetched in count order, as far as they
can be read. ADMQ_CFG starts queue 0 at its rings and stops it; the other registers keep their fields (that ADMQ_RING and ADMQ_CQ take writes
while queue 0 runs is the model's choice, in the docstring of `State.registerWrite`), and READY and EVQ_TAIL ignore writes. Nothing is
written before configuration space answers. ADMQ_CFG[8] cleared holds the queue as halted and drops its tail (log entry 66: the model's choice),
and an entry count outside 6 to 16 is not taken (log entry 67: the model's choice). An entry of the MSI-X table holds what is written; a vector
that was signalled while masked is signalled when it is unmasked. -/
def Obligations.DoorbellsAndRegisters : Prop :=
  (∀ (queue : QueueId) (tail : W32) (s : State), s.queue? queue.val = none ∨
      (∃ k, s.queue? queue.val = some k ∧ (s.boot.queues = false ∨ s.boot.hostLink = .ioOnly ∨ k.halted = true ∨ k.stopped = true ∨
        k.destroying = true ∨ s.haltDue queue.val = true ∨ k.admin = false ∧ s.ctxLive k.ctx = false)) →
    exec (.doorbell queue tail) s = .next (s.modHub (fun h => { h with doorbellsIgnored := h.doorbellsIgnored + 1 }))) ∧
  (∀ (queue : QueueId) (tail : W32) (s : State) (k : Queue), Spec.open_ s queue.val k →
    (∀ s1, s1 = s.forgetAnswers (fun a => match a with | .slot n _ => n == queue.val | _ => false) → 2 ^ k.log2 < (tail - k.head).toNat →
      exec (.doorbell queue tail) s = .next (if k.admin then
      (s1.setQueue queue.val { k with halted := true, tail := none }).event [BitVec.ofNat 64 (6 * 2 ^ 56), BitVec.ofNat 64 queue.val,
        BitVec.ofNat 64 (k.head.toNat * 2 ^ 32 + tail.toNat)]
      else (s1.setQueue queue.val { k with stopped := true }).loseCtx k.ctx (some { code := 9, ctx := k.ctx, queue := queue.val }) none false)) ∧
    ((tail - k.head).toNat ≤ 2 ^ k.log2 → exec (.doorbell queue tail) s =
      .next ((s.setQueue queue.val { k with tail := some tail }).fetchQueue queue.val)) ∧
    (∀ g b, (tail - k.head).toNat = 1 → k.admin = true → k.shadow = none → k.ring.host = true →
      64 * g = k.ring.addr + 64 * (k.head.toNat % 2 ^ k.log2) → s.hub.answer? (.slot queue.val k.head) (hostGrain + g) = some (.ok b) →
      b.length = 64 → 1 ≤ k.log2 →
      exec (.doorbell queue tail) s = .next ((s.takeAnswers (.slot queue.val k.head) [hostGrain + g]).setQueue queue.val { k with
        head := tail, tail := none, fetched := k.fetched ++ [{ count := k.head, words := (List.range 8).map (fun i =>
          BitVec.ofNat 64 (leNat ((b.drop (8 * i)).take 8))) }] })) ∧
    (∀ g, (tail - k.head).toNat = 1 → k.admin = true → k.ring.host = true → s.cxlOn = true →
      64 * g = k.ring.addr + 64 * (k.head.toNat % 2 ^ k.log2) → s.hub.answer? (.slot queue.val k.head) (hostGrain + g) = none →
      (∀ x ∈ s.hub.hostReads, x.grain = hostGrain + g → x.who ≠ some (.slot queue.val k.head)) →
      exec (.doorbell queue tail) s = .next (((s.setQueue queue.val { k with tail := some tail }).modHub (fun h => { h with
        hostReads := h.hostReads ++ [⟨hostGrain + g, some (.slot queue.val k.head)⟩] })).emit (.cxlRead g)))) ∧
  (∀ (value : W64) (s : State), s.boot.cfgSpace = false → exec (.admqCfg value) s = .next s) ∧
  (∀ (value : W64) (s : State), s.boot.cfgSpace = true → value.getLsbD 8 = true → s.hub.adm.cfg.getLsbD 8 = false →
    6 ≤ value.toNat % 32 → value.toNat % 32 ≤ 16 →
    exec (.admqCfg value) s = .next ((s.modHub (fun h => { h with adm := { h.adm with
      cfg := BitVec.ofNat 64 (value.toNat % 32 + 256) } })).setQueue 0 (match s.queue? 0 with
        | some k => { k with
            halted := false, log2 := value.toNat % 32, ring := ringPlace s.hub.adm.ring.toNat, cq := ringPlace s.hub.adm.cq.toNat }
        | none => { admin := true, ctx := 0, log2 := value.toNat % 32, ring := ringPlace s.hub.adm.ring.toNat
                    cq := ringPlace s.hub.adm.cq.toNat, shadow := none }))) ∧
  (∀ (value : W64) (s : State) (k : Queue), s.boot.cfgSpace = true → value.getLsbD 8 = false → s.hub.adm.cfg.getLsbD 8 = true →
    s.queue? 0 = some k → exec (.admqCfg value) s = .next ((s.modHub (fun h => { h with adm := { h.adm with
      cfg := BitVec.ofNat 64 (s.hub.adm.cfg.toNat % 32) } })).setQueue 0 { k with halted := true, tail := none })) ∧
  (∀ (value : W64) (s : State), s.boot.cfgSpace = true → (value.getLsbD 8 = false → s.hub.adm.cfg.getLsbD 8 = false →
      exec (.admqCfg value) s = .next (s.modHub (fun h => { h with adm := { h.adm with cfg := value &&& 31 } }))) ∧
    (value.getLsbD 8 = true → s.hub.adm.cfg.getLsbD 8 = true → exec (.admqCfg value) s = .next s) ∧
    exec (.registerWrite .admqCfg value) s = exec (.admqCfg value) s) ∧
  (∀ (value : W64) (s : State), s.boot.cfgSpace = true →
    exec (.registerWrite .ready value) s = .next s ∧ exec (.registerWrite .evqTail value) s = .next s ∧
    exec (.registerWrite .evqBase value) s =
      .next (s.modHub (fun h => { h with evq := { h.evq with base := value &&& 0x800FFFFFFFFFF000#64 } })) ∧
    (value.toNat % 32 = 0 ∨ 6 ≤ value.toNat % 32 ∧ value.toNat % 32 ≤ 16 → exec (.registerWrite .evqSize value) s =
      .next (pumpEvents 65 (s.modHub (fun h => { h with evq := { h.evq with size := value &&& 31 } })))) ∧
    exec (.registerWrite .evqHead value) s =
      .next (pumpEvents 65 (s.modHub (fun h => { h with evq := { h.evq with head := value &&& 0xFFFFFFFF } }))) ∧
    exec (.registerWrite .admqRing value) s =
      .next (s.modHub (fun h => { h with adm := { h.adm with ring := value &&& 0x800FFFFFFFFFF000#64 } })) ∧
    exec (.registerWrite .admqCq value) s =
      .next (s.modHub (fun h => { h with adm := { h.adm with cq := value &&& 0x800FFFFFFFFFF000#64 } }))) ∧
  (∀ (value : W64) (v : Fin 2048) (dword : Fin 4) (s s1 : State) (e e' : MsixEnt), s.boot.cfgSpace = true → e = Assoc.get {} s.hub.msix v.val →
    e' = (match dword with
      | 0 => { e with addr := BitVec.ofNat 64 (e.addr.toNat / 2 ^ 32 * 2 ^ 32 + value.toNat % 2 ^ 32) }
      | 1 => { e with addr := BitVec.ofNat 64 (value.toNat % 2 ^ 32 * 2 ^ 32 + e.addr.toNat % 2 ^ 32) }
      | 2 => { e with data := value.setWidth 32 }
      | 3 => { e with masked := value.getLsbD 0 }) →
    s1 = s.modHub (fun h => { h with msix := Assoc.put h.msix v.val e' }) →
    exec (.registerWrite (.msix v dword) value) s = .next (if e'.masked = false ∧ v.val ∈ s.hub.msixPending then
      (s1.modHub (fun h => { h with msixPending := h.msixPending.erase v.val })).emit (.msix v.val e'.addr e'.data) else s1)) ∧
  ∀ (value : W64) (reg : CtlReg) (s : State), s.boot.cfgSpace = false → exec (.registerWrite reg value) s = .next s

/-- R159, R255, R302, R306, R318, R319, R329, R332, R410, R446: the start of commands. A queue that is halted, a command behind one not started, a
SERIAL command behind one not complete, a full barker, and another queue whose turn comes first hold the next command back; a queue turned away
keeps its commands, and the turn moves on to the queue after the one served (log entry 59: the order of the round is the model's choice). An
admin command that may start is in the barker's table with its order, malformed when its fields are. A command of a Live context takes the
context's next accept position, and waits for its own row; a DISPATCH takes its seed and a STEP_BOUNDARY opens the new step; of a context that is
not Live it finishes with CONTEXT_LOST (which signals as any completion does: log entry 153), and one whose descriptor has no translation loses
its context. A malformed collective is counted as ended
PARTIAL; a malformed norm has its block to write still (log entry 106, as the model reads R302 and R329). While device memory is lost a command of
a context ends PARTIAL with UNREACHABLE. (Of a context whose steps are neither journalled nor replayed.) -/
def Obligations.CommandsStart : Prop :=
  ∀ (queue : QueueId) (s0 s : State) (k : Queue) (c : FetchedCmd) (rest : List FetchedCmd), s = s0.loadFetched queue.val →
    s.queue? queue.val = some k → k.fetched = c :: rest →
    (k.halted = true ∨ k.stopped = true ∨ s.queueOpen queue.val = false ∨ cmdSerial c.words = true ∧ s.cmdsOf queue.val ≠ [] ∨
      65536 ≤ s.hub.cmds.length ∨ (namesMemory k.admin c.words = true ∧ s.boot.memory = false ∧ s.memoryLost = false) →
      exec (.commandAccept queue) s0 = .next s) ∧
    ((∃ q ∈ s.hub.queues, s.startable q.1 = true ∧ s.hub.turnsAway q.1 < s.hub.turnsAway queue.val) →
      exec (.commandAccept queue) s0 = .next s) ∧
    (∀ z, k.halted = false → k.stopped = false → s.queueOpen queue.val = true → (cmdSerial c.words = false ∨ s.cmdsOf queue.val = []) →
      s.hub.cmds.length < 65536 → (namesMemory k.admin c.words = false ∨ s.boot.memory = true ∨ s.memoryLost = true) →
      (∀ q ∈ s.hub.queues, s.startable q.1 = true → s.hub.turnsAway queue.val ≤ s.hub.turnsAway q.1) →
      z = (s.setQueue queue.val { k with fetched := rest }).modHub (fun h => { h with turn := (queue.val + 1) % 4096, order := h.order + 1 }) →
      (∀ m, k.admin = true → m = { ctx := none, words := c.words, order := s.hub.order } →
        exec (.commandAccept queue) s0 = .next (z.setCmd ⟨queue, c.count⟩
          (if (cmdHeaderOk true c.words && cmdMapOk c.words) = false then Spec.malformed m
           else if namesMemory true c.words = true ∧ s.boot.memory = false then { Spec.finished m 8 false with cause := 1 }
           else m))) ∧
      (∀ x ok m y, k.admin = false → s.ctx? k.ctx = some x → s.hub.journal = [] → s.hub.replays = [] →
        s.memoryLost = true ∨ ((cmdLoaded c.words = true ∨ c.bad.isSome) ∧ s.stepAllows k.ctx queue.val c.words = true) →
        ok = (cmdHeaderOk false c.words && cmdMapOk c.words && s.handlesOk k.ctx c.words) →
        m = newCmd (some k.ctx) c.words s.hub.order x.accepts →
        y = ((z.setCtx k.ctx { x with accepts := x.accepts + 1 }).setCmd ⟨queue, c.count⟩ m).modYard (fun y =>
          if isFlip c.words then y else { y with holders := insertNat k.ctx y.holders }) →
        (x.st ≠ .live → exec (.commandAccept queue) s0 = .next (y.setCmd ⟨queue, c.count⟩ (Spec.finished m 1 true))) ∧
        (x.st = .live → s.memoryLost = true → exec (.commandAccept queue) s0 = .next (if cmdOp c.words = 3 then
            (y.setCmd ⟨queue, c.count⟩ { Spec.finished m 8 true with cause := 1, firstFail := 0 }).countPartial 1
          else y.setCmd ⟨queue, c.count⟩ { Spec.finished m 8 true with cause := 1 })) ∧
        (x.st = .live → s.memoryLost = false → ok = false → exec (.commandAccept queue) s0 = .next (
          if isNorm c.words then y.setCmd ⟨queue, c.count⟩ { m with cause := 10 }
          else if cmdOp c.words = 3 then (y.setCmd ⟨queue, c.count⟩ { Spec.malformed m with firstFail := 0 }).countPartial 10
          else y.setCmd ⟨queue, c.count⟩ (Spec.malformed m))) ∧
        (x.st = .live → s.memoryLost = false → ok = true →
          (∀ va, c.bad = some va → exec (.commandAccept queue) s0 = .next (y.cmdFault ⟨queue, c.count⟩ 3 va)) ∧
          (c.bad = none →
            (∀ d, cmdOp c.words = 1 → d = newDispatch c.words x.seed x.dispatches → exec (.commandAccept queue) s0 =
              .next ((Spec.awaited (y.setCtx k.ctx { x with accepts := x.accepts + 1, dispatches := x.dispatches + 1 }) d).setCmd
                ⟨queue, c.count⟩ { m with dispatch := some d })) ∧
            (cmdOp c.words = 7 → exec (.commandAccept queue) s0 = .next (y.openStep k.ctx c.words)) ∧
            (cmdOp c.words ≠ 1 → cmdOp c.words ≠ 7 → exec (.commandAccept queue) s0 = .next y)))))

/-- R92, R314, R323, R328, R335, R337, R344, R347, R348: a command completes in order. A finished command whose writes are performed writes its
record at the index
of its slot, the record's words as R328 lays them out. Once the record is performed the turnstile of a context command is signalled, with the
error bit of the command: its count moves by the increment; once a mirror, where it has one, is written too, the command is complete; a WAIT
that halts its queue does so then, with its event; an
admin command has no turnstile and raises vector 1 with its record. A running DISPATCH finishes when nothing of it is left. -/
def Obligations.CommandsComplete : Prop :=
  (∀ (ref : CmdRef) (s : State) (c : Cmd) (k : Queue), s.cmd? ref = some c → c.st = .finished → s.covered ref c = true →
    s.queue? ref.queue.val = some k → k.cq.host = true →
    exec (.commandComplete ref) s = .next ((s.setCmd ref { c with st := .recording 0 }).writePlace true
      (k.cq.addr + 32 * (ref.count.toNat % 2 ^ k.log2)) (c.record.flatMap (fun w => leBytes 8 w.toNat))
      (.vector (if k.admin then some 1 else none) (some ref)))) ∧
  (∀ (c : Cmd), c.status < 256 → c.resource < 256 → c.record.length = 4 ∧
    bits (c.record.getD 0 0).toNat 63 56 = c.status ∧ bits (c.record.getD 0 0).toNat 55 48 = c.resource ∧
    (c.record.getD 0 0).getLsbD 47 = c.skipped ∧ (c.record.getD 0 0).getLsbD 46 = c.errSeen ∧ (c.record.getD 0 0).getLsbD 45 = true ∧
    bits (c.record.getD 0 0).toNat 31 16 = bits (cmdWord c.words 0) 47 32 ∧ c.record.getD 1 0 = c.partMap ∧ c.record.getD 2 0 = c.firstFail ∧
    (c.record.getD 3 0).getLsbD 63 = c.pred ∧ bits (c.record.getD 3 0).toNat 62 48 = c.cause % 2 ^ 15 ∧
    bits (c.record.getD 3 0).toNat 47 0 = c.accept % 2 ^ 48) ∧
  (∀ (ref : CmdRef) (s t : State) (c : Cmd) (ctx : Nat), s.cmd? ref = some c → c.st = .recording 0 → c.ctx = some ctx →
    s.stepWrites ref = false → t = (s.setCmd ref { c with st := .recording 1 }).signalHandle ctx (cmdPhase c.words) c.handle false c.inc c.err
      (some ref) → t.cmd? ref = some { c with st := .recording 1 } → t.stepWrites ref = true → exec (.commandComplete ref) s = .next t) ∧
  (∀ (ref : CmdRef) (s s1 : State) (c : Cmd) (ctx : Nat) (e : Handle) (u u' : Turn), s.cmd? ref = some c → c.st = .recording 0 →
    c.ctx = some ctx → s.stepWrites ref = false → c.errSeen = false → s.handle? ctx c.handle = some e → e.signal = true → e.remote = false →
    Assoc.find? s.hub.turns e.turn = some u → u.mirror = none →
    u' = (if 2 ^ 64 ≤ u.count.toNat + c.inc.toNat then { u with count := 0xFFFFFFFFFFFFFFFF, err := true }
      else { u with count := u.count + c.inc, err := u.err || c.err }) →
    s1 = ((s.setCmd ref { c with st := .recording 1 }).modHub (fun h => { h with turns := Assoc.put h.turns e.turn u' })).wake →
    exec (.commandComplete ref) s = .next (Spec.closed s1 ref) ∧ Assoc.find? (Spec.closed s1 ref).hub.turns e.turn = some u') ∧
  (∀ (ref : CmdRef) (s : State) (c : Cmd) (ctx : Nat), s.cmd? ref = some c → c.st = .recording 1 → c.ctx = some ctx →
    s.stepWrites ref = false → c.errSeen = false →
    exec (.commandComplete ref) s = .next (Spec.closed s ref)) ∧
  (∀ (ref : CmdRef) (s : State) (c : Cmd) (ctx : Nat) (k : Queue), s.cmd? ref = some c → c.st = .recording 1 → c.ctx = some ctx →
    s.stepWrites ref = false → c.errSeen = true → s.queue? ref.queue.val = some k → cmdOp c.words = 4 →
    exec (.commandComplete ref) s = .next (if (cmdWord c.words 3).testBit 2 then
      (State.setQueue (Spec.closed s ref) ref.queue.val { k with halted := true }).event
        [BitVec.ofNat 64 (5 * 2 ^ 56), BitVec.ofNat 64 ref.queue.val]
      else Spec.closed s ref)) ∧
  (∀ (ref : CmdRef) (s : State) (c : Cmd) (d : DispatchSt), s.cmd? ref = some c → c.st = .running → c.dispatch = some d → d.live = 0 →
    d.groups ≤ d.next → s.dispatchQuiet ref = true →
    exec (.commandComplete ref) s = exec (.commandComplete ref) (s.setCmd ref (Spec.finished c 0 false))) ∧
  ∀ (ref : CmdRef) (s : State) (c : Cmd), s.cmd? ref = some c → c.st = .recording 0 → c.ctx = none →
    s.stepWrites ref = false → cmdOp c.words ≠ 0x84 → cmdOp c.words ≠ 0x82 →
    exec (.commandComplete ref) s = .next (Spec.closed (s.setCmd ref { c with st := .recording 1 }) ref)

/-- R67, R101, R169, R256, R321 to R325, R339: the commands DISPATCH, COPY, WAIT, SIGNAL, FREE and ALLOC of a Live context. DISPATCH is refused
with the code of the first test of R67 that fails; one that carries SKIP in a step that is skipped completes as skipped; else its ring groups
may be placed. COPY queues its copy at the tent it names, at tent 0 for a remote destination, else at the home of the destination. WAIT goes on
at once when its wait has ended. SIGNAL signals its turnstile. FREE drops the reference that ALLOC gave and tells so; ALLOC writes the address
that the allocator gives, or 0. The spec leaves some of the order open, and these clauses are the model's choices: the load-time check comes
before the skip test (log entry 131), and a COPY whose destination has no translation would run at tent 0 (log entry 32). -/
def Obligations.ContextCommands : Prop :=
  (∀ (ref : CmdRef) (s : State) (c : Cmd) (ctx : Nat) (x : Ctx) (d : DispatchSt) (k : Desc) (p code : Nat), Spec.dueIn s ref 1 ctx c →
    s.ctx? ctx = some x → c.dispatch = some d → k = d.desc → p = (k.troupes + 3) / 4 →
    code = (if ¬(k.width ≤ 128 ∧ 1 ≤ k.regs ∧ 1 ≤ k.troupes ∧ k.troupes ≤ 64 ∧ k.argWords ≤ 56 ∧ k.entry % 8 = 0 ∧
        (k.argWords = 0 ∨ k.argVa % 4 = 0)) then 1
      else if 4 < k.l1 then 2 else if 640 - 64 * k.l1Units < k.scratch then 3 else if 16 / (k.width / 32) < p then 4
      else if 65536 < p * k.width * (8 * ((k.regs + 7) / 8)) then 5 else if 16 < p * k.accUnits then 6
      else if ∀ r ∈ d.rings, (s.island (tentOfRing r)).fenced = true then 7 else 0) →
    exec (.dispatch ref) s = .next (s.setCmd ref (
      if code ≠ 0 then { Spec.finished c 2 false with resource := code, dispatch := none }
      else if bitN (cmdWord c.words 0) 52 ∧ x.skip = true then { Spec.finished c 0 false with skipped := true, dispatch := none }
      else { c with st := .running }))) ∧
  (∀ (ref : CmdRef) (s s1 : State) (c : Cmd) (ctx t : Nat), Spec.dueIn s ref 2 ctx c →
    (bitN (cmdWord c.words 4) 3 = true ∧ s1 = s ∧ t = Spec.field c 4 2 0 ∨
      bitN (cmdWord c.words 4) 3 = false ∧ bitN (cmdWord c.words 2) 62 = true ∧ s1 = s ∧ t = 0 ∨
      (∃ p, bitN (cmdWord c.words 4) 3 = false ∧ bitN (cmdWord c.words 2) 62 = false ∧
        s.translate 0 ctx (cmdWord c.words 2) true = (s1, .ok p) ∧ t = (if p.host then 0 else homeTent (ellOfGrain p.grain))) ∨
      bitN (cmdWord c.words 4) 3 = false ∧ bitN (cmdWord c.words 2) 62 = false ∧
        s.translate 0 ctx (cmdWord c.words 2) true = (s1, .fault) ∧ t = 0) →
    exec (.copyCommand ref) s = .next ((s1.setCmd ref { c with st := .running }).modTent t (fun x => { x with
      copyq := x.copyq ++ [{ ctx, cmd := ref, dmaq := false, phase := cmdPhase c.words, src := copyEnd 0 0 0 (cmdWord c.words 1)
                             dst := copyEnd 0 0 0 (cmdWord c.words 2), len := cmdWord c.words 3, handle := c.handle, inc := c.inc
                             order := c.order }] }))) ∧
  (∀ (ref : CmdRef) (s : State) (c : Cmd) (ctx : Nat), Spec.dueIn s ref 4 ctx c →
    exec (.waitCommand ref) s = .next (s.setCmd ref (match s.waitEnd ctx (Spec.field c 1 31 0) (c.words.getD 2 0) with
      | none => { c with st := .running }
      | some e => { Spec.finished c 0 false with errSeen := e }))) ∧
  (∀ (ref : CmdRef) (s : State) (c : Cmd) (ctx : Nat), Spec.dueIn s ref 5 ctx c →
    exec (.signalCommand ref) s = .next ((s.signalHandle ctx (cmdPhase c.words) (BitVec.ofNat 32 (cmdWord c.words 1)) (bitN (cmdWord c.words 3) 0)
      (c.words.getD 2 0) (bitN (cmdWord c.words 3) 1) (some ref)).finishCmd ref 0 false)) ∧
  (∀ (ref : CmdRef) (s : State) (c : Cmd) (ctx : Nat), Spec.dueIn s ref 10 ctx c →
    (∀ n o, s.hub.objs.find? (fun o => o.2.ctx == ctx && o.2.ownHandle && (match o.2.alloc with
        | some (_, a) => a == cmdWord c.words 1 | none => false)) = some (n, o) →
      exec (.freeCommand ref) s = .next ((s.putObj n { o with handles := o.handles - 1, ownHandle := false }).setCmd ref
        { Spec.finished c 0 false with pred := true })) ∧
    ((∀ o ∈ s.hub.objs, o.2.ctx = ctx → o.2.ownHandle = true → ∀ p, o.2.alloc ≠ some (p, cmdWord c.words 1)) →
      exec (.freeCommand ref) s = .next (s.setCmd ref { Spec.finished c 0 false with pred := false }))) ∧
  (∀ (ref : CmdRef) (s s1 s2 : State) (c : Cmd) (ctx va : Nat) (a : Option Nat) (l : List (Phys × List (Nat × Byte))), Spec.dueIn s ref 9 ctx c →
    va = Spec.field c 3 56 0 → s.copyPlan 0 ctx va 0 (List.replicate 8 0) = (s1, .ok l) →
    s1.allocate (.cmd ref) ctx (Spec.field c 2 3 0) (cmdWord c.words 1) = (s2, some a) →
    exec (.allocCommand ref) s = .next ((s2.writeVa 0 ctx va (leBytes 8 (a.getD 0)) (.command ref)).1.finishCmd ref 0 false)) ∧
  ∀ (s : State) (who : Asker) (ctx pool size : Nat) (c : Ctx), s.ctx? ctx = some c →
    (Assoc.find? c.pools pool = none ∨ size = 0 ∨ c.driverMap = true ∨
      (∃ p, Assoc.find? c.pools pool = some p ∧ Runs.total p.free * 65536 < size) → s.allocate who ctx pool size = (s, some none))

/-- R159, R204, R253, R254, R343: the commands INVALIDATE, QUERY and STEP_BOUNDARY of a Live context. INVALIDATE drops the .G lines of the rings
that serve the context, and the frames of host ells of its range. QUERY writes the record once every earlier command has started; that of a Lost
context shows its fault, and the command completes with
CONTEXT_LOST (R332, R334).
STEP_BOUNDARY waits, as running, for the dispatches, copies and collectives before it and their STAT.W; then it writes the records and the
decision table, one entry for each tag, and opens the next step with its flags cleared, a skipped step counted, and the values that came early
binned. (The boundary of a context whose steps are neither journalled nor replayed.) -/
def Obligations.StepCommands : Prop :=
  (∀ (ref : CmdRef) (s : State) (c : Cmd) (ctx base len : Nat), Spec.dueIn s ref 6 ctx c → base = cmdWord c.words 2 → len = cmdWord c.words 3 →
    (bitN (cmdWord c.words 1) 1 = true → ∀ t ∈ s.tents, ∀ m ∈ t.2.miss, hostIn base len m.2.ell = false) →
    exec (.invalidate ref) s = .next (State.setCmd { s with
      rings := if bitN (cmdWord c.words 1) 0 then Assoc.mapVals (fun _ (r : Ring) => if ∃ g ∈ r.groups, g.ctx = ctx then { r with
          l1 := r.l1.filter (fun l => l.2.loc.isSome)
          loads := Assoc.mapVals (fun _ (o : LoadOp) => if o.loc = none then { o with l1 := [] } else o) r.loads } else r) s.rings else s.rings
      tents := if bitN (cmdWord c.words 1) 1 then Assoc.mapVals (fun _ (t : Tent) => t.dropHost base len) s.tents else s.tents } ref
        (Spec.finished c 0 false))) ∧
  (∀ (ref : CmdRef) (s s1 : State) (c : Cmd) (ctx va : Nat), Spec.dueIn s ref 8 ctx c → va = Spec.field c 1 56 0 →
    (∀ x ∈ s.hub.cmds, x.2.ctx = some ctx → x.2.accept < c.accept → x.2.st ≠ .accepted) →
    s.writeVa 0 ctx va ((s.queryWords ctx).flatMap (fun w => leBytes 8 w.toNat)) (.command ref) = (s1, .ok []) →
    exec (.query ref) s = .next (s1.finishCmd ref 0 false)) ∧
  (∀ (ref : CmdRef) (s s1 : State) (c : Cmd) (ctx : Nat) (x : Ctx), s.cmd? ref = some c → c.st = .accepted → cmdOp c.words = 8 →
    c.ctx = some ctx → s.ctx? ctx = some x → x.st = .lost →
    (∀ x ∈ s.hub.cmds, x.2.ctx = some ctx → x.2.accept < c.accept → x.2.st ≠ .accepted) →
    s.writeVa 0 ctx (Spec.field c 1 56 0) ((s.queryWords ctx).flatMap (fun w => leBytes 8 w.toNat)) (.command ref) = (s1, .ok []) →
    exec (.query ref) s = .next (s1.finishCmd ref 1 true) ∧ ((s.queryWords ctx).getD 1 0).getLsbD 2 = true ∧
    ∀ f, x.fault = some f → f.code < 256 → bits ((s.queryWords ctx).getD 1 0).toNat 15 8 = f.code) ∧
  (∀ (s : State) (ctx : Nat) (x : Ctx), s.ctx? ctx = some x → x.st = .live → x.accepts < 2 ^ 64 → (s.queryWords ctx).length = 32 ∧
    (s.queryWords ctx).getD 0 0 = x.step ∧ (s.queryWords ctx).getD 2 0 = x.satCount ∧ (s.queryWords ctx).getD 3 0 = x.skipped ∧
    (s.queryWords ctx).getD 4 0 = x.outOfRange ∧ (s.queryWords ctx).getD 5 0 = x.remoteFails ∧
    (s.queryWords ctx).getD 9 0 = BitVec.ofNat 64 x.accepts ∧
    ((s.queryWords ctx).getD 1 0).getLsbD 0 = x.nf ∧ ((s.queryWords ctx).getD 1 0).getLsbD 1 = x.deadRead ∧
    ((s.queryWords ctx).getD 1 0).getLsbD 2 = false ∧ ((s.queryWords ctx).getD 1 0).getLsbD 3 = x.skip ∧
    ((s.queryWords ctx).getD 1 0).getLsbD 4 = x.stepNf) ∧
  (∀ (ref : CmdRef) (s : State) (c : Cmd) (ctx : Nat), Spec.dueIn s ref 7 ctx c →
    (s.setCmd ref { c with st := .running }).stepQuiet ctx c.accept = false →
    exec (.stepBoundary ref) s = .next (s.setCmd ref { c with st := .running })) ∧
  (∀ (ref : CmdRef) (s : State) (c : Cmd) (ctx : Nat) (x : Ctx), Spec.dueIn s ref 7 ctx c → s.ctx? ctx = some x → x.tagCount = 0 →
    s.hub.journal = [] → s.hub.replays = [] →
    (s.setCmd ref { c with st := .running }).stepQuiet ctx c.accept = true →
    exec (.stepBoundary ref) s = .next ((s.setCtx ctx (x.nextStep [])).setCmd ref (Spec.finished c 0 false))) ∧
  (∀ (x : Ctx) (e : FMap Int), x.later = [] → x.nextStep e = { x with
    tags := [], eref := e, stepNf := false, skip := false, later := []
    skipped := if x.skip then BitVec.ofNat 64 (min (x.skipped.toNat + 1) (2 ^ 64 - 1)) else x.skipped, step := x.step + 1 }) ∧
  (∀ (s t : State) (ref : CmdRef) (ctx : Nat) (x : Ctx) (cfg dec : List Byte) (ends : List TagEnd), 0 < x.tagCount → s.hub.replays = [] →
    ends = (List.range x.tagCount).map (fun i => x.endTag i (entryOf cfg i) (entryOf dec i)) →
    t = ((s.writeVa 0 ctx x.tagRecVa (ends.flatMap (·.record)) (.command ref)).1.writeVa 0 ctx x.tagDecVa
      (ends.flatMap (fun e => leBytes 8 (decisionWord e.fmt e.scale))) (.command ref)).1 →
    t.hub.journal = [] → t.hub.replays = [] → s.endStep ref ctx x cfg dec = (t.modCtx ctx (fun y => y.nextStep ((List.range x.tagCount).map (fun i =>
        (i, (ends.map (·.eref)).getD i 0))))).finishCmd ref 0 false) ∧
  ∀ (ref : CmdRef) (s s1 s2 s3 s4 : State) (c : Cmd) (ctx : Nat) (x : Ctx) (cfg dec : List Byte) (l l' : List (Phys × List (Nat × Byte)))
    (g g' : List Nat), Spec.dueIn s ref 7 ctx c → s.ctx? ctx = some x → 0 < x.tagCount → s.hub.replays = [] →
      (s.setCmd ref { c with st := .running }).stepQuiet ctx c.accept = true →
    (s.setCmd ref { c with st := .running }).copyPlan 0 ctx x.tagRecVa 0 (List.replicate (192 * x.tagCount) 0) = (s1, .ok l) →
    s1.copyPlan 0 ctx x.tagDecVa 0 (List.replicate (8 * x.tagCount) 0) = (s2, .ok l') →
    s2.peekVa (.cmd ref) 0 ctx x.tagCfgVa (8 * x.tagCount) = (s3, .ok cfg, g) →
    s3.peekVa (.cmd ref) 0 ctx x.tagDecVa (8 * x.tagCount) = (s4, .ok dec, g') →
    exec (.stepBoundary ref) s = .next ((s4.forgetAnswers (fun a => a == .cmd ref)).endStep ref ctx x cfg dec)

/-- R255, R278, R289 to R302, R305: the start of each collective operation. The next one in accept order starts when fewer than 16 run: it takes
the COLL_SEQ of its group, takes its place in the table with the grants that came early, and goes on as far as it can, at once to its end with
UNREACHABLE when a member is excluded. A group that does not fit ends it, as malformed, or with DOMAIN when it names the other domain and may not;
it has no number when the descriptor is refused; a descriptor that cannot be read faults. A fused norm that was refused at its acceptance ends
with that cause. What ends before it has started has no part and no byte with its final value, and a norm of it has written its block with NORM
NaN and NF 1 and set the skip state. A collective that runs goes on as far as it can. (That a
group of the other domain takes a number and ends at once is the model's reading of R290 and R305, in the docstring of `State.groupCause`.) -/
def Obligations.CollectivesStart : Prop :=
  (∀ (i : Instr) (ref : CmdRef) (op ctx : Nat) (s : State) (c : Cmd), Spec.collRow i = some (ref, op) → Spec.collDue s ref op ctx c →
    (∀ s1 key my members x, s.readGroup ref ctx (cmdWord c.words 4) = (s1, .ok key my members) →
      x = Spec.starting s1 ref ctx key my c.words members →
      ((op = 7 → members.length = 2 ∧ ∀ m ∈ members, m.1 = s1.net.ownId) →
        (op ≠ 7 → (∀ m ∈ members, m.2 = s1.net.ownDom) ∧ (op = 4 → Spec.field c 6 63 52 < members.length)) →
        ∃ t, t = (s1.modNet (fun n => { n with
            collSeq := Assoc.put n.collSeq key ((x.seq + 1) % 65536), colls := n.colls ++ [x]
            early := n.early.filter (fun p => !(p.sel.toNat == key && bits p.addr.toNat 63 48 == x.seq))
            delivered := n.early.filter (fun p => p.sel.toNat == key && bits p.addr.toNat 63 48 == x.seq) ++ n.delivered })).modCmd ref
              (fun m => { m with st := .running }) ∧
          exec i s = .next (State.pump (if ∃ m ∈ members, m.2 = s1.net.ownDom ∧ m.1 ∈ s1.net.excluded then t.endColl ref 1 else t) ref)) ∧
      (op ≠ 7 → (∃ m ∈ members, m.2 ≠ s1.net.ownDom) → exec i s = .next (s1.collMalformed ref ctx c.words 9 (fun s => s.modNet (fun n =>
        { n with collSeq := Assoc.put n.collSeq key ((x.seq + 1) % 65536) })))) ∧
      ((op = 7 ∧ (members.length ≠ 2 ∨ ∃ m ∈ members, m.1 ≠ s1.net.ownId)) ∨
        (op = 4 ∧ (∀ m ∈ members, m.2 = s1.net.ownDom) ∧ members.length ≤ Spec.field c 6 63 52) →
        exec i s = .next (s1.collMalformed ref ctx c.words 10 (fun s => s.modNet (fun n =>
          { n with collSeq := Assoc.put n.collSeq key ((x.seq + 1) % 65536) }))))) ∧
    (∀ s1, s.readGroup ref ctx (cmdWord c.words 4) = (s1, .malformed) → exec i s = .next (s1.collMalformed ref ctx c.words 10 id)) ∧
    (∀ s1, s.readGroup ref ctx (cmdWord c.words 4) = (s1, .integrity) → exec i s = .next (s1.collMalformed ref ctx c.words 5 id)) ∧
    (∀ s1 va, s.readGroup ref ctx (cmdWord c.words 4) = (s1, .fault va) → exec i s = .next (s1.cmdFault ref 3 va))) ∧
  (∀ (i : Instr) (ref : CmdRef) (op ctx : Nat) (s : State) (c : Cmd), Spec.collRow i = some (ref, op) → Spec.dueIn s ref 3 ctx c →
    Spec.field c 3 31 28 = op → c.cause ≠ 0 → exec i s = .next (s.collMalformed ref ctx c.words c.cause id)) ∧
  (∀ (i : Instr) (ref : CmdRef) (op ctx : Nat) (s : State) (c : Cmd), Spec.collRow i = some (ref, op) → s.cmd? ref = some c → c.st = .running →
    cmdOp c.words = 3 → Spec.field c 3 31 28 = op → c.ctx = some ctx → s.ctxLive ctx = true → exec i s = .next (s.pump ref)) ∧
  (∀ (s : State) (ref : CmdRef) (ctx cause : Nat) (w : List W64) (m : Cmd) (f : State → State), isNorm w = false → (f s).cmd? ref = some m →
    m.st = .accepted → s.collMalformed ref ctx w cause f =
      ((f s).countPartial cause).setCmd ref { Spec.finished m 8 true with partMap := 0, firstFail := 0, cause := cause }) ∧
  ∀ (s s1 s2 s3 : State) (ref : CmdRef) (ctx cause : Nat) (w : List W64) (m : Cmd) (f : State → State) (sum : List Byte), isNorm w = true →
    s.freeTake 16 = (s1, sum) → s1.writeVa 0 ctx (bits (cmdWord w 2) 56 0) (leBytes 16 (leNat sum) ++ leBytes 8 (canonicalNan 1 * 2 ^ 32 + 1) ++
      leBytes 8 (s1.stepNumber ctx)) (.command ref) = (s2, .ok []) → s3 = f (s2.modCtx ctx (fun x => { x with skip := true })) →
    s3.cmd? ref = some m → m.st = .accepted → s.collMalformed ref ctx w cause f =
      (s3.countPartial cause).setCmd ref { Spec.finished m 8 true with partMap := 0, firstFail := 0, cause := cause }

/-- R273, R289, R292 to R296, R301, R302, R307: the life of a collective. A segment that is left and granted is sent in packets of 4 KiB with
the header that R273 gives; the own one is received at once. No rank is granted more than 8 segments beyond those used. COLL_SEG hands the next
packet delivered to the collective it names: data are
received, a grant raises what may be sent, another word 3 ends it as malformed; what names a collective that has ended is discarded. A whole
contribution of every rank to a segment of the own shard is reduced (here without a record and a replay of the order); the ordered tree adds by
R296's levels, for every number of members. A complete collective finishes with success, one that
ended early with PARTIAL, its part bitmap and its first failing byte. A member that is needed and silent for the timeout ends it as PARTIAL.
The spec leaves the wire form of grants and segments open. That SEG of a grant counts the segments granted so far (log entry 96), that FLOW is
the number of a packet in its segment (97), and that a failed segment travels with STATUS 5 (98) are the model's choices. -/
def Obligations.CollectiveSteps : Prop :=
  (∀ (s s1 : State) (ref : CmdRef) (c : Coll) (kind dest seg st : Nat) (bytes : List Byte), s.coll? ref = some c → c.ended = false →
    seg = Assoc.get 0 c.sent (streamKey dest kind) → 65536 * seg < c.streamLen kind c.my dest → dest ≠ c.my → c.op ≠ 5 → kind ≠ 1 →
    Assoc.get 0 c.sent (streamKey dest 0) + Assoc.get 0 c.sent (streamKey dest 1) + Assoc.get 0 c.sent (streamKey dest 3) <
      Assoc.get 0 c.grantsIn dest →
    s.readColl c (c.src + c.srcOff dest + 65536 * seg) (min 65536 (c.streamLen kind c.my dest - 65536 * seg)) = (s1, .ok bytes st) →
    s.sendSegment ref kind dest = ((segPackets bytes).foldl (fun s p => s.sendColl c dest kind seg p.1 p.2 st 0)
      (s1.modColl ref (fun c => { c with sent := Assoc.put c.sent (streamKey dest kind) (seg + 1) })), true)) ∧
  (∀ (s s1 : State) (ref : CmdRef) (c : Coll) (kind seg st : Nat) (bytes : List Byte), s.coll? ref = some c → c.ended = false →
    seg = Assoc.get 0 c.sent (streamKey c.my kind) → 65536 * seg < c.streamLen kind c.my c.my →
    Assoc.get 0 c.sent (streamKey c.my 0) + Assoc.get 0 c.sent (streamKey c.my 1) + Assoc.get 0 c.sent (streamKey c.my 3) <
      Assoc.get 0 c.grantsOut c.my → s.segSource c kind c.my seg = (s1, .ok bytes st) →
    s.sendSegment ref kind c.my = ((s1.modColl ref (fun c => { c with sent := Assoc.put c.sent (streamKey c.my kind) (seg + 1) })).modColl ref
      (fun x => (segPackets bytes).foldl (fun x p => x.receive c.my kind seg p.1 p.2 st) x), true)) ∧
  (∀ (s : State) (n r : Nat) (ref : CmdRef) (c x : Coll), (∀ y ∈ s.net.colls, y.ref = ref → y = c) → s.coll? ref = some c →
    (State.grantRank n s ref r).coll? ref = some x → x.usedOf r = c.usedOf r ∧
      (Assoc.get 0 c.grantsOut r ≤ c.usedOf r + 8 → Assoc.get 0 x.grantsOut r ≤ x.usedOf r + 8)) ∧
  (∀ (s : State) (p : Packet) (c : Coll) (s1 : State), s.net.nextOf? 7 (fun _ => true) = some p → s.collOf? p = some c → c.ended = false →
    p.aux = c.auxWord → c.op = 6 →
    (s.carouselIn c p = (s1, true) → exec .collSeg s = .next ((s1.takePacket p).pump c.ref)) ∧
    (s.carouselIn c p = (s1, false) → exec .collSeg s = .next (s1.pump c.ref))) ∧
  (∀ (s : State) (p : Packet) (c : Coll), s.net.nextOf? 7 (fun _ => true) = some p → s.collOf? p = some c → c.ended = true →
    exec .collSeg s = .next ((s.takePacket p).pump c.ref)) ∧
  (∀ (s : State) (c : Coll) (dest kind seg n st tag : Nat) (bs : List Byte) (m : Nat × Bool), c.members[dest]? = some m →
    s.sendColl c dest kind seg n bs st tag = (s.countLinkBytes c.ctx 3 (32 + bs.length)).forward
      { op := 7, vc := 2, flow := BitVec.ofNat 4 n, dstId := Fin.ofNat 4096 m.1, srcId := Fin.ofNat 4096 s.net.ownId, dstDom := m.2
        srcDom := s.net.ownDom, len := BitVec.ofNat 13 bs.length, tag := BitVec.ofNat 16 tag, status := BitVec.ofNat 16 st
        sel := BitVec.ofNat 16 c.key, addr := BitVec.ofNat 64 (c.seq * 2 ^ 48 + c.my * 2 ^ 36 + kind * 2 ^ 34 + seg), aux := c.auxWord
        payload := bs }) ∧
  (∀ (s : State) (p : Packet) (seq rank kind seg : Nat), s.net.nextOf? 7 (fun _ => true) = some p → seq = bits p.addr.toNat 63 48 →
    rank = bits p.addr.toNat 47 36 → kind = bits p.addr.toNat 35 34 → seg = bits p.addr.toNat 31 0 →
    (∀ c, s.collOf? p = some c → c.ended = false → p.aux = c.auxWord → c.op ≠ 6 →
      (kind = 2 → exec .collSeg s = .next (((s.modColl c.ref (fun c => { c with
        grantsIn := Assoc.put c.grantsIn rank (max seg (Assoc.get 0 c.grantsIn rank)) })).takePacket p).pump c.ref)) ∧
      (kind ≠ 2 → 65536 * seg < c.streamLen kind rank c.my → exec .collSeg s = .next (((s.modColl c.ref (fun c =>
        c.receive rank kind seg p.flow.toNat p.payload p.status.toNat)).takePacket p).pump c.ref))) ∧
    (∀ c, s.collOf? p = some c → c.ended = false → p.aux ≠ c.auxWord →
      exec .collSeg s = .next (((s.endColl c.ref 10).takePacket p).pump c.ref)) ∧
    (s.collOf? p = none → kind ≠ 2 ∨ 32768 ≤ (seq + 65536 - Assoc.get 0 s.net.collSeq p.sel.toNat) % 65536 →
      exec .collSeg s = .next (s.takePacket p)) ∧
    (s.collOf? p = none → kind = 2 → (seq + 65536 - Assoc.get 0 s.net.collSeq p.sel.toNat) % 65536 < 32768 →
      exec .collSeg s = .next ((s.takePacket p).modNet (fun n => { n with early := n.early ++ [p] })))) ∧
  (∀ (s : State) (ref : CmdRef) (c : Coll) (seg : Nat), s.coll? ref = some c → c.ref = ref → c.ended = false → c.op = 0 ∨ c.op = 1 →
    segKey c.my 0 seg ∉ c.used → 65536 * seg < c.streamLen 0 c.my c.my → (∀ r < c.size, c.whole r 0 seg = true) →
    (c.esize = 3 → ∀ g, g + 1 = seg ∨ g = seg + 1 → 65536 * g < c.streamLen 0 c.my c.my → ∀ r < c.size, c.whole r 0 g = true) →
    c.my < c.size → s.hub.journal = [] →
    s.hub.replays = [] →
    s.useSegment ref c.my 0 seg = (s.modNetCounters (fun k => { k with segsReduced := bumpAt k.segsReduced (seg % 8) 1 })).modColl ref
      (fun c => { c with
        used := c.used ++ (List.range c.size).map (fun r => segKey r 0 seg)
        results := Assoc.put c.results seg (c.reduce seg none) })) ∧
  (∀ (c : Coll) (order : List Nat) (level : Nat → List FVal), c.tree = true → c.arith ≠ 15 → (level 0).length = c.size → 0 < c.size →
    (∀ k, Spec.treeLevel (fun x y => decodeFmt c.arith (roundFmt c.arith (FVal.add x y))) (level k) (level (k + 1))) →
    ∀ k x, level k = [x] → c.sum order (level 0) = (convertFmt c.dtype c.rnd x).enc) ∧
  (∀ (c : Coll) (order : List Nat) (vals : List FVal) (level : Nat → List AccEl), c.tree = true → c.arith = 15 → vals.length = c.size →
    0 < c.size → level 0 = vals.map (fun v => accStep AccEl.zero [v]) →
    (∀ k, Spec.treeLevel (fun x y => accStep x [y.val]) (level k) (level (k + 1))) →
    ∀ k x, level k = [x] → c.sum order vals = if c.dtype = 15 then x.encode else (convertFmt c.dtype c.rnd x.val).enc) ∧
  (∀ (s : State) (ref : CmdRef) (c : Coll) (m : Cmd) (fails : List (Nat × Nat)), c.ref = ref → s.cmd? ref = some m → m.st = .running →
    (c.cause = 0 → s.closeColl c fails = ((Spec.withoutColl s ref).modNetCounters (fun k => { k with
        collsDone := bump k.collsDone 1 })).setCmd ref (Spec.finished m 0 false)) ∧
    (c.cause ≠ 0 → s.closeColl c fails = ((Spec.withoutColl s ref).countPartial c.cause).setCmd ref { Spec.finished m 8 true with
        partMap := rangesMap c.dstLen fails, cause := c.cause
        firstFail := BitVec.ofNat 64 (match fails with | f :: _ => f.1 | [] => 2 ^ 64 - 1) })) ∧
  ∀ (ref : CmdRef) (rank : Nat) (s : State) (c : Coll), s.coll? ref = some c → s.hub.replays = [] →
    (c.ended = false → c.needs rank = true → exec (.progressTimeout ref rank) s = .next ((s.endColl ref 1).pump ref)) ∧
    (c.ended = true ∨ c.needs rank = false → exec (.progressTimeout ref rank) s = .next s)

/-- R362 to R368, R372, R376 to R380: the SWING rows and DIGEST, of a Live context. DECLARE records a pair that R362 allows; RELEASE frees one
without a drain and waits for one with; FLIP, once it is the oldest command and the pair is free, sets the drain bit of every ell of the buffer
and gives the engines of each tent their copies, not before the writes that fetches in progress of those ells hold (log entry 177);
SWING_DRAIN_END writes the trailer, the word that holds the step last, and finishes the FLIP after it. JOURNAL_EXPORT writes the image of a
complete step, JOURNAL_IMPORT stores an image as a step, REPLAY_ARM holds a step for the next boundary. DIGEST writes the SM3 digest of each
chunk with its offset before it. -/
def Obligations.SwingsAndJournals : Prop :=
  (∀ (ref : CmdRef) (s : State) (c : Cmd) (ctx pair : Nat) (x : Ctx), Spec.dueIn s ref 11 ctx c → s.ctx? ctx = some x →
    pair = Spec.field c 1 59 56 →
    (∀ a b len, Spec.field c 1 63 60 = 0 → a = cmdWord c.words 2 → b = cmdWord c.words 3 → len = cmdWord c.words 4 →
      exec (.declare ref) s = .next (
        if a < 2 ^ 57 ∧ b < 2 ^ 57 ∧ Assoc.find? x.swings pair = none ∧ a % 65536 = 0 ∧ b % 65536 = 0 ∧ len % 65536 = 0 ∧ 0 < len ∧
            len ≤ 2 ^ 39 ∧ (a + len ≤ b ∨ b + len ≤ a) ∧
            (∀ p ∈ x.swings, ∀ u ∈ [a, b], ∀ v ∈ [p.2.a, p.2.b], u + len ≤ v ∨ v + p.2.len ≤ u) then
          (s.setCtx ctx { x with swings := Assoc.put x.swings pair { a, b, len } }).setCmd ref (Spec.finished c 0 false)
        else s.setCmd ref (Spec.malformed c))) ∧
    (∀ p, Spec.field c 1 63 60 = 2 → Assoc.find? x.swings pair = some p → cmdWord c.words 2 = 0 → cmdWord c.words 3 = 0 →
      cmdWord c.words 4 = 0 → exec (.release ref) s = .next (if p.drain.isSome then s.setCmd ref { c with st := .running } else
        (s.setCtx ctx { x with swings := Assoc.del x.swings pair }).setCmd ref (Spec.finished c 0 false))) ∧
    (∀ p s1 map op, Spec.field c 1 63 60 = 1 → Assoc.find? x.swings pair = some p → p.drain = none → cmdWord c.words 2 = 0 →
      cmdWord c.words 4 = 0 → copyAddrOk (cmdWord c.words 3) = true →
      (∀ y ∈ s.hub.cmds, y.2.ctx = some ctx → c.accept ≤ y.2.accept) →
      s.flipPlan ctx pair (if bitN (cmdWord c.words 1) 55 then p.b else p.a) p.len = (s1, .ok map) →
      (∀ ch < 32, bitsOn map ch ≤ 16777216) → s1.hub.drainClash ctx pair map = false →
      (∀ t ∈ s1.tents, ∀ m ∈ t.2.miss, ∀ d, Assoc.find? map m.2.ell = some d → d.ctx = ctx → d.pair = pair →
        ∀ q ∈ m.2.waiters, q.kind.writes = false ∧ q.kind.isDead = false) →
      op = ({ ctx, cmd := ref, dmaq := false, phase := cmdPhase c.words, src := .va (if bitN (cmdWord c.words 1) 55 then p.b else p.a)
              dst := copyEnd 0 0 0 (cmdWord c.words 3), len := p.len, handle := c.handle, inc := c.inc, order := c.order
              swing := some pair } : CopyOp) →
      exec (.flip ref) s = .next ((List.range 8).foldl (fun (s : State) t => s.modTent t (fun y => { y with
        copyq := y.copyq ++ List.replicate (Spec.field c 1 54 52 + 1) op })) ((((s1.modHub (fun h => { h with drainMap := map })).putSwing ctx pair
          { p with drain := some ref, buf := bitN (cmdWord c.words 1) 55, started := s1.periods, stage := 0 }).setCmd ref
            { c with st := .running }).modYard (fun y => { y with holders := insertNat ctx y.holders })))) ∧
    (∀ j s1 l, Spec.field c 1 63 60 = 3 → s.hub.heldStep? ctx (cmdWord c.words 7) = some j → cmdWord c.words 2 < 2 ^ 57 →
      cmdWord c.words 3 = 0 → 4096 * j.blocks ≤ cmdWord c.words 4 →
      s.copyPlan 0 ctx (cmdWord c.words 2) 0 (List.replicate (4096 * j.blocks) 0) = (s1, .ok l) → ∃ fill f,
      exec (.journalExport ref) s = .next ((State.writeVa { s1 with free := f } 0 ctx (cmdWord c.words 2) (j.image ++ fill)
        (.command ref)).1.finishCmd ref 0 false)) ∧
    (∀ s1 s2 head g bs, Spec.field c 1 63 60 = 4 → cmdWord c.words 2 < 2 ^ 57 → cmdWord c.words 3 = 0 → 4096 ≤ cmdWord c.words 4 →
      s.peekVa (.cmd ref) 0 ctx (cmdWord c.words 2) 256 = (s1, .ok head, g) → 0 < entryOf head 4 → 4096 * entryOf head 4 ≤ cmdWord c.words 4 →
      s1.readVa (.cmd ref) 0 ctx (cmdWord c.words 2) (4096 * entryOf head 4) = (s2, .ok bs) →
      exec (.journalImport ref) s = .next ((s2.modHub (fun h => h.fitJournal (fun y => y == stepOfImage ctx (cmdWord c.words 7) bs)
        (h.journal.filter (fun y => !(y.ctx == ctx && y.step == (stepOfImage ctx (cmdWord c.words 7) bs).step && y.complete)) ++
          [stepOfImage ctx (cmdWord c.words 7) bs]))).finishCmd ref 0 false)) ∧
    (∀ j, Spec.field c 1 63 60 = 5 → s.hub.heldStep? ctx (cmdWord c.words 7) = some j → cmdWord c.words 2 = 0 → cmdWord c.words 3 = 0 →
      cmdWord c.words 4 = 0 → exec (.replayArm ref) s = .next ((s.setCtx ctx { x with
          armed := some (cmdWord c.words 7) }).setCmd ref (Spec.finished c 0 false)))) ∧
  (∀ (ctx : CtxId) (pair : Nat) (s : State) (p : SwingPair) (ref : CmdRef) (c : Cmd), s.swing? ctx.val pair = some p → p.drain = some ref →
    (∀ t ∈ s.tents, (∀ o ∈ t.2.copyq, ¬(o.ctx = ctx.val ∧ o.swing = some pair)) ∧
      ∀ e ∈ t.2.engines, ¬(e.2.ctx = ctx.val ∧ e.2.swing = some pair)) → s.cmd? ref = some c → c.st = .running → s.covered ref c = true →
    (c.cause ≠ 0 → exec (.swingDrainEnd ctx pair) s = .next ((s.setCmd ref (Spec.finished c 8 true)).endSwing ctx.val pair p)) ∧
    (∀ s1, c.cause = 0 → p.stage = 0 → s.trailerReady ctx.val (cmdWord c.words 3) p.len 64 = (s1, some true) →
      exec (.swingDrainEnd ctx pair) s = .next (((s1.trailerWrite ref ctx.val (cmdWord c.words 3) p.len
        (trailerBody (c.words.getD 7 0) p.len pair p.buf).1).trailerWrite ref ctx.val (cmdWord c.words 3) (p.len + 32)
          (trailerBody (c.words.getD 7 0) p.len pair p.buf).2).putSwing ctx.val pair { p with stage := 1 })) ∧
    (∀ s1, c.cause = 0 → p.stage = 1 → s.trailerReady ctx.val (cmdWord c.words 3) (p.len + 24) 8 = (s1, some true) →
      exec (.swingDrainEnd ctx pair) s = .next ((s1.trailerWrite ref ctx.val (cmdWord c.words 3) (p.len + 24)
        (leBytes 8 (c.words.getD 7 0).toNat)).putSwing ctx.val pair { p with stage := 2 })) ∧
    (c.cause = 0 → p.stage = 2 → exec (.swingDrainEnd ctx pair) s = .next (State.endSwing (State.finishCmd { s with
      resil := { s.resil with drains := ((s.periods - p.started) :: s.resil.drains).take 16 } } ref 0 false) ctx.val pair p))) ∧
  (∀ (ref : CmdRef) (s s1 s2 : State) (c : Cmd) (ctx src len size n dst : Nat) (bs : List Byte) (l : List (Phys × List (Nat × Byte))),
    Spec.dueIn s ref 12 ctx c → src = cmdWord c.words 1 → len = cmdWord c.words 2 → size = 2 ^ Spec.field c 3 5 0 → dst = cmdWord c.words 4 →
    n = len / size → 0 < n → s.copyPlan 0 ctx dst 0 (List.replicate (32 * n) 0) = (s1, .ok l) →
    s1.scanVa (.cmd ref) ctx src len = (s2, .ok bs []) → bs.length = len →
    exec (.digest ref) s = .next ((s2.writeVa 0 ctx dst ((List.range n).flatMap (fun i =>
      Sm3.hash (leBytes 8 (i * size) ++ (bs.drop (i * size)).take size))) (.command ref)).1.finishCmd ref 0 false)) ∧
  ∀ (ref : CmdRef) (s : State) (c : Cmd) (ctx : Nat), Spec.dueIn s ref 12 ctx c → cmdWord c.words 2 = 0 →
    exec (.digest ref) s = .next (s.setCmd ref (Spec.finished c 0 false))

/-- R159, R224, R231, R232, R315, R316, R321, R331, R332, R341, R357: the admin commands over contexts and queues. CTX_CREATE makes a Live context
from a Free key slot, whose keys are new and unknown, and opens step 0, its references of the tags from their table; a slot at its ceiling
waits. CTX_SET sets
the two enables. CTX_TEARDOWN runs what R341 leaves to be run; once nothing of the context runs and the host holds no copy under its slot,
TEARDOWN_COMPLETE condemns or frees the slot, frees the context, and lets the commands complete. A queue is created, is destroyed once its
commands are complete, and its halt is ended. Each command is malformed where it may not act. -/
def Obligations.ContextsAndQueues : Prop :=
  ∀ (ref : CmdRef) (s : State) (c : Cmd) (n : Nat), n = Spec.field c 1 63 54 →
    (Spec.dueAdmin s ref 0x80 c → ∀ x k, x = newCtx c.words → k = s.hub.keySlot x.keySlot →
      ((s.ctx? n).isSome ∨ k.st ≠ .free ∨ 4096 < x.tagCount ∨ 8192 < s.hub.tagsUsed + x.tagCount →
        exec (.ctxCreate ref) s = .next (s.setCmd ref (Spec.malformed c))) ∧
      (s.ctx? n = none → k.st = .free → x.tagCount ≤ 4096 → s.hub.tagsUsed + x.tagCount ≤ 8192 → k.ceiling ≤ k.gen →
        exec (.ctxCreate ref) s = .next s) ∧
      (s.ctx? n = none → k.st = .free → x.tagCount ≤ 4096 → s.hub.tagsUsed + x.tagCount ≤ 8192 → k.gen < k.ceiling → ∃ k1 k2 k3 f t,
        t = ((State.setKeySlot { s with free := f } x.keySlot { k with st := .live, k1, k2, k3 }).setCtx n
          { keySlot := Spec.field c 1 53 42, ptRoot := Spec.field c 1 41 0, nfTrap := bitN (cmdWord c.words 2) 63
            deadFault := bitN (cmdWord c.words 2) 62, driverMap := bitN (cmdWord c.words 2) 61, tagCount := Spec.field c 2 60 48
            tagCfgVa := Spec.field c 3 56 0, tagRecVa := Spec.field c 4 56 0, tagDecVa := Spec.field c 5 56 0, seed := mix 1 }).modYard (fun y =>
              { y with totals := Assoc.del y.totals n }) ∧
        (x.tagCount = 0 → exec (.ctxCreate ref) s = .next (t.setCmd ref (Spec.finished c 0 false))) ∧
        ∀ u bs, 0 < x.tagCount → t.readVa (.cmd ref) 0 n x.tagCfgVa (8 * x.tagCount) = (u, .ok bs) →
          exec (.ctxCreate ref) s = .next ((u.modCtx n (fun y => { y with eref := (List.range x.tagCount).map (fun i =>
            (i, ((tagCfg (leNat ((bs.drop (8 * i)).take 8))).eRef0 : Int) - 127)) })).finishCmd ref 0 false))) ∧
    (Spec.dueAdmin s ref 0x81 c → exec (.ctxSet ref) s = .next (match s.ctx? n with
      | none => s.setCmd ref (Spec.malformed c)
      | some x => (s.setCtx n { x with nfTrap := bitN (cmdWord c.words 2) 63, deadFault := bitN (cmdWord c.words 2) 62 }).setCmd ref
          (Spec.finished c 0 false))) ∧
    (Spec.dueAdmin s ref 0x82 c → ∀ t, t = (s.setCmd ref { c with st := .running }).modHub (fun h => { h with
        teardowns := h.teardowns ++ [(ref, n)] }) →
      exec (.ctxTeardown ref) s = .next (match s.ctx? n with
        | none => s.setCmd ref (Spec.malformed c)
        | some x => match x.st with
          | .live => ((t.setCtx n { x with st := .tearing }).lossSteps n 1 none false).dropHoldings n
          | .lost => (t.setCtx n { x with st := .tearing }).dropHoldings n
          | .tearing => t)) ∧
    (∀ (ctx : CtxId) (x : Ctx) (t : State), s.ctx? ctx.val = some x → x.st = .tearing → s.ctxBusy ctx.val = false →
      (∀ e ∈ s.hub.filter, e.key ≠ x.keySlot) → t = s.setKeySlot x.keySlot { s.hub.keySlot x.keySlot with st := .condemned } →
      (s.hub.teardowns.filter (fun d => d.2 == ctx.val) = [] → exec (.teardownComplete ctx) s = .next (State.event
        ((if ∃ o ∈ s.hub.objs, o.2.key = x.keySlot then t else t.freeKey x.keySlot).freeCtx ctx.val)
        [BitVec.ofNat 64 (4 * 2 ^ 56), BitVec.ofNat 64 ctx.val])) ∧
      (∀ r, s.hub.teardowns.filter (fun d => d.2 == ctx.val) = [(r, ctx.val)] → exec (.teardownComplete ctx) s = .next (State.modCmd
        ((if ∃ o ∈ s.hub.objs, o.2.key = x.keySlot then t else t.freeKey x.keySlot).freeCtx ctx.val) r (fun c => { c.finish 0 false with
          halt := true })))) ∧
    (∀ k, (∀ e ∈ s.hub.filter, e.key ≠ k) → s.freeKey k = State.event (State.raiseCeiling { s with
        hub := { s.hub with keySlots := Assoc.put s.hub.keySlots k ({
          st := if 0xFFFFF ≤ (s.hub.keySlot k).gen + 1 then .retired else .free, gen := (s.hub.keySlot k).gen + 1
          ceiling := (s.hub.keySlot k).ceiling } : KeySlot) }
        tents := Assoc.mapVals (fun _ (t : Tent) => t.dropKey k) s.tents } k)
      [BitVec.ofNat 64 (3 * 2 ^ 56), BitVec.ofNat 64 (k + ((s.hub.keySlot k).gen + 1) * 2 ^ 32)]) ∧
    (Spec.dueAdmin s ref 0x83 c → ∀ q ctx, q = Spec.field c 1 63 52 → ctx = Spec.field c 1 51 42 →
      exec (.queueCreate ref) s = .next (
        if q ≠ 0 ∧ s.queue? q = none ∧ (bitN (cmdWord c.words 1) 41 = true ↔ q < 16) ∧ (q < 16 ∨ s.ctxLive ctx = true ∧
            (s.hub.queues.filter (fun k => !k.2.admin && k.2.ctx == ctx)).length < 256) then
          (s.setQueue q { admin := decide (q < 16), ctx := if q < 16 then 0 else ctx, log2 := Spec.field c 1 40 36
                          ring := ⟨bitN (cmdWord c.words 2) 63, Spec.field c 2 51 12 * 4096⟩
                          cq := ⟨bitN (cmdWord c.words 3) 63, Spec.field c 3 51 12 * 4096⟩
                          shadow := some ⟨bitN (cmdWord c.words 4) 63, Spec.field c 4 51 3 * 8⟩ }).setCmd ref (Spec.finished c 0 false)
        else s.setCmd ref (Spec.malformed c))) ∧
    (Spec.dueAdmin s ref 0x84 c → ∀ q, q = Spec.field c 1 63 52 →
      (q = 0 ∨ s.queue? q = none → exec (.queueDestroy ref) s = .next (s.setCmd ref (Spec.malformed c))) ∧
      (∀ k t, q ≠ 0 → s.queue? q = some k → t = ((s.setQueue q { k with destroying := true, tail := none }).forgetSlots q).setCmd ref { c with st := .running } →
        exec (.queueDestroy ref) s = .next (
          if k.fetched ≠ [] ∨ (if q = ref.queue.val then 1 else 0) < (t.cmdsOf q).length then t
          else (if q = ref.queue.val then t else t.modHub (fun h => { h with queues := Assoc.del h.queues q })).finishCmd ref 0 false))) ∧
    (Spec.dueAdmin s ref 0x85 c → ∀ q, q = Spec.field c 1 63 52 → exec (.queueResume ref) s = .next (match s.queue? q with
      | none => s.setCmd ref (Spec.malformed c)
      | some k => if q = 0 ∧ s.hub.adm.cfg.getLsbD 8 = false then s.setCmd ref (Spec.finished c 0 false)
          else ((s.setQueue q { k with halted := false }).fetchQueue q).finishCmd ref 0 false))

/-- R62, R69, R163, R174, R196, R200, R284, R332, R341, R384: what the loss of a context leaves. A fault loses a Live context alone: it is recorded,
reported and counted, and the loss steps run. Each of its queues has nothing fetched and stops; what was fetched completes with CONTEXT_LOST, but
for a QUERY, which first writes its record. On each ring none of its troupes, loads, allocations, scratchpad atomics and DMA.Q copies is left;
requests on global memory go on. A DMA.Q copy that has not started signals its turnstile with the error bit. Copies that wait for an engine are
dropped, those on an engine and the drain of a FLIP go on. The turnstiles that it owns or can signal get the error bit (here without mirrors and
remote handles). A running DISPATCH, COLLECTIVE or waiting COPY completes with CONTEXT_LOST, the DISPATCH whose troupe faulted with the fault's
code; other commands go on. Its reduction ells and replays are dropped. A teardown also drops its windows, its references on objects, its
handle-table entries and its pools. -/
def Obligations.ContextLoss : Prop :=
  (∀ (s : State) (ctx : Nat) (f : FaultRec) (blame : Option CmdRef) (keep : Bool) (x : Ctx), s.ctx? ctx = some x →
    (x.st ≠ .live → s.loseCtx ctx (some f) blame keep = s) ∧
    (x.st = .live → s.loseCtx ctx (some f) blame keep = State.lossSteps (State.event { s.setCtx ctx { x with st := .lost, fault := some f } with
      resil := { s.resil with loss := (s.resil.loss.headD 0 + 1) :: s.resil.loss.tail } } f.words) ctx f.code blame keep)) ∧
  (∀ (s : State) (q : Nat) (k : Queue), s.queue? q = some k → q < 4096 → k.fetched.Pairwise (fun a b => a.count ≠ b.count) →
    (s.dropFetched q).queue? q = some { k with fetched := [], tail := none, stopped := true } ∧
    ∀ c ∈ k.fetched, ∃ m, (s.dropFetched q).cmd? ⟨Fin.ofNat 4096 q, c.count⟩ = some m ∧ m.words = c.words ∧ m.ctx = some k.ctx ∧
      m.handle = (cmdTurn c.words).1 ∧ m.inc = (cmdTurn c.words).2 ∧
      if cmdOp c.words = 8 then m.st = .accepted else m.st = .finished ∧ m.status = 1 ∧ m.err = true) ∧
  (∀ (s : State) (ring ctx : Nat) (keep : Bool) (r : Ring), Assoc.sortedFrom 0 (s.ring ring).booths = true →
    r = (s.stopTroupes ring ctx keep).ring ring →
    (∀ p ∈ r.allTroupes, p.2.ctx ≠ ctx) ∧ (∀ l ∈ r.loads, l.2.ctx ≠ ctx) ∧ (∀ a ∈ r.allocs, a.2.ctx ≠ ctx) ∧
    (∀ c ∈ r.satoms, c.ctx ≠ ctx) ∧ (∀ d ∈ r.dmaq, d.ctx ≠ ctx) ∧ ∀ c ∈ r.combiner, c.ctx = ctx → c.global = true) ∧
  (∀ (s : State) (d : DmaReq) (e : Handle), s.handle? d.ctx d.handle = some e → e.signal = true → e.remote = false →
    s.dmaLost d = s.signalTurn e.turn false d.inc true none) ∧
  (∀ (s : State) (ctx n : Nat), ((s.dropQueued ctx).tent n).engines = (s.tent n).engines ∧
    ((s.dropQueued ctx).tent n).copyq = (s.tent n).copyq.filter (fun c => decide (c.ctx ≠ ctx ∨ c.swing ≠ none)) ∧
    ∀ q ∈ ((s.dropQueued ctx).tent n).statq, q.ctx ≠ ctx) ∧
  (∀ (s : State) (ctx : Nat) (x : Ctx), s.ctx? ctx = some x → Assoc.sortedFrom 0 s.hub.turns = true → (∀ p ∈ s.hub.turns, p.2.mirror = none) →
    (∀ h ∈ x.handles, h.2.remote = false) →
    (∀ n u, Assoc.find? s.hub.turns n = some u → Assoc.find? (s.errorTurns ctx).hub.turns n =
      some (if u.owner = ctx ∨ ∃ h ∈ x.handles, h.2.signal = true ∧ h.2.turn = n then { u with err := true } else u)) ∧
    (s.errorTurns ctx).hub.objs = s.hub.objs ∧ (s.errorTurns ctx).hub.windows = s.hub.windows ∧ (s.errorTurns ctx).ctx? ctx = some x) ∧
  (∀ (s t : State) (ctx code : Nat) (blame : Option CmdRef) (keep : Bool) (x : Ctx), t = s.lossSteps ctx code blame keep → s.ctx? ctx = some x →
    s.rings = [] → (∀ q ∈ s.hub.queues, q.2.admin = true ∨ q.2.ctx ≠ ctx) → (∀ p ∈ s.hub.turns, p.2.mirror = none) →
    (∀ h ∈ x.handles, h.2.remote = false) → Assoc.sortedFrom 0 s.hub.cmds = true → (∀ p ∈ s.hub.cmds, cmdKey (refOfKey p.1) = p.1) →
    ∀ ref c waits, s.cmd? ref = some c → c.ctx = some ctx → c.st = .running →
      (waits ↔ ∃ p ∈ s.tents, ∃ o ∈ p.2.copyq, o.ctx = ctx ∧ o.swing = none ∧ o.cmd = ref) →
      (cmdOp c.words = 1 → ¬waits → t.cmd? ref = some (Spec.finished c (if blame = some ref then code else 1) true)) ∧
      (cmdOp c.words = 3 → t.cmd? ref = some (Spec.finished c 1 true)) ∧
      (cmdOp c.words = 2 → waits → t.cmd? ref = some (Spec.finished c 1 true)) ∧
      (cmdOp c.words ∉ [1, 3, 4] → ¬waits → t.cmd? ref = some c)) ∧
  (∀ (s : State) (ctx code : Nat) (blame : Option CmdRef) (keep : Bool),
    (∀ p ∈ (s.lossSteps ctx code blame keep).tents, ∀ f ∈ p.2.frames, ∀ r, f.2.kind = .red r → r.ctx ≠ ctx) ∧
    ∀ r ∈ (s.lossSteps ctx code blame keep).hub.replays, r.1 / 2 ≠ ctx) ∧
  ∀ (s t : State) (n : Nat) (x : Ctx), s.ctx? n = some x → Assoc.sortedFrom 0 s.hub.windows = true → t = s.dropHoldings n →
    t.ctx? n = some { x with handles := [], pools := [] } ∧ (∀ w ∈ t.hub.windows, w.2.ctx ≠ n) ∧
    (∀ o y, Assoc.find? t.hub.objs o = some y → n ∉ y.mappings ∧ (y.ownMapping = true → y.ctx ≠ n)) ∧
    ∀ o y z, Assoc.find? s.hub.objs o = some y → Assoc.find? t.hub.objs o = some z → z.handles = y.handles

/-- R321, R335 to R337, R342: the admin commands over turnstiles. TURN_CREATE makes a turnstile with its value, its owner's handle with both
rights, and its mirror, written once. TURN_GRANT fills an empty handle-table entry; TURN_EXPORT adds or removes an export, and HANDLE_RELEASE
empties an entry: after these, turnstiles that nothing names are freed and waits that have ended go on. Each is malformed where it may not act. -/
def Obligations.TurnstileCommands : Prop :=
  ∀ (ref : CmdRef) (s : State) (c : Cmd),
    (Spec.dueAdmin s ref 0x86 c → ∀ n owner handle x, n = Spec.field c 1 63 51 → owner = Spec.field c 1 50 41 → handle = Spec.field c 1 8 0 →
      s.ctx? owner = some x → ∀ (t : Turn), t = { owner, count := c.words.getD 2 0
                                                  mirror := if bitN (cmdWord c.words 3) 63 then
                                                    some ⟨bitN (cmdWord c.words 3) 62, Spec.field c 3 51 4 * 16⟩ else none
                                                  vector := Spec.field c 4 11 0 } →
      exec (.turnCreate ref) s = .next (
        if x.st = .live ∧ Assoc.find? s.hub.turns n = none ∧ Assoc.find? x.handles handle = none then
          (((s.setCtx owner { x with handles := Assoc.put x.handles handle { remote := false, wait := true, signal := true, turn := n } }).modHub
            (fun h => { h with turns := Assoc.put h.turns n t })).mirror t true (some ref)).finishCmd ref 0 false
        else s.setCmd ref (Spec.malformed c))) ∧
    (Spec.dueAdmin s ref 0x87 c → ∀ n handle w x, n = Spec.field c 1 63 54 → handle = Spec.field c 1 8 0 → w = cmdWord c.words 2 →
      s.ctx? n = some x → exec (.turnGrant ref) s = .next (
        if x.st = .live ∧ Assoc.find? x.handles handle = none ∧ (bitN w 63 = true → bitN w 62 = false) ∧
            (bitN w 63 = false → Assoc.find? s.hub.turns (bits w 12 0) ≠ none) then
          (s.setCtx n { x with handles := Assoc.put x.handles handle { remote := bitN w 63, wait := bitN w 62, signal := bitN w 61
                                                                       turn := bits w 12 0
                                                                       dev := if bitN w 63 then bits w 24 13 else 0 } }).setCmd ref
            (Spec.finished c 0 false)
        else s.setCmd ref (Spec.malformed c))) ∧
    (Spec.dueAdmin s ref 0x88 c → ∀ n target t, n = Spec.field c 1 63 51 →
      target = (if bitN (cmdWord c.words 1) 12 then none else some (Spec.field c 1 11 0)) → Assoc.find? s.hub.turns n = some t →
      (bitN (cmdWord c.words 2) 0 = true → exec (.turnExportAdd ref) s = .next (((s.modHub (fun h => { h with turns := Assoc.put h.turns n { t with
        exports := if target ∈ t.exports then t.exports else t.exports ++ [target] } })).freeTurns.wake).finishCmd ref 0 false)) ∧
      (bitN (cmdWord c.words 2) 0 = false → exec (.turnExportRemove ref) s = .next (((s.modHub (fun h => { h with
        turns := Assoc.put h.turns n { t with exports := t.exports.filter (fun x => x != target) } })).freeTurns.wake).finishCmd ref 0 false))) ∧
    (Spec.dueAdmin s ref 0x88 c → Assoc.find? s.hub.turns (Spec.field c 1 63 51) = none →
      exec (if bitN (cmdWord c.words 2) 0 then .turnExportAdd ref else .turnExportRemove ref) s = .next (s.setCmd ref (Spec.malformed c))) ∧
    (Spec.dueAdmin s ref 0x89 c → ∀ n handle x, n = Spec.field c 1 63 54 → handle = Spec.field c 1 8 0 → s.ctx? n = some x →
      exec (.handleRelease ref) s = .next (if Assoc.find? x.handles handle = none then s.setCmd ref (Spec.malformed c) else
        ((s.setCtx n { x with handles := Assoc.del x.handles handle }).freeTurns.wake).finishCmd ref 0 false))

/-- R281, R309, R321, R333, R338 to R340, R357: the admin commands over objects, pools, translations and windows, and the reclaim of an object
whose count is 0 once everything of the contexts that mapped it has retired. An object is whole granules of device memory under a Live key slot.
The first grant of a pool sets its arena. A host window changes its slot, range or enable only when no host copy of its old range is left: while
one is, the copies are snooped out and the command waits; a change of its read-only bit alone is made at once. Each is malformed where it may not
act. -/
def Obligations.ObjectsAndWindows : Prop :=
  ∀ (ref : CmdRef) (s : State) (c : Cmd) (done bad : State → State), done = (fun t => t.setCmd ref (Spec.finished c 0 false)) →
    bad = (fun t => t.setCmd ref (Spec.malformed c)) →
    (Spec.dueAdmin s ref 0x8A c → ∀ n base len ctx key, n = Spec.field c 1 63 44 → base = Spec.field c 2 41 0 → len = cmdWord c.words 3 →
      ctx = Spec.field c 4 63 54 → key = Spec.field c 4 11 0 → exec (.objCreate ref) s = .next (
        if n ≤ 0x7FFFF ∧ Assoc.find? s.hub.objs n = none ∧ base % 65536 = 0 ∧ len % 65536 = 0 ∧ 0 < len ∧ base + len ≤ Config.dpaLimit ∧
            (s.hub.keySlot key).st = .live ∧ s.ctx? ctx ≠ none then
          done (s.modHub (fun h => { h with objs := Assoc.put h.objs n { runs := [(base / 65536, len / 65536)], key, ctx } }))
        else bad s)) ∧
    (Spec.dueAdmin s ref 0x8B c → ∀ n ctx o, n = Spec.field c 1 63 44 → ctx = Spec.field c 3 63 54 → Assoc.find? s.hub.objs n = some o →
      0 < o.handles + o.mappings.length + o.windows →
      (bitN (cmdWord c.words 2) 8 = true → Spec.field c 2 1 0 = 0 →
        exec (.objRefAdd ref) s = .next (done (s.putObj n { o with handles := o.handles + 1 }))) ∧
      (bitN (cmdWord c.words 2) 8 = true → Spec.field c 2 1 0 ≠ 0 → s.ctxLive ctx = true → ctx ∉ o.mappings → ctx ∉ o.mapped →
        exec (.objRefAdd ref) s = .next (done (s.putObj n { o with mappings := o.mappings ++ [ctx], mapped := o.mapped ++ [ctx] }))) ∧
      (bitN (cmdWord c.words 2) 8 = false → Spec.field c 2 1 0 = 0 → exec (.objRefDrop ref) s = .next (if o.handles = 0 then bad s else
        done (s.putObj n { o with handles := o.handles - 1, ownHandle := o.ownHandle && decide (o.handles ≠ 1) }))) ∧
      (bitN (cmdWord c.words 2) 8 = false → Spec.field c 2 1 0 ≠ 0 → exec (.objRefDrop ref) s = .next (if ctx ∈ o.mappings then
        done (s.putObj n { o with mappings := o.mappings.filter (fun x => x != ctx) }) else bad s))) ∧
    (∀ (obj : ObjId) (o : Obj) (d : Nat), Assoc.find? s.hub.objs obj.val = some o → o.dropped = some d → o.count = 0 → o.alloc = none →
      o.ptes = [] → (s.retired o d = false → exec (.objectReclaim obj) s = .next s) ∧
      (s.retired o d = true → exec (.objectReclaim obj) s = .next (State.settleKey ((s.modHub (fun h => { h with
        objs := Assoc.del h.objs obj.val })).event [BitVec.ofNat 64 (2 * 2 ^ 56), BitVec.ofNat 64 (0x3FF * 2 ^ 54 + obj.val)]) o.key))) ∧
    (Spec.dueAdmin s ref 0x8C c → ∀ n pool base count x p, n = Spec.field c 1 63 54 → pool = Spec.field c 1 3 0 → base = Spec.field c 2 41 0 →
      count = cmdWord c.words 3 → s.ctx? n = some x → Assoc.find? x.pools pool = some p → exec (.poolGrant ref) s = .next (
        if x.st = .live ∧ base % 65536 = 0 ∧ 0 < count ∧ base + 65536 * count ≤ Config.dpaLimit then
          done (s.setCtx n { x with pools := Assoc.put x.pools pool { p with free := Runs.add p.free (base / 65536, count) } })
        else bad s)) ∧
    (Spec.dueAdmin s ref 0x8C c → ∀ n pool base count arena len x, n = Spec.field c 1 63 54 → pool = Spec.field c 1 3 0 → base = Spec.field c 2 41 0 →
      count = cmdWord c.words 3 → arena = Spec.field c 4 56 0 → len = cmdWord c.words 5 → s.ctx? n = some x → Assoc.find? x.pools pool = none →
      exec (.poolGrant ref) s = .next (
        if x.st = .live ∧ base % 65536 = 0 ∧ 0 < count ∧ base + 65536 * count ≤ Config.dpaLimit ∧ arena % 65536 = 0 ∧ len % 65536 = 0 ∧ 0 < len ∧
            arena + len ≤ 2 ^ 57 then
          done (s.setCtx n { x with pools := Assoc.put x.pools pool { base := arena, len, free := Runs.add [] (base / 65536, count) } })
        else bad s)) ∧
    (Spec.dueAdmin s ref 0x8D c → ∀ n pool x p, n = Spec.field c 1 63 54 → pool = Spec.field c 1 3 0 → s.ctx? n = some x →
      Assoc.find? x.pools pool = some p → exec (.poolReclaim ref) s = .next ((s.setCtx n { x with
        pools := Assoc.put x.pools pool { p with free := [] } }).setCmd ref
          { Spec.finished c 0 false with partMap := BitVec.ofNat 64 (Runs.total p.free) })) ∧
    (Spec.dueAdmin s ref 0x8E c → ∀ n base len, n = Spec.field c 1 63 54 → s.ctx? n ≠ none →
      base = (if cmdWord c.words 3 = 0 then 0 else Spec.field c 2 56 0) → len = (if cmdWord c.words 3 = 0 then 2 ^ 57 else cmdWord c.words 3) →
      exec (.tlbInvalidate ref) s = .next (done { s with tents := Assoc.mapVals (fun _ (t : Tent) => { t with
        tlb := t.tlb.filter (fun e => !(e.ctx == n && decide (e.base < base + len) && decide (base < e.base + e.size))) }) s.tents })) ∧
    (Spec.dueAdmin s ref 0x8F c → ∀ ctx n base len w s1, ctx = Spec.field c 1 63 54 → n = Spec.field c 1 9 0 → base = Spec.field c 2 56 0 →
      len = cmdWord c.words 3 → w = cmdWord c.words 4 →
      (s.ctxLive ctx = false ∨ Assoc.find? s.hub.windows n ≠ none ∨ base % 65536 ≠ 0 ∨ len % 65536 ≠ 0 ∨ len = 0 ∨ 2 ^ 40 < len ∨
        2 ^ 57 < base + len → exec (.windowCreate ref) s = .next (bad s)) ∧
      (s.ctxLive ctx = true → Assoc.find? s.hub.windows n = none → base % 65536 = 0 → len % 65536 = 0 → 0 < len → len ≤ 2 ^ 40 →
        base + len ≤ 2 ^ 57 → ∀ (covered objs : List Nat), s.objsOver ctx base (len / 65536) = (s1, some covered) →
        objs = covered.filter (fun o => ((Assoc.find? s1.hub.objs o).map (·.count)).getD 0 ≠ 0) →
        ∀ (v : Window), v = { ctx, base, len, read := bitN w 2, write := bitN w 1, atomic := bitN w 0
                              source := if bitN w 16 then none else some (bits w 27 16), objs } →
        exec (.windowCreate ref) s = .next ((objs.foldl (fun (s : State) o => s.modObj o (fun x => { x with windows := x.windows + 1 }))
          (s1.modHub (fun h => { h with windows := Assoc.put h.windows n v }))).finishCmd ref 0 false))) ∧
    (Spec.dueAdmin s ref 0x90 c → ∀ n, n = Spec.field c 1 9 0 → exec (.windowDestroy ref) s = .next (match Assoc.find? s.hub.windows n with
      | none => bad s
      | some w => (w.objs.foldl (fun (s : State) o => s.modObj o (fun x => { x with windows := x.windows - 1 })) (s.modHub (fun h => { h with
          windows := Assoc.del h.windows n }))).finishCmd ref 0 false)) ∧
    (Spec.dueAdmin s ref 0x91 c → ∀ n (w : HostWindow), n = Spec.field c 1 5 0 → bitN (cmdWord c.words 1) 63 = true →
      w = { base := Spec.field c 2 41 0, len := cmdWord c.words 3, key := Spec.field c 4 11 0, readOnly := bitN (cmdWord c.words 4) 16 } →
      (w.base % 2097152 ≠ 0 ∨ w.len % 2097152 ≠ 0 ∨ w.len = 0 ∨ Config.dpaLimit < w.base + w.len ∨
        (∃ x ∈ s.hub.hostWindows, x.1 ≠ n ∧ x.2.base < w.base + w.len ∧ w.base < x.2.base + x.2.len) →
        exec (.hostWindowSet ref) s = .next (bad s)) ∧
      (s.hub.hostWindowOk n w = true → (∀ a, Assoc.find? s.hub.hostWindows n = some a → (∀ e ∈ s.hub.filter,
          64 * e.grain < a.base ∨ a.base + a.len ≤ 64 * e.grain) ∨ (a.base = w.base ∧ a.len = w.len ∧ a.key = w.key)) →
        exec (.hostWindowSet ref) s = .next (done (s.modHub (fun h => { h with hostWindows := Assoc.put h.hostWindows n w })))) ∧
      (∀ a inside, s.hub.hostWindowOk n w = true → Assoc.find? s.hub.hostWindows n = some a →
        a.base ≠ w.base ∨ a.len ≠ w.len ∨ a.key ≠ w.key →
        inside = s.hub.filter.filter (fun e => decide (a.base ≤ 64 * e.grain) && decide (64 * e.grain < a.base + a.len)) → inside ≠ [] →
        exec (.hostWindowSet ref) s = .next (inside.foldl (fun (u : State) e => u.snoop e.grain true) (s.setCmd ref { c with st := .running })))) ∧
    (Spec.dueAdmin s ref 0x91 c → ∀ n, n = Spec.field c 1 5 0 → bitN (cmdWord c.words 1) 63 = false →
      ((∀ a, Assoc.find? s.hub.hostWindows n = some a → ∀ e ∈ s.hub.filter, 64 * e.grain < a.base ∨ a.base + a.len ≤ 64 * e.grain) →
        exec (.hostWindowSet ref) s = .next (done (s.modHub (fun h => { h with hostWindows := Assoc.del h.hostWindows n })))) ∧
      (∀ a inside, Assoc.find? s.hub.hostWindows n = some a →
        inside = s.hub.filter.filter (fun e => decide (a.base ≤ 64 * e.grain) && decide (64 * e.grain < a.base + a.len)) → inside ≠ [] →
        exec (.hostWindowSet ref) s = .next (inside.foldl (fun (u : State) e => u.snoop e.grain true) (s.setCmd ref { c with st := .running }))))

/-- R189, R234, R308, R309, R311, R344, R351, R354, R355, R361: what comes from the host's ports. A DPA beyond the 2,560 GiB of the decoder ends
the run (the manual names nothing there); while CXL is not enabled nothing arrives. An access behind an earlier one to its grain waits. Outside
every window a read is poisoned and a write dropped, as is a write to a read-only window; each is counted. Inside, the access goes to the bank of
its grain as any other agent's, under the window's slot and generation; the host's write of a whole grain that it holds Exclusive is the
write-back of its copy, and goes before what waits for that copy. A read that has been served gives its data, or poison, and enters the grain
into the filter unless the host keeps no copy; a write gives Cmp and drops or enters it. With the filter full the oldest entry is snooped first,
and a read of a grain that is snooped waits. The host's answer to a snoop writes modified data back under the entry's own key, behind older data
of the grain, and into a fetch of the ell that is in progress. RdCurr data go to the oldest that asked for the grain, a completed write reaches
host memory. -/
def Obligations.HostAccesses : Prop :=
  (∀ dpa want tag bytes mask keep s, Config.dpaLimit ≤ dpa → exec (.hostRead dpa want tag) s = .fault .noSuchAddress ∧
    exec (.hostWrite dpa bytes mask keep) s = .fault .noSuchAddress) ∧
  (∀ dpa want tag bytes mask keep s, dpa < Config.dpaLimit → s.cxlOn = false → exec (.hostRead dpa want tag) s = .next s ∧
    exec (.hostWrite dpa bytes mask keep) s = .next s) ∧
  (∀ dpa want tag bytes mask keep (s : State), dpa < Config.dpaLimit → s.cxlOn = true →
    ∀ r w, r = .read dpa want tag → w = .write dpa ((List.range 64).filterMap (fun i => if mask.getD i false then (bytes[i]?).map (i, ·) else none)) keep →
    ((∃ x ∈ s.hub.hostReqs, x.grain = dpa / 64) →
      exec (.hostRead dpa want tag) s = .next (s.modHub (fun h => { h with hostReqs := h.hostReqs ++ [r] })) ∧
      exec (.hostWrite dpa bytes mask keep) s = .next (s.modHub (fun h => { h with hostReqs := h.hostReqs ++ [w] }))) ∧
    ((∀ x ∈ s.hub.hostReqs, x.grain ≠ dpa / 64) →
      exec (.hostRead dpa want tag) s = .next (if (s.serveHost r).2 then (s.serveHost r).1
        else (s.serveHost r).1.modHub (fun h => { h with hostReqs := h.hostReqs ++ [r] })) ∧
      exec (.hostWrite dpa bytes mask keep) s = .next (if (s.serveHost w).2 then (s.serveHost w).1
        else (s.serveHost w).1.modHub (fun h => { h with hostReqs := h.hostReqs ++ [w] })))) ∧
  (∀ (s : State) dpa want tag bytes keep, (∀ w ∈ s.hub.hostWindows, dpa < w.2.base ∨ w.2.base + w.2.len ≤ dpa) →
    ∀ t, t = s.modHub (fun h => { h with hostRefused := h.hostRefused + 1 }) →
    s.serveHost (.read dpa want tag) = (t.emit (.memData tag dpa (List.replicate 64 0) true), true) ∧
    s.serveHost (.write dpa bytes keep) = (t.emit (.memCmp dpa), true)) ∧
  (∀ (s : State) dpa w want tag bytes keep, s.hub.hostWindow? dpa = some w → ∀ g gen room, g = dpa / 64 → gen = s.keyGen w.key →
    (room ↔ s.hub.filter.length + s.filterComing < 1048576 ∨ (s.hub.entry? g ≠ none ∧ ∀ x ∈ s.hub.snoops, x.grain ≠ g)) →
    (want = .noCopy ∨ room → (∀ x ∈ s.hub.snoops, x.grain ≠ g) → s.serveHost (.read dpa want tag) =
      (s.arriveWith State.serveAgent (agentReq w.key gen g (.read (.mem dpa want tag w.key gen))), true)) ∧
    (w.readOnly = true → s.serveHost (.write dpa bytes keep) =
      ((s.modHub (fun h => { h with hostRefused := h.hostRefused + 1 })).emit (.memCmp dpa), true)) ∧
    (w.readOnly = false → keep = false ∨ room →
      ((∀ e, s.hub.entry? g = some e → e.exclusive = false ∨ wholeGrain bytes = false) → s.serveHost (.write dpa bytes keep) =
        (s.homeWrite w.key gen g bytes (.mem dpa keep w.key gen), true)) ∧
      (∀ e, s.hub.entry? g = some e → e.exclusive = true → wholeGrain bytes = true → Assoc.find? s.hub.drainMap (g / 16) = none →
        (s.hub.backPending g = true → s.serveHost (.write dpa bytes keep) = (s, false)) ∧
        ∀ s1 ok, s.hub.backPending g = false → s.putBack w.key gen g bytes = (s1, ok) →
          s.serveHost (.write dpa bytes keep) = (if ok then s1.performed (.mem dpa keep w.key gen) else s1, ok)))) ∧
  (∀ (s : State) dpa want tag key gen g (x : GrainRead), s.answerRead (.mem dpa want tag key gen) g x =
    State.emit (if want = .noCopy then s else s.modHub (fun h => h.admitReq ⟨g, key, gen, decide (want = .exclusive)⟩))
      (.memData tag dpa x.bytes (match x with | .bad _ => true | _ => false))) ∧
  (∀ (s : State) dpa keep key gen bad, s.performed (.mem dpa keep key gen) bad =
    (s.modHub (fun h => if keep then h.admitReq ⟨dpa / 64, key, gen, false⟩ else h.dropEntry (dpa / 64))).emit (.memCmp dpa)) ∧
  (∀ (s : State) dpa w tag bytes e rest, s.hub.hostWindow? dpa = some w → w.readOnly = false → s.hub.entry? (dpa / 64) = none →
    s.hub.filter = e :: rest → 1048576 ≤ s.hub.filter.length + s.filterComing →
    s.serveHost (.read dpa .shared tag) = (s.snoop e.grain true, false) ∧ s.serveHost (.read dpa .exclusive tag) = (s.snoop e.grain true, false) ∧
    s.serveHost (.write dpa bytes true) = (s.snoop e.grain true, false)) ∧
  (∀ (s : State) dpa w want tag, s.hub.hostWindow? dpa = some w → s.hub.filter.length + s.filterComing < 1048576 →
    (∃ x ∈ s.hub.snoops, x.grain = dpa / 64) → s.serveHost (.read dpa want tag) = (s, false)) ∧
  (∀ (s : State) key gen g bs q, q = agentReq key gen g (.write .host bs) → (s.tent (homeTent q.ell)).fetching q.ell = true →
    isHostEll q.ell = true ∨ s.memoryFailed = false →
    s.putBack key gen g bs = (s.modTent (homeTent q.ell) (fun t => { t with miss := Assoc.mapVals (fun _ (m : MissReg) =>
      if m.ell = q.ell then { m with copy := Spec.written m.copy key gen q.grain bs } else m) t.miss }), true)) ∧
  (∀ grain dirty s, s.hub.snoops.all (fun x => x.grain != grain) = true → exec (.bisnpResponse grain dirty) s = .next s) ∧
  (∀ grain dirty (s : State) x e, s.hub.snoops.find? (fun x => x.grain == grain) = some x → s.hub.entry? grain = some e →
    ∀ s1, s1 = s.modHub (fun h => { h with snoops := h.snoops.filter (fun y => y.grain != grain) }) →
    ∀ s2, (dirty = none ∧ s2 = s1 ∨ ∃ b, dirty = some b ∧
        (s1.hub.backPending grain = false ∧ s1.putBack e.key e.gen grain ((List.range 64).zip b) = (s2, true) ∨
          ∃ u, (s1.hub.backPending grain = true ∧ u = s1 ∨
              s1.hub.backPending grain = false ∧ s1.putBack e.key e.gen grain ((List.range 64).zip b) = (u, false)) ∧
            s2 = u.modHub (fun h => { h with hostWrites := h.hostWrites ++ [⟨grain, (List.range 64).zip b, .host, some (e.key, e.gen)⟩] }))) →
      exec (.bisnpResponse grain dirty) s = .next (State.snoopDone (s2.modHub (fun h => if x.inv then h.dropEntry grain
        else { h with filter := h.filter.map (fun y => if y = e then { y with exclusive := false } else y) })) grain)) ∧
  (∀ grain dirty (s : State) x, s.hub.snoops.find? (fun x => x.grain == grain) = some x → s.hub.entry? grain = none →
    exec (.bisnpResponse grain dirty) s =
      .next (State.snoopDone (s.modHub (fun h => { h with snoops := h.snoops.filter (fun y => y.grain != grain) })) grain)) ∧
  (∀ g (bytes : List Byte) poison (s : State), bytes.length = 64 →
    (s.hub.hostReads.find? (fun x => x.grain == hostGrain + g) = none → exec (.cxlCacheCompletion (.data g bytes poison)) s = .next s) ∧
    ∀ x s1, s.hub.hostReads.find? (fun x => x.grain == hostGrain + g) = some x →
      s1 = s.modHub (fun h => { h with hostReads := h.hostReads.erase x, hostMem := Mem.writeBytes h.hostMem (64 * g) bytes }) →
      (x.who = none → exec (.cxlCacheCompletion (.data g bytes poison)) s = .next (s1.hostGrainReturn (hostGrain + g) bytes poison).retryFetch) ∧
      ∀ who, x.who = some who → exec (.cxlCacheCompletion (.data g bytes poison)) s =
        .next (s1.putAnswer who (hostGrain + g) (if poison then .bad 2 else .ok bytes)).retryFetch) ∧
  (∀ g (s : State), (s.hub.hostWrites.find? (fun w => w.grain == hostGrain + g && w.own.isNone) = none →
      exec (.cxlCacheCompletion (.written g)) s = .next s) ∧
    (∀ w, s.hub.hostWrites.find? (fun w => w.grain == hostGrain + g && w.own.isNone) = some w → exec (.cxlCacheCompletion (.written g)) s =
      .next ((State.performedBy (s.modHub (fun h => { h with
        hostWrites := h.hostWrites.erase w
        hostMem := w.bytes.foldl (fun m b => Mem.write m (64 * g + b.1) b.2) h.hostMem })) w.who).sendAcks))) ∧
  ∀ grain s, exec (.hostSnoop grain) s = .next (if s.cxlOn then { s with out := s.out ++ [.snoopNoCopy grain] } else s)

/-- R356: the host has not answered a BISnp in time: a device-fatal fault, which counts, stops every context and signals viral, with the cause
and the grain in the dictionary's record of it. Of a grain with no BISnp outstanding nothing happens. -/
def Obligations.SnoopTimeout : Prop :=
  (∀ grain (s : State), (∃ x ∈ s.hub.snoops, x.grain = grain) → ∀ t, t = { s with
      resil := { s.resil with fatalCount := s.resil.fatalCount + 1, fatalCause := 2, fatalDetail := BitVec.ofNat 64 (64 * grain), viral := true }
      dict := { s.dict with unsaved := true }, out := s.out ++ [.viral] } →
    exec (.bisnpTimeout grain) s = .next ((s.hub.ctxs.map (·.1)).foldl (fun u c => u.loseCtx c none none false) t)) ∧
  ∀ grain (s : State), (∀ x ∈ s.hub.snoops, x.grain ≠ grain) → exec (.bisnpTimeout grain) s = .next s

/-- R262, R267, R268, R270, R271, R274, R305: flits. An output that is Up sends, in this order: the RETRY_REQ that is due; flits to be sent
again; only IDLE while 512 flits are unacknowledged; the rest of a packet begun; a management packet; a response; then collective and request
channels by deficit round robin (weights times 17 flits: the model's choice, log entry 41); IDLE. A packet starts only with credits for all its
flits. Every flit carries the last SEQ received in order and returns credits. An input discards and counts bad and unknown flits; a good flit
acknowledges; RETRY_REQ has everything unacknowledged sent again; DATA in order is joined to the packet of its channel, and a whole packet is
delivered, kept for forwarding, or discarded and counted. -/
def Obligations.FlitsOnLinks : Prop :=
  (∀ (link : LinkId) (s : State) (k : Link) (l : Nat), l = link.val → k = Assoc.get {} s.net.links l →
    (k.st ≠ .up → exec (.flitSend link) s = .next s) ∧
    (k.st = .up → k.retryDue = true → exec (.flitSend link) s = .next ((s.modLink l (fun k => { k with retryDue := false })).putFlit l
      { ftype := 2, seq := k.txSeq, ack := 0 })) ∧
    (k.st = .up → k.retryDue = false →
      (∀ f rest, k.resend = f :: rest → exec (.flitSend link) s = .next ((s.modLink l (fun k => { k with resend := rest })).putFlit l f)) ∧
      (k.resend = [] → 512 ≤ k.retry.length → exec (.flitSend link) s = .next (s.putFlit l { ftype := 0, seq := k.txSeq, ack := 0 })) ∧
      (∀ f rest f', k.resend = [] → k.retry.length < 512 → k.sending = f :: rest → f' = { f with seq := k.txSeq } →
        exec (.flitSend link) s = .next ((s.modLink l (fun k => { k with sending := rest, txSeq := k.txSeq + 1, retry := k.retry ++ [f'] })).putFlit
          l f')) ∧
      (∀ vc p ps f fs f', k.resend = [] → k.retry.length < 512 → k.sending = [] → (vc = 3 ∨ vc = 1 ∧ k.ready? 3 = none) →
        Assoc.get [] k.outq vc = p :: ps → flitCount p ≤ Assoc.get 0 k.credits vc → flitsOf p = f :: fs → f' = { f with seq := k.txSeq } →
        ∃ t, exec (.flitSend link) s = .next (State.putFlit t l f') ∧ Assoc.get {} t.net.links l = Link.letIn { k with
          outq := Assoc.put k.outq vc ps, credits := Assoc.put k.credits vc (Assoc.get 0 k.credits vc - flitCount p), sending := fs
          txSeq := k.txSeq + 1, retry := k.retry ++ [f'] } vc (Assoc.get [] k.waitq vc) ∧ (∀ m, m ≠ l →
            Assoc.get {} t.net.links m = Assoc.get {} s.net.links m) ∧
          { t with net := { t.net with links := s.net.links } } = s) ∧
      (∀ now vc p ps f fs f', k.resend = [] → k.retry.length < 512 → k.sending = [] → k.ready? 3 = none → k.ready? 1 = none → now = k.drrNext →
        now = 0 ∨ now = 2 →
        ((∃ q, k.ready? now = some q ∧ ((flitCount q : Int) ≤ Assoc.get 0 k.deficit now ∨ k.ready? (2 - now) = none)) ∧ vc = now ∨
          k.ready? (2 - now) ≠ none ∧ (∀ q, k.ready? now = some q → Assoc.get 0 k.deficit now < flitCount q) ∧ vc = 2 - now) →
        Assoc.get [] k.outq vc = p :: ps → flitsOf p = f :: fs → f' = { f with seq := k.txSeq } →
        ∃ t, exec (.flitSend link) s = .next (State.putFlit t l f') ∧
          (Assoc.get {} t.net.links l).outq = (Link.letIn { k with outq := Assoc.put k.outq vc ps } vc (Assoc.get [] k.waitq vc)).outq ∧
          (Assoc.get {} t.net.links l).sending = fs ∧ (Assoc.get {} t.net.links l).retry = k.retry ++ [f'] ∧
          (Assoc.get {} t.net.links l).drrNext = vc ∧ Assoc.get 0 (Assoc.get {} t.net.links l).deficit vc =
            Assoc.get 0 k.deficit vc - flitCount p + (if vc = now ∧ (flitCount p : Int) ≤ Assoc.get 0 k.deficit now then 0
              else ((17 * s.dictVal 0x5000 (if vc = 2 then 9 else 10) 1 : Nat) : Int))) ∧
      (k.resend = [] → k.retry.length < 512 → k.sending = [] → (∀ vc ∈ [0, 1, 2, 3], k.ready? vc = none) → k.drrNext = 0 ∨ k.drrNext = 2 →
        exec (.flitSend link) s = .next ((s.modLink l (fun _ => k)).putFlit l { ftype := 0, seq := k.txSeq, ack := 0 }))) ∧
    ∀ (f f' : Flit), f' = { f with ack := k.rxLast, cvc := BitVec.ofNat 2 k.giveCredits.2.1, credits := BitVec.ofNat 6 k.giveCredits.2.2 } →
      (s.putFlit l f).out = s.out ++ [.flit l { f' with crc := flitCrc f' }]) ∧
  (∀ (link : LinkId) (s : State) (f : Flit) (i : Instr) (k k1 k2 : Link) (l : Nat), l = link.val → k = Assoc.get {} s.net.links l →
    i = .dataFlit link f ∨ i = .idleFlit link f ∨ i = .retryReq link f →
    k1 = { k with counters := { k.counters with fecCorrected := bump k.counters.fecCorrected (flitCorrected f)
                                                uncorrectable := bump k.counters.uncorrectable (flitUncorrectable f) } } →
    k2 = Spec.acked k1 f →
    (k.st ≠ .up → exec i s = .next s) ∧
    (k.st = .up → (∃ c ∈ f.codewords, 15 < c.1) ∨ f.crc ≠ flitCrc f → exec i s = .next (s.modLink l (fun _ => { k1 with
      rxBad := true, retryDue := true, counters := { k1.counters with crcErrors := bump k1.counters.crcErrors 1 } }))) ∧
    (k.st = .up → (∀ c ∈ f.codewords, c.1 ≤ 15) → f.crc = flitCrc f →
      (2 < f.ftype.toNat → exec i s = .next (s.modLink l (fun _ => { k1 with
        counters := { k1.counters with unknown := bump k1.counters.unknown 1 } }))) ∧
      (f.ftype = 0 → exec i s = .next (s.modLink l (fun _ => k2))) ∧
      (f.ftype = 2 → exec i s = .next (s.modLink l (fun _ => if k2.retry = [] then k2 else { k2 with
        resend := k2.retry, retryCount := k2.retryCount + 1, counters := { k2.counters with retries := bump k2.counters.retries 1 } }))) ∧
      (f.ftype = 1 → k.retryDue = true ∨ (f.seq ≠ k.rxLast + 1 ∧ (k.rxBad = true ∨ (k.rxLast - f.seq).toNat < 2048)) →
        exec i s = .next (s.modLink l (fun _ => k2))) ∧
      (f.ftype = 1 → k.retryDue = false → f.seq ≠ k.rxLast + 1 → k.rxBad = false → 2048 ≤ (k.rxLast - f.seq).toNat →
        exec i s = .next (s.modLink l (fun _ => { k2 with rxBad := true, retryDue := true }))) ∧
      (f.ftype = 1 → k.retryDue = false → f.seq = k.rxLast + 1 → exec i s = .next ((s.modLink l (fun _ => { k2 with
        rxLast := f.seq, rxBad := false, counters := { k2.counters with
          bytesReceived := bumpAt k2.counters.bytesReceived f.vc.toNat f.len.toNat } })).joinFlit l f)))) ∧
  (∀ (s : State) (l : Nat) (f : Flit) (v : Nat) (mine : List Byte), v = f.vc.toNat → mine = f.bytes.take f.len.toNat →
    (f.sop = false → Assoc.find? (Assoc.get {} s.net.links l).partial_ v = none → s.joinFlit l f =
      s.malformedPacket.modLink l (fun k => k.freeBuffer v 1)) ∧
    (∀ bs n, (f.sop = true ∧ bs = [] ∧ n = 0) ∨ (f.sop = false ∧ Assoc.find? (Assoc.get {} s.net.links l).partial_ v = some (bs, n)) →
      (f.eop = false → s.joinFlit l f = s.modLink l (fun k => { k with partial_ := Assoc.put k.partial_ v (bs ++ mine, n + 1) })) ∧
      (f.eop = true → ∀ t, t = s.modLink l (fun k => { k with partial_ := Assoc.del k.partial_ v }) →
        (packetOf (bs ++ mine) = none → s.joinFlit l f = t.malformedPacket.modLink l (fun k => k.freeBuffer v (n + 1))) ∧
        (∀ p t1 b, packetOf (bs ++ mine) = some p → State.packetIn t l p = (t1, b) → s.joinFlit l f = (if b then t1 else
          t1.modLink l (fun k => k.freeBuffer v (n + 1))))))) ∧
  (∀ (s : State) (l : Nat) (p : Packet),
    (p.srcDom ≠ s.net.ownDom ∨ (Assoc.get {} s.net.links l).crossDomain = true → s.dictVal 0x5000 5 0 = 0 ∨ crossAllowed p = false →
      s.packetIn l p = (s.modNetCounters (fun c => { c with crossDomain := bump c.crossDomain 1 }), false)) ∧
    (p.srcDom = s.net.ownDom ∧ (Assoc.get {} s.net.links l).crossDomain = false ∨ s.dictVal 0x5000 5 0 ≠ 0 ∧ crossAllowed p = true →
      (s.hop p = .deliver → p.op ≠ 8 ∨ bits p.addr.toNat 7 0 = 2 ∨ bits p.addr.toNat 7 0 = 3 →
        s.packetIn l p = (s.modNet (fun n => { n with delivered := n.delivered ++ [p] }), false)) ∧
      (s.hop p = .deliver → p.op = 8 → 3 < bits p.addr.toNat 7 0 ∨ bits p.addr.toNat 7 0 = 0 → s.packetIn l p = (s.malformedPacket, false)) ∧
      ((∃ o, s.hop p = .out o) ∨ (∃ h, s.hop p = .undeliverable h) → s.packetIn l p = (s.modLink l (fun k => { k with
        inq := Assoc.put k.inq p.vc.toNat (Assoc.get [] k.inq p.vc.toNat ++ [p]) }), true)) ∧
      (s.hop p = .drop → s.packetIn l p = (s.modNetCounters (fun c => { c with excluded := bump c.excluded 1 }), false))))

/-- R267, R272, R273: packets as bytes and flits. A packet of a kind that R274 knows, on its virtual channel and with as many payload bytes as
its LEN tells (none of a READ), is read back from its bytes as it was sent. It occupies ceil((32 + payload) / 244) flits, of at most 244 bytes,
SOP in the first alone and EOP in the last alone, all on its virtual channel; their bytes, LEN of each, are those of the packet in order. A flit
is 256 bytes, from which its fields are read back. -/
def Obligations.PacketsInFlits : Prop :=
  ∀ (p : Packet),
    (vcOfOp p.op.toNat = some p.vc.toNat → p.len.toNat ≤ 4096 → p.payload.length = (if p.op = 0 then 0 else p.len.toNat) →
      packetOf (packetBytes p) = some p) ∧
    (flitsOf p).length = (32 + p.payload.length + 243) / 244 ∧
    (flitsOf p).flatMap (fun f => f.bytes.take f.len.toNat) = packetBytes p ∧
    ∀ n f, (flitsOf p)[n]? = some f → f.ftype = 1 ∧ f.vc = p.vc ∧ f.bytes.length ≤ 244 ∧ f.len.toNat = f.bytes.length ∧
      (f.sop = true ↔ n = 0) ∧ (f.eop = true ↔ n + 1 = (flitsOf p).length) ∧
      (flitImage f).length = 256 ∧ flitOf (flitImage f) = { f with codewords := [], bytes := f.bytes ++ List.replicate (244 - f.bytes.length) 0 }

/-- R25 to R28, R237, R264, R265, R269, R270, R275, R277, R280, R288, R444: links as wholes, and the mesh. A Down link that is enabled starts to
train once the memory channels have settled; each step leads to the next, step 2 keeps the lane find, and step 5 sends IDENT. A step out of time
ends the attempt, the third in a row the link. The neighbour's IDENT in step 5 fails the link where it names this device itself, else the link is
Up with 64 credits per channel; only a neighbour as before keeps what is unacknowledged. An Up link retrains where one of the three causes holds.
A packet at an input is forwarded when its output has room; `forward` is R277, and a packet of this device waits for room. A mesh flit moves over
the next link of its route with a credit of its class at the next stop; a flit that fails is sent again, and the failure of its 16 retries is
device-fatal. Routes run along mesh links, along the row first. (The numbers of the mesh's links and stops, and how many credits a class has, are
the model's: docstrings of `meshEnds`, `MeshStop` and `Config.meshCredits`.) -/
def Obligations.LinksAndMesh : Prop :=
  (∀ (link : LinkId) (find : LaneFind) (s : State) (k : Link) (l : Nat), l = link.val → k = Assoc.get {} s.net.links l →
    (k.st = .up ∨ k.st = .failed ∨ k.st = .training 5 ∨ (k.st = .down ∧ (k.enabled = false ∨ s.chansSettled = false)) →
      exec (.trainingStep link find) s = .next s) ∧
    (k.st = .down → k.enabled = true → s.chansSettled = true →
      exec (.trainingStep link find) s = .next (s.modLink l (fun k => { k with st := .training 1 }))) ∧
    (∀ n ∈ [1, 3], k.st = .training n → exec (.trainingStep link find) s = .next (s.modLink l (fun k => { k with st := .training (n + 1) }))) ∧
    (k.st = .training 2 → exec (.trainingStep link find) s = .next (s.modLink l (fun k => { k with
      st := .training 3, swapped := find.swapped, polarity := find.polarity }))) ∧
    (k.st = .training 4 → exec (.trainingStep link find) s = .next (State.putFlit (s.modLink l (fun k => { k with st := .training 5 })) l
      { ftype := 1, seq := 0, ack := 0, vc := 3, sop := true, eop := true, len := 40, bytes := packetBytes (s.identPacket l) })) ∧
    ((∀ n, k.st ≠ .training n) → exec (.trainingTimeout link) s = .next s) ∧
    (∀ n, k.st = .training n → k.attempts < 2 → exec (.trainingTimeout link) s = .next (s.modLink l (fun k => { k with
      st := .down, attempts := k.attempts + 1
      counters := { k.counters with trainFailures := bump k.counters.trainFailures 1 } }))) ∧
    (∀ n, k.st = .training n → 2 ≤ k.attempts → exec (.trainingTimeout link) s = .next (State.linksSettled (State.dropLink (s.modLink l
      (fun k => { k with st := .failed, attempts := k.attempts + 1
                         counters := { k.counters with trainFailures := bump k.counters.trainFailures 1 } })) l))) ∧
    (∀ (id : DeviceId) dom peerLink, k.st ≠ .training 5 → exec (.ident link id dom peerLink) s = .next s) ∧
    (∀ (id : DeviceId) dom peerLink, k.st = .training 5 → id.val = s.net.ownId → dom = s.net.ownDom → exec (.ident link id dom peerLink) s =
      .next (State.linksSettled (State.dropLink (s.modLink l (fun k => { k with st := .failed, peer := some (id.val, dom, peerLink) })) l))) ∧
    (∀ (id : DeviceId) dom peerLink t peer, k.st = .training 5 → id.val ≠ s.net.ownId ∨ dom ≠ s.net.ownDom → peer = some (id.val, dom, peerLink) →
      t = (if k.lastPeer = peer then s.modLink l (fun k => { k with resend := k.retry }) else s.dropLink l) →
      exec (.ident link id dom peerLink) s = .next (State.linksSettled (t.modLink l (fun k => { k with
        st := .up, attempts := 0, peer, lastPeer := peer, crossDomain := dom != s.net.ownDom, retryCount := 0
        credits := [(0, 64), (1, 64), (2, 64), (3, 64)], freed := [] })))) ∧
    (∀ cause, k.st ≠ .up ∨ (cause = .retryLimit ∧ k.retryCount < 16) → exec (.linkRetrain link cause) s = .next s) ∧
    (∀ cause, k.st = .up → cause ≠ .retryLimit ∨ 16 ≤ k.retryCount → ∃ t, exec (.linkRetrain link cause) s = .next { t with
        resil := { s.resil with retrain := (s.resil.retrain.headD 0 + 1) :: s.resil.retrain.tail } } ∧
      t = s.modLink l (fun k => { k with st := .training 1, retryCount := 0
                                         counters := { k.counters with retrains := bump k.counters.retrains 1 } }))) ∧
  (∀ (s : State) l, ∃ n, ∀ (k : Link), k = Assoc.get {} (s.dropLink l).net.links l →
    k.retry = [] ∧ k.resend = [] ∧ k.partial_ = [] ∧ k.outq = [] ∧ k.waitq = [] ∧ k.sending = [] ∧
    (s.dropLink l).net.counters = { s.net.counters with undeliverable := bump s.net.counters.undeliverable n } ∧
    n = (((Assoc.get {} s.net.links l).outq ++ (Assoc.get {} s.net.links l).waitq).map (fun q => q.2.length)).sum) ∧
  (∀ (s : State), s.linksSettled = { s with boot := { s.boot with links := s.boot.links || (s.chansSettled && decide (∀ l ∈ List.range 48,
    (Assoc.get {} s.net.links l).enabled = false ∨ (Assoc.get {} s.net.links l).st = .up ∨ (Assoc.get {} s.net.links l).st = .failed)) } }) ∧
  (∀ (link : LinkId) (vc : BitVec 2) (s : State) (k : Link), k = Assoc.get {} s.net.links link.val →
    (Assoc.get [] k.inq vc.toNat = [] → exec (.packetForward link vc) s = .next s) ∧
    (∀ p rest, Assoc.get [] k.inq vc.toNat = p :: rest →
      (∀ o, s.hop p = .out o → 64 < ((Assoc.get [] (Assoc.get {} s.net.links o).outq vc.toNat).map flitCount).sum + flitCount p →
        exec (.packetForward link vc) s = .next s) ∧
      ((∀ o, s.hop p = .out o → ((Assoc.get [] (Assoc.get {} s.net.links o).outq vc.toNat).map flitCount).sum + flitCount p ≤ 64) →
        exec (.packetForward link vc) s = .next (State.forward (s.modLink link.val (fun k => { k with
          inq := Assoc.put k.inq vc.toNat rest, freed := Assoc.put k.freed vc.toNat (Assoc.get 0 k.freed vc.toNat + flitCount p) })) p)))) ∧
  (∀ (s : State) (p : Packet),
    (s.hop p = .drop → s.forward p = s.modNetCounters (fun c => { c with excluded := bump c.excluded 1 })) ∧
    (s.hop p = .deliver → s.forward p = s.modNet (fun n => { n with delivered := n.delivered ++ [p] })) ∧
    (∀ l q, s.hop p = .out l → q = { p with hops := p.hops - 1 } → s.forward p = s.modLink l (fun k =>
      if p.srcId.val = s.net.ownId ∧ p.srcDom = s.net.ownDom then k.letIn p.vc.toNat (Assoc.get [] k.waitq p.vc.toNat ++ [q])
      else { k with outq := Assoc.put k.outq p.vc.toNat (Assoc.get [] k.outq p.vc.toNat ++ [q]) })) ∧
    (∀ h t, s.hop p = .undeliverable h → t = s.modNetCounters (fun c => if h then { c with hopsOut := bump c.hopsOut 1 }
        else { c with undeliverable := bump c.undeliverable 1 }) →
      (3 < p.op.toNat → s.forward p = t) ∧
      (p.op.toNat ≤ 3 → ∀ q : Packet, q = { op := if p.op = 0 then 4 else if p.op = 2 then 6 else 5, vc := 1, flow := p.flow, dstId := p.srcId
                                            srcId := Fin.ofNat 4096 s.net.ownId, dstDom := p.srcDom, srcDom := s.net.ownDom, len := 0
                                            tag := p.tag, status := 1, payload := [] } →
        s.forward p = (if t.hop q = .drop ∨ (∃ b, t.hop q = .undeliverable b) then t else t.settle q)))) ∧
  (∀ (m : MeshHop) (s : State) (fr to_ key : Nat), (fr, to_) = (if m.back then ((meshEnds m.link.val).2, (meshEnds m.link.val).1)
      else meshEnds m.link.val) → key = 2 * m.link.val + m.back.toNat →
    (fr = m.dest.val ∨ meshNext fr m.dest.val ≠ to_ ∨ (to_ ≠ m.dest.val ∧ Config.meshCredits ≤ s.net.meshHeld to_ m.cls) →
      ∀ ok, exec (.meshFlit m ok) s = .next s) ∧
    (fr ≠ m.dest.val → meshNext fr m.dest.val = to_ → to_ = m.dest.val ∨ s.net.meshHeld to_ m.cls < Config.meshCredits →
      exec (.meshFlit m false) s = .next (s.modNet (fun n => { n with
        meshRetries := Assoc.put n.meshRetries key (Assoc.get 0 n.meshRetries key + 1)
        meshRetryCount := Assoc.put n.meshRetryCount m.link.val (satAdd 64 (Assoc.get 0 n.meshRetryCount m.link.val) 1) })) ∧
      ∃ t, exec (.meshFlit m true) s = .next (s.modNet (fun n => { n with meshRetries := Assoc.del n.meshRetries key, mesh := t })) ∧
        ∀ stop c, Net.meshHeld { s.net with mesh := t } stop c = (if c ≠ m.cls then s.net.meshHeld stop c
          else if stop = fr then s.net.meshHeld fr c - 1
          else if stop = to_ ∧ to_ ≠ m.dest.val then s.net.meshHeld to_ c + 1 else s.net.meshHeld stop c))) ∧
  (∀ a b, a < 9 → b < 9 → meshPath a b = a :: (meshPath a b).tail ∧ (meshPath a b).getLast? = some b ∧ (meshPath a b).length ≤ 6 ∧
    (a < 8 → b < 8 → (meshPath a b).length = hops a b + 1) ∧ ∀ n x y, (meshPath a b)[n]? = some x → (meshPath a b)[n + 1]? = some y →
      meshNext x b = y ∧ ∃ l < 12, meshEnds l = (x, y) ∨ meshEnds l = (y, x)) ∧
  ∀ (link : MeshLinkId) (s : State),
    ((∀ b < 2, Assoc.get 0 s.net.meshRetries (2 * link.val + b) < 17) → exec (.meshLinkFailure link) s = .next s) ∧
    ((∃ b < 2, 17 ≤ Assoc.get 0 s.net.meshRetries (2 * link.val + b)) → ∀ t, t = { s with
        resil := { s.resil with fatalCount := s.resil.fatalCount + 1, fatalCause := 1, fatalDetail := BitVec.ofNat 64 link.val, viral := true }
        dict := { s.dict with unsaved := true }, out := s.out ++ [.viral] } →
      exec (.meshLinkFailure link) s = .next ((s.hub.ctxs.map (·.1)).foldl (fun u c => u.loseCtx c none none false) t))

/-- R57, R59, R277, R281, R283 to R285, R287, R288, R376: requests of other devices at their target. A row takes the first delivered packet of its
kind that no packet of the same source, channel and flow precedes. A READ, WRITE or ATOMIC is checked against its window, the checks in one order
(the model's choice, log entry 44), and served in the window's context; a READ with a failed grain answers INTEGRITY, a page without translation
PAGE_FAULT. The ACK
of a WRITE follows once it is performed. A WRITE goes piece by piece, and an ATOMIC as one request, to the banks of their grains; an ATOMIC is one
indivisible change of its grain, a poisoned one INTEGRITY, and its response carries the values before each operand. A TURN_SIG reaches an
exported turnstile; an ECHO is answered. What has to wait for memory leaves the packet where it is. -/
def Obligations.RequestsServed : Prop :=
  (∀ (n : Net) op sel p, n.nextOf? op sel = some p → ∃ before after, n.delivered = before ++ p :: after ∧ p.op.toNat = op ∧ sel p = true ∧
    ∀ q ∈ before, ¬(q.srcId = p.srcId ∧ q.srcDom = p.srcDom ∧ q.vc = p.vc ∧ q.flow = p.flow)) ∧
  (∀ (n : Net) op sel, n.nextOf? op sel = none → ∀ before p after, n.delivered = before ++ p :: after → p.op.toNat = op → sel p = true →
    ∃ q ∈ before, q.srcId = p.srcId ∧ q.srcDom = p.srcDom ∧ q.vc = p.vc ∧ q.flow = p.flow) ∧
  (∀ (s : State) (p : Packet) status payload (q : Packet), q = {
      op := if p.op = 0 then 4 else if p.op = 2 then 6 else 5, vc := 1, flow := p.flow, dstId := p.srcId, srcId := Fin.ofNat 4096 s.net.ownId
      dstDom := p.srcDom, srcDom := s.net.ownDom, len := BitVec.ofNat 13 payload.length, tag := p.tag, status := BitVec.ofNat 16 status, payload } →
    p.op.toNat < 4 → respond s p status payload = q ∧
      s.answer p status payload = State.forward (s.modNet (fun n => { n with delivered := n.delivered.erase p })) q) ∧
  (∀ (s : State) (p : Packet) len right off n, off = p.addr.toNat % 2 ^ 40 → n = p.sel.toNat % 1024 →
    (len = 0 ∨ 1024 ≤ p.sel.toNat → s.windowOf p len right = .error 10) ∧
    (0 < len → p.sel.toNat < 1024 →
      (Assoc.find? s.hub.windows n = none → s.windowOf p len right = .error 2) ∧
      (∀ w, Assoc.find? s.hub.windows n = some w →
        (w.source ≠ none → w.source ≠ some p.srcId.val → s.windowOf p len right = .error 2) ∧
        (w.source = none ∨ w.source = some p.srcId.val → (s.ctx? w.ctx = none → s.windowOf p len right = .error 2) ∧
          (∀ c, s.ctx? w.ctx = some c → c.st ≠ .live → s.windowOf p len right = .error 6) ∧
          (s.ctxLive w.ctx = true → (w.len < off + len → s.windowOf p len right = .error 3) ∧
            (off + len ≤ w.len → right w = false → s.windowOf p len right = .error 4) ∧
            (off + len ≤ w.len → right w = true → s.windowOf p len right = .ok (w, w.base + off))))))) ∧
  (∀ (s : State), (s.net.nextOf? 0 (fun _ => true) = none → exec .readPacket s = .next s) ∧
    (s.net.nextOf? 1 (fun _ => true) = none → exec .writePacket s = .next s) ∧ (s.net.nextOf? 2 (fun _ => true) = none →
      exec .atomicPacket s = .next s) ∧
    (s.net.nextOf? 3 (fun _ => true) = none → exec .turnSigPacket s = .next s) ∧
    (s.net.nextOf? 8 (fun p => p.addr.toNat % 256 == 2) = none → exec .echo s = .next s)) ∧
  (∀ (s : State) p, s.net.nextOf? 0 (fun _ => true) = some p →
    (∀ e, s.windowOf p p.len.toNat (·.read) = .error e → exec .readPacket s = .next (s.answer p e [])) ∧
    (∀ w va s1 who, s.windowOf p p.len.toNat (·.read) = .ok (w, va) → who = .link p.srcDom p.srcId.val p.tag.toNat →
      (s.scanVa who w.ctx va p.len.toNat = (s1, .held) → exec .readPacket s = .next s1) ∧
      (∀ a, s.scanVa who w.ctx va p.len.toNat = (s1, .fault a) → exec .readPacket s = .next (s1.answer p 12 [])) ∧
      (∀ bytes bad, s.scanVa who w.ctx va p.len.toNat = (s1, .ok bytes bad) → exec .readPacket s = .next (s1.answer p
        (if bad = [] then 0 else 5) (if bad = [] then bytes else []))))) ∧
  (∀ (s : State) p, s.net.nextOf? 1 (fun _ => true) = some p →
    (∀ e, s.windowOf p p.payload.length (·.write) = .error e → exec .writePacket s = .next (s.answer p e [])) ∧
    (∀ w va s1, s.windowOf p p.payload.length (·.write) = .ok (w, va) →
      (s.copyPlan 0 w.ctx va 0 p.payload = (s1, .held) → exec .writePacket s = .next s1) ∧
      (∀ a b, s.copyPlan 0 w.ctx va 0 p.payload = (s1, .fault a b) → exec .writePacket s = .next (s1.answer p 12 [])) ∧
      (∀ l t, s.copyPlan 0 w.ctx va 0 p.payload = (s1, .ok l) → t = s1.modNet (fun n => { n with
          delivered := n.delivered.erase p, nextServe := n.nextServe + 1, serving := Assoc.put n.serving n.nextServe ⟨p, 0, []⟩ }) →
        exec .writePacket s = .next (l.foldl (fun (u : State) x => u.servePiece s1.net.nextServe x.1 x.2) t).sendAcks))) ∧
  (∀ (s : State) n (ph : Phys) bs,
    (ph.host = true → s.servePiece n ph bs = (s.hostFrame ph.grain bs).hostWrite ph.grain bs (.remote n)) ∧
    (ph.host = false → s.servePiece n ph bs = s.arriveWith State.serveAgent (agentReq ph.key (ph.gen s) ph.grain (.write (.remote n) bs)))) ∧
  (∀ (s : State) n bad, s.performed (.remote n) bad = (match bad, Assoc.find? s.net.serving n with
    | true, some v => s.modNet (fun t => { t with serving := Assoc.put t.serving n { v with status := 5 } })
    | _, _ => s)) ∧
  (∀ (s : State) p op type w, s.net.nextOf? 2 (fun _ => true) = some p → op = atomOpOf (p.aux.toNat / 2 ^ 61) → type = p.aux.toNat / 2 ^ 58 % 8 →
    w = atomWidth type →
    (op = none ∨ 6 ≤ type → exec .atomicPacket s = .next (s.answer p 10 [])) ∧
    (∀ o, op = some o → type < 6 → atomEntriesOf o w p.payload = none → exec .atomicPacket s = .next (s.answer p 10 [])) ∧
    (∀ o l, op = some o → type < 6 → atomEntriesOf o w p.payload = some l →
      (∀ e, s.windowOf p w (·.atomic) = .error e → exec .atomicPacket s = .next (s.answer p e [])) ∧
      (∀ win va, s.windowOf p w (·.atomic) = .ok (win, va) → (va % w ≠ 0 → exec .atomicPacket s = .next (s.answer p 7 [])) ∧
        (∀ s1, va % w = 0 → (s.translate 0 win.ctx va true = (s1, .held) → exec .atomicPacket s = .next s1) ∧
          (s.translate 0 win.ctx va true = (s1, .fault) → exec .atomicPacket s = .next (s1.answer p 12 [])) ∧
          (∀ ph, s.translate 0 win.ctx va true = (s1, .ok ph) → exec .atomicPacket s = .next (s1.serveAtomic p win.ctx ph o type l)))))) ∧
  (∀ (s s1 : State) p ctx (ph : Phys) op type l src, src = 2 ^ 63 + p.srcId.val * 2 ^ 51 + p.tag.toNat * 2 ^ 35 →
    s1 = s.modNet (fun n => { n with
      delivered := n.delivered.erase p, nextServe := n.nextServe + 1, serving := Assoc.put n.serving n.nextServe ⟨p, 0, []⟩ }) →
    s.serveAtomic p ctx ph op type l = (s1.arriveWith (fun u t b q => u.serve t b q false)
      (agentReq ph.key (ph.gen s) ph.grain (.modify s.net.nextServe ctx src op type (ph.addr % 64) l))).sendAcks) ∧
  (∀ (s s0 : State) (c c' : EllCopy) (q : BReq) id ctx src op type off l m (v : Nat × List Nat) (bs : List (Nat × Byte)),
    q.kind = .modify id ctx src op type off l →
    s0 = (State.jrnRequest (s.takeForced (2 * ctx) (ellRunKey 1 q.ell)) (2 * ctx) 1 (ellRunKey 1 q.ell) src).countTakeover c q.key q.gen →
    m = leNat ((((c.taken q.key q.gen).base q.grain).drop off).take (atomWidth type)) → v = atomRun op type l m →
    bs = ((List.range (atomWidth type)).zip (leBytes (atomWidth type) v.1)).map (fun p => (off + p.1, p.2)) →
    c' = Spec.cleaned c (Spec.written c q.key q.gen q.grain bs) →
    (∀ x, c.owned q.key q.gen = true → Assoc.find? c.bad q.grain = some x → s.performReq c q = (s.performed (.remote id) true, c)) ∧
    (∀ x s1, c.owned q.key q.gen = false ∨ Assoc.find? c.bad q.grain = none → Assoc.find? s0.net.serving id = some x →
      s1 = s0.modNet (fun n => { n with serving := Assoc.put n.serving id { x with payload := v.2.flatMap (leBytes (atomWidth type)) } }) →
      s.performReq c q = (if isHostEll q.ell then s1.hostWrite (grainOfEll q.ell q.grain) bs (.remote id) else s1, c'))) ∧
  (∀ (s : State), s.sendAcks = s.net.serving.foldl (fun (u : State) x => if u.writesLeft (.remote x.1) then u else
    State.forward (u.modNet (fun n => { n with serving := Assoc.del n.serving x.1 })) (respond u x.2.pkt x.2.status x.2.payload)) s) ∧
  (∀ (s : State) p, s.net.nextOf? 3 (fun _ => true) = some p →
    ((∀ t, Assoc.find? s.hub.turns p.sel.toNat = some t → none ∉ t.exports ∧ some p.srcId.val ∉ t.exports) →
      exec .turnSigPacket s = .next (s.answer p 8 [])) ∧
    (∀ t, Assoc.find? s.hub.turns p.sel.toNat = some t → none ∈ t.exports ∨ some p.srcId.val ∈ t.exports →
      exec .turnSigPacket s = .next ((s.signalTurn p.sel.toNat p.mode p.aux p.err none).answer p 0 []))) ∧
  ∀ (s : State) p (q : Packet), s.net.nextOf? 8 (fun p => p.addr.toNat % 256 == 2) = some p → q = {
      op := 8, vc := 3, dstId := p.srcId, srcId := Fin.ofNat 4096 s.net.ownId, dstDom := p.srcDom, srcDom := s.net.ownDom, tag := p.tag, addr := 3 } →
    exec .echo s = .next (State.forward (s.modNet (fun n => { n with delivered := n.delivered.erase p })) q)

/-- R173, R174, R274, R283, R285, R286, R288, R306, R438: responses. A response ends the request of its TAG that its device and kind answer;
any other is discarded and counted. A failure is counted by STATUS. A copy keeps the STATUS as the cause of the parts concerned, counts down
what is outstanding, and takes the bytes that have come (of a stopped one, those before its first failing byte); an ATOM returns the value each
operand found and records a stored result that is not finite, or faults its troupe with the STATUS as reason code; a failed TURN_SIG is
counted in its context. A request out of time fails with UNREACHABLE; an ECHO out of time has no result, one answered has its round trip (a free
value: log entry 45). -/
def Obligations.ResponsesTaken : Prop :=
  (∀ (s : State) (op : Nat) (i : Instr), (op = 4 ∧ i = .readResp) ∨ (op = 5 ∧ i = .ack) ∨ (op = 6 ∧ i = .atomicResp) →
    (s.net.nextOf? op (fun _ => true) = none → exec i s = .next s) ∧
    (∀ p, s.net.nextOf? op (fun _ => true) = some p →
      (Assoc.find? s.net.outstanding p.tag.toNat = none → exec i s = .next ((s.modNet (fun n => { n with
        delivered := n.delivered.erase p })).modNetCounters (fun c => { c with late := bump c.late 1 }))) ∧
      (∀ q, Assoc.find? s.net.outstanding p.tag.toNat = some q →
        (q.fail ≠ none ∨ q.dev ≠ p.srcId.val ∨ answersKind q.who op = false → exec i s = .next ((s.modNet (fun n => { n with
          delivered := n.delivered.erase p })).modNetCounters (fun c => { c with late := bump c.late 1 }))) ∧
        (q.fail = none → q.dev = p.srcId.val → answersKind q.who op = true → ∀ s1,
          (s.takeOutcome q.who p.status.toNat p.payload = (s1, false) → exec i s = .next s1) ∧
          (s.takeOutcome q.who p.status.toNat p.payload = (s1, true) → exec i s = .next (State.modNet (if p.status = 0 then
              s1.modNet (fun n => { n with outstanding := Assoc.del n.outstanding p.tag.toNat })
            else (s1.modNet (fun n => { n with outstanding := Assoc.del n.outstanding p.tag.toNat })).modNetCounters (fun c => { c with
              failedBy := Assoc.put c.failedBy p.status.toNat (satAdd 64 (Assoc.get 0 c.failedBy p.status.toNat) 1) }))
            (fun n => { n with delivered := n.delivered.erase p }))))))) ∧
  (∀ t e at_ n ring op ref ctx ph (c : CombOp), answersKind (.copyRead t e at_ n) op = decide (op = 4) ∧
    answersKind (.copyWrite t e at_ n) op = decide (op = 5) ∧ answersKind (.atom ring c) op = decide (op = 6) ∧
    answersKind (.command ref) op = decide (op = 5) ∧ answersKind (.turnSig ctx ph) op = decide (op = 5)) ∧
  (∀ (s : State) t e at_ n status bs,
    (s.engine? t e = none → s.takeOutcome (.copyRead t e at_ n) status bs = (s, true) ∧ s.takeOutcome (.copyWrite t e at_ n) status bs = (s, true)) ∧
    (∀ c, s.engine? t e = some c →
      s.takeOutcome (.copyWrite t e at_ n) 0 bs = (s.putEngine t e { c with outstanding := c.outstanding - 1 }, true) ∧
      (status ≠ 0 → s.takeOutcome (.copyWrite t e at_ n) status bs = (s.putEngine t e
        (CopyOp.fail (CopyOp.fail { c with outstanding := c.outstanding - 1 } at_ status) (at_ + (n - 1)) status), true)) ∧
      (∀ s0, s.copyPorts t e c false n = (s0, false) → s.takeOutcome (.copyRead t e at_ n) status bs = (s0, false)) ∧
      (∀ s0 s1 d st c', s.copyPorts t e c false n = (s0, true) → s0.engine? t e = some c' →
        st = (if status = 0 ∧ bs.length ≠ n then 10 else status) → (st = 0 ∧ s1 = s0 ∧ d = bs ∨ st ≠ 0 ∧ s0.freeTake n = (s1, d)) →
        s.takeOutcome (.copyRead t e at_ n) status bs = ((s1.putEngine t e (if st = 0 then { c' with outstanding := c'.outstanding - 1 } else
          (CopyOp.fail { c' with outstanding := c'.outstanding - 1 } at_ st).fail (at_ + (n - 1)) st)).copyTake t e false at_
            (d.take (if c.stopped then min d.length (c.firstFail.getD 0 - at_) else d.length)), true)))) ∧
  (∀ (s : State) ring (c : CombOp) op type status bs, c.kind = .atom op type →
    (∀ l, l = (List.range (bs.length / atomWidth type)).map (fun i => leNat ((bs.drop (atomWidth type * i)).take (atomWidth type))) →
      s.takeOutcome (.atom ring c) 0 bs = ((s.replyAtom ring c op type l).atomNfEvent c op type (l.headD 0), true)) ∧
    (status ≠ 0 → s.takeOutcome (.atom ring c) status bs =
      (c.fault (s.performed (.ring (Fin.ofNat 192 ring) c.write)) 3 (status % 256), true))) ∧
  (∀ (s : State) ctx ph status bs, s.takeOutcome (.turnSig ctx ph) 0 bs = (s, true) ∧
    (status ≠ 0 → s.takeOutcome (.turnSig ctx ph) status bs = (match s.ctx? ctx with
      | some x => s.setCtx ctx { x with remoteFails := bump x.remoteFails 1 }
      | none => s, true))) ∧
  (∀ (s : State) ref c status bs, s.cmd? ref = some c →
    s.takeOutcome (.command ref) 0 bs = (s.setCmd ref { c with outstanding := c.outstanding - 1 }, true) ∧
    (status ≠ 0 → c.cause = 0 → s.takeOutcome (.command ref) status bs = (s.setCmd ref { c with
      outstanding := c.outstanding - 1, cause := status, partMap := 0xFFFFFFFFFFFFFFFF, firstFail := s.trailerAt c }, true))) ∧
  (∀ (s : State) (tag : W16),
    (s.net.echoTag = some tag → exec (.requestTimeout tag) s = .next (s.modNet (fun n => { n with echoTag := none, echoResult := 0xFFFFFFFF }))) ∧
    (s.net.echoTag ≠ some tag → Assoc.find? s.net.outstanding tag.toNat = none → exec (.requestTimeout tag) s = .next s) ∧
    (∀ q s1 st, s.net.echoTag ≠ some tag → Assoc.find? s.net.outstanding tag.toNat = some q → st = q.fail.getD 1 → st ≠ 0 →
      (s.takeOutcome q.who st [] = (s1, true) → exec (.requestTimeout tag) s = .next ((s1.modNet (fun n => { n with
        outstanding := Assoc.del n.outstanding tag.toNat })).modNetCounters (fun c => { c with
          failedBy := Assoc.put c.failedBy st (satAdd 64 (Assoc.get 0 c.failedBy st) 1) }))) ∧
      (s.takeOutcome q.who st [] = (s1, false) → exec (.requestTimeout tag) s = .next (s1.modNet (fun n => { n with
        outstanding := Assoc.put n.outstanding tag.toNat { q with fail := some st } }))))) ∧
  ∀ (s : State), (s.net.nextOf? 8 (fun p => p.addr.toNat % 256 == 3) = none → exec .echoReply s = .next s) ∧
    (∀ p, s.net.nextOf? 8 (fun p => p.addr.toNat % 256 == 3) = some p →
      (s.net.echoTag ≠ some p.tag → exec .echoReply s = .next (s.modNet (fun n => { n with delivered := n.delivered.erase p }))) ∧
      (s.net.echoTag = some p.tag → ∃ v : W32, exec .echoReply s = .next (State.modNet { s with free := s.free + 1 } (fun n => { n with
        delivered := n.delivered.erase p, echoTag := none, echoResult := v }))))

/-- R385, R391 to R395, R398, R400 to R403, R410, R472: power. A sample adds to the sums of its period and to the energies. A control period
applies the law of R393 with the cap that stood at its start, moves the thermal floors, takes the level as the larger of the two, notes which
sensors are at 125 °C, joins the period to the open energy interval, notes which islands are idle, and finds the cap of the next period. An
interval ends when its holders change or after 100,000 periods: its records are written and its totals counted. CAP_UNATTAINABLE takes 100
periods, the lapse of the cap its lease, the thermal trip a sensor hot in two periods in a row. Where the law's quotients have no value, a free
value stands. The model's choices: that value (log entry 50), cap_level 56 while the brake is held (187), a record out of reach counted as
lost (183), METER_OK over the whole interval (189), the period in which idleness began (190), and the form of the calibration (188). -/
def Obligations.PowerPeriods : Prop :=
  (∀ (x : RailSample) (s : State) (p : List Nat),
    p = (List.range 15).map (fun i => Config.calibratedPower s.coefficients i (x.mV.getD i 0) (x.mA.getD i 0)) →
    exec (.meterSample x) s = .next (s.modYard (fun y => { y with
      sums := (List.range 15).map (fun i => y.sums.getD i 0 + p.getD i 0), samples := y.samples + 1
      energy := y.energy + p.foldl (· + ·) 0, secEnergy := y.secEnergy + p.foldl (· + ·) 0 }))) ∧
  (∀ (x : PeriodSense) (s : State), ∃ v : W64, ∀ (j : List Int) (u : State) (under : Nat),
    j = (List.range 9).map (fun i => (x.junctionMilliC[i]?).getD (s.yard.junction.getD i 0)) →
    under = (if ∀ t ∈ List.range 8, Spec.overBudget s v t = false then s.yard.underCount + 1 else 0) →
    u = State.modYard { s with free := s.free + 1, periods := s.periods + 1
                               trip := { s.trip with hot := (List.range 9).filter (fun i => decide (125000 ≤ j.getD i 0)) } } (fun y => { y with
      learned := (Spec.tentBudgets s v).1, capLevel := Spec.perTent (Spec.lawLevel s v), thermal := Spec.perTent (Spec.lawFloor s j)
      level := Spec.perTent (fun t => max (Spec.lawLevel s v t) (Spec.lawFloor s j t))
      overCount := Spec.perTent (fun t => if Spec.overBudget s v t = true ∧ Assoc.get 0 y.capLevel t = 56 then Assoc.get 0 y.overCount t + 1 else 0)
      underCount := under, unattainable := y.unattainable && decide (under < 100)
      power := Spec.railPower s, junction := j, sums := [], samples := 0, mix := [], slots := []
      secEnergy := if 100000 ≤ y.secPeriods + 1 then 0 else y.secEnergy
      secPeriods := if 100000 ≤ y.secPeriods + 1 then 0 else y.secPeriods + 1
      power1s := if 100000 ≤ y.secPeriods + 1 then (y.secEnergy * 16 : Rat) / (10 ^ 14 : Nat) else y.power1s }) →
    exec (.controlPeriod x) s = .next (u.addPeriod.noteIdle.modYard (fun y => { y with effective := u.addPeriod.noteIdle.capNow }))) ∧
  (∀ (s : State) (power : List Rat) (pool o : Rat),
    (s.dictVal 0x2001 1 0 = 0 → s.budgets power pool o = (s.yard.learned, (List.range 8).map (fun t => pool * (s.yard.fracs.getD t 0 : Rat) / 256))) ∧
    (s.dictVal 0x2001 1 0 ≠ 0 → ratSum (s.wants power).2 ≠ 0 ∨ 0 ≤ pool → s.budgets power pool o = ((s.wants power).1, (s.wants power).2.map (fun w =>
      if ratSum (s.wants power).2 ≤ pool then w + (pool - ratSum (s.wants power).2) / 8 else pool * w / ratSum (s.wants power).2)))) ∧
  (∀ (s : State), s.capNow = (if s.yard.lapsed = true ∧ s.leaseRunOut = true then
      min (min (realOf s.yard.capW.toNat) 2000) (realOf (s.dictVal 0x2000 3 0x44960000)) else min (realOf s.yard.capW.toNat) 2000) ∧
    (s.leaseRunOut = true ↔ realOf (s.dictVal 0x2000 2 0) ≠ 0 ∧
      realOf (s.dictVal 0x2000 2 0) * 100000 ≤ ((s.periods - s.yard.capWritten : Nat) : Rat)) ∧
    exec .capLeaseExpiry s = .next (if s.leaseRunOut then s.modYard (fun y => { y with lapsed := true }) else s)) ∧
  (∀ (tent : TentId) (s : State), exec (.capUnattainable tent) s = .next (if 100 ≤ Assoc.get 0 s.yard.overCount tent.val then
    s.modYard (fun y => { y with unattainable := true }) else s)) ∧
  (∀ (s t : State) (holders now : List Nat), now = s.hub.cmds.foldl (fun l c => match c.2.ctx with
      | some x => if isFlip c.2.words ∧ c.2.st = .accepted then l else insertNat x l
      | none => l) [] →
    holders = unionNat s.yard.holders now → t = State.modYard (if s.yard.ivHolders = holders then s else s.closeInterval) (fun y => { y with
      ivHolders := holders, ivEnergy := y.ivEnergy + (y.energy - y.lastEnergy), ivPeriods := y.ivPeriods + 1
      ivMeterOk := y.ivMeterOk && y.meterStart && s.meterOk, meterStart := s.meterOk, lastEnergy := y.energy, holders := now }) →
    s.addPeriod = if 100000 ≤ t.yard.ivPeriods then t.closeInterval else t) ∧
  (∀ (s : State), (s.yard.ivPeriods = 0 → s.closeInterval = s) ∧ (s.yard.ivPeriods ≠ 0 → s.closeInterval =
    (s.yard.logRecords.foldl State.logRecord s).modYard (fun y => { y.addTotals with ivSeq := y.ivSeq + 1, ivPeriods := 0, ivEnergy := 0
                                                                                     ivMeterOk := true }))) ∧
  (∀ (s : State) r size base, size = s.dictVal 0x2300 2 0 → base = s.dictVal 0x2300 1 0 → (size = 0 → s.logRecord r = s) ∧
    (size ≠ 0 → 2 ^ size ≤ (s.yard.elogTail - BitVec.ofNat 32 (s.dictVal 0x2300 3 0)).toNat ∨ s.logReachable (bitN base 63) = false →
      s.logRecord r = s.modYard (fun y => { y with elogLost := y.elogLost + 1 })) ∧
    (size ≠ 0 → (s.yard.elogTail - BitVec.ofNat 32 (s.dictVal 0x2300 3 0)).toNat < 2 ^ size → s.logReachable (bitN base 63) = true →
      s.logRecord r = State.writePlace (s.modYard (fun y => { y with elogTail := y.elogTail + 1 })) (bitN base 63)
        (bits base 51 12 * 4096 + 64 * (s.yard.elogTail.toNat % 2 ^ size)) (r.flatMap (fun w => leBytes 8 w.toNat)) .none)) ∧
  (∀ (y : Steelyard) c (e : CtxEnergy), (y.ivHolders = [] → y.addTotals = y) ∧ (y.ivHolders = [c] → e = Assoc.get {} y.totals c →
    y.addTotals = { y with
    totals := Assoc.put y.totals c { e with excl := e.excl + y.ivEnergy, exclPeriods := e.exclPeriods + y.ivPeriods } })) ∧
  (∀ (s : State), (∀ t ∈ List.range 8, (s.island t).fenced = false ∨ (s.island t).st = .gated) → s.noteIdle.rings = s.rings ∧
    ∀ t < 8, s.noteIdle.island t = { s.island t with
      idleSince := if s.islandIdle t then some ((s.island t).idleSince.getD (s.periods - 1)) else none }) ∧
  (∀ sensor milliC (s : State), (s.trip.latched = true ∨ milliC < 125000 ∨ sensor ∉ s.trip.hot → exec (.thermalTrip sensor milliC) s = .next s) ∧
    (∀ r, s.trip.latched = false → 125000 ≤ milliC → sensor ∈ s.trip.hot → r = s.resetUnits → exec (.thermalTrip sensor milliC) s = .next { r with
      dram := [], hub := {}, clocks := { r.clocks with stopped := true }, trip := { r.trip with latched := true, sensor, milliC }
      out := s.out ++ [.thermtrip] }))

/-- R398: the thermal floors. At every control period the floor of a tent whose junction is at or above T_THROTTLE (by default 100 °C) rises by
4, up to 56; of one that is more than 5 °C below it falls by 1, down to 0; between the two it holds. -/
def Obligations.ThermalFloors : Prop :=
  ∀ (x : PeriodSense) (s : State), ∃ u, exec (.controlPeriod x) s = .next u ∧ ∀ (t : Nat) (m : Int), t < 8 → x.junctionMilliC[t]? = some m →
    ∀ throttle : Rat, throttle = realOf (s.dictVal 0xA001 1 0x42C80000) →
    (throttle ≤ (m : Rat) / 1000 → Assoc.get 0 u.yard.thermal t = min (Assoc.get 0 s.yard.thermal t + 4) 56) ∧
    ((m : Rat) / 1000 < throttle - 5 → Assoc.get 0 u.yard.thermal t = Assoc.get 0 s.yard.thermal t - 1) ∧
    (throttle - 5 ≤ (m : Rat) / 1000 → (m : Rat) / 1000 < throttle →
      Assoc.get 0 u.yard.thermal t = Assoc.get 0 s.yard.thermal t)

/-- R235, R387, R388, R399, R406, R409 to R415, R468, R469, R479: the tents' voltages and islands, ageing, clocks, board inputs. A target moves in
steps of at most 10 mV, the next one when the regulator has reported the last; a regulator without answer leaves the target where it was
reported. An idle quiet island is stopped, then gated; a request wakes it unless it is fenced. A measurement re-plans the margin, which never
falls (how a fraction of a ppm is rounded is not given: log entry 52), fences a tent that needs more than 900 mV, and saves the margins that
change; the queues become ready once every tent has been measured. A wake is for a fetched DISPATCH or for a measurement. The model's choices:
idle times are counted in whole periods (log entry 190), a fence for a target that could not be raised is kept under the same table (109), a
brake leaves cap_level at 56 (187), a sample tells that VDD_IO is good (194). Eight samples in a row against the filtered level change it, fewer
are counted as rejected; what a change does is of R469. -/
def Obligations.TentsAndPins : Prop :=
  (∀ (s : State) t goal i, i = s.island t → s.setGoal t goal = State.avsNext (s.modIsland t (fun i => { i with goal })) t ∧
    (i.stepping = true ∨ i.dead = true ∨ i.mv = i.goal → s.avsNext t = s) ∧
    (∀ mv, i.stepping = false → i.dead = false → i.mv ≠ i.goal →
      mv = (if i.mv < i.goal then min (i.mv + 10) i.goal else max (i.mv - 10) i.goal) →
      s.avsNext t = State.emit (s.modIsland t (fun i => { i with mv, stepping := true })) (.avs t mv))) ∧
  (∀ (tent : TentId) (s : State) i t, t = tent.val → i = s.island t →
    (i.stepping = false → exec (.avsStepDone tent) s = .next s ∧ exec (.regulatorNoAnswer tent) s = .next s) ∧
    (i.stepping = true → exec (.avsStepDone tent) s = .next (State.avsNext (s.modIsland t (fun i => { i with
        stepping := false, confirmed := i.mv, raised := i.raised && i.mv != i.goal })) t) ∧
      exec (.regulatorNoAnswer tent) s = .next (State.queuesReady (s.modIsland t (fun i => { i with
        dead := true, stepping := false, mv := i.confirmed, goal := i.confirmed, fenced := i.fenced || i.raised, stuck := i.stuck || i.raised
        raised := false })))) ∧
    (∀ since, i.idleSince = some since → i.st = .active → s.islandQuiet t = true → s.dictVal 0x3100 1 100 ≠ 0 →
      s.dictVal 0x3100 1 100 < 10 * (s.periods + 1 - since) → exec (.idleStop tent) s = .next (s.modIsland t (fun i => { i with st := .stopped }))) ∧
    (i.idleSince = none ∨ i.st ≠ .active ∨ s.islandQuiet t = false ∨ s.dictVal 0x3100 1 100 = 0 ∨
        (∃ since, i.idleSince = some since ∧ 10 * (s.periods + 1 - since) ≤ s.dictVal 0x3100 1 100) → exec (.idleStop tent) s = .next s) ∧
    (∀ since u, i.idleSince = some since → i.st = .stopped → i.waking = false → s.islandQuiet t = true → s.dictVal 0x3100 2 5 ≠ 0 →
      100 * s.dictVal 0x3100 2 5 < s.periods + 1 - since → u = s.modIsland t (fun i => { i with st := .gated }) →
      exec (.idleGate tent) s = .next { u with rings := Assoc.mapVals (fun r (x : Ring) => if tentOfRing r = t then x.gated else x) u.rings }) ∧
    (i.idleSince = none ∨ i.st ≠ .stopped ∨ i.waking = true ∨ s.islandQuiet t = false ∨ s.dictVal 0x3100 2 5 = 0 ∨
        (∃ since, i.idleSince = some since ∧ s.periods + 1 - since ≤ 100 * s.dictVal 0x3100 2 5) →
      exec (.idleGate tent) s = .next s) ∧
    (i.fenced = true ∨ i.st = .active ∨ i.waking = true ∨ s.boot.state ≠ 2 ∨
      ((∃ p, i.measured = some p ∧ s.periods < p + 24 * 3600 * 100000) ∧
        (∀ q ∈ s.hub.queues, q.2.admin = false → ∀ c ∈ q.2.fetched, cmdOp c.words = 1 → ∀ r ∈ allowedRings c.words, tentOfRing r ≠ t) ∧
        ∀ c ∈ s.hub.cmds, c.2.ctx ≠ none → c.2.st = .accepted ∨ c.2.st = .running → cmdOp c.2.words = 1 →
          ∀ r ∈ allowedRings c.2.words, tentOfRing r ≠ t) → exec (.wakeRequest tent) s = .next s) ∧
    (i.fenced = false → i.st ≠ .active → i.waking = false → s.boot.state = 2 →
      (i.measured = none ∨ (∃ p, i.measured = some p ∧ p + 24 * 3600 * 100000 ≤ s.periods) ∨
        (∃ q ∈ s.hub.queues, q.2.admin = false ∧ ∃ c ∈ q.2.fetched, cmdOp c.words = 1 ∧ ∃ r ∈ allowedRings c.words, tentOfRing r = t) ∨
        ∃ c ∈ s.hub.cmds, c.2.ctx ≠ none ∧ (c.2.st = .accepted ∨ c.2.st = .running) ∧ cmdOp c.2.words = 1 ∧
          ∃ r ∈ allowedRings c.2.words, tentOfRing r = t) → exec (.wakeRequest tent) s = .next (s.modIsland t (fun i => { i with
      waking := true, wakes := if i.st = .gated then bump i.wakes 1 else i.wakes }))) ∧
    exec (.islandActive tent) s = .next (if i.waking = false then s else if i.fenced then s.modIsland t (fun i => { i with waking := false })
      else s.modIsland t (fun i => { i with st := .active, waking := false, idleSince := none }))) ∧
  (∀ (r : Ring), r.gated = { ctx := r.ctx, nextGroup := r.nextGroup, nextOp := r.nextOp, nextSeq := r.nextSeq }) ∧
  (∀ (tent : TentId) (x : AgeSense) (s : State), s.boot.state ≠ 2 ∨ (s.island tent.val).vTest = 0 →
    exec (.ageingMeasurement tent x) s = .next s) ∧
  (∀ (tent : TentId) (x : AgeSense) (s : State) i t (d : Rat), t = tent.val → i = s.island t → s.boot.state = 2 → i.vTest ≠ 0 →
    d = ratSum ((List.range 16).map (fun k => ((i.fTest.getD k 0 : Rat) - (x.fNow.getD k 0 : Rat)) / (i.fTest.getD k 0 : Rat))) * 10 ^ 6 / 16 →
    ∃ up : Bool, ∀ drift slack m need w goal (fence raise : Bool) (u v : State),
      drift = (min (max (if up then ratCeil d else ratFloor d) 0) 1048575).toNat → slack = min (minD 1023 (x.slackPs.take 8)) 1023 →
      need = ceilDiv (drift * 6) 10000 + (if slack < 15 then 10 else 0) → m = min (max (mAge i.margin) need) 255 →
      w = marginWord i.vTest m drift slack (if 900 < i.vTest + 25 + m then 3 else if 900 - (i.vTest + 25 + m) < 50 then 2 else
        if m = 0 then 0 else 1) →
      goal = min (max (i.vTest + 25 + mAge w) 600) 900 → raise = decide (i.goal < goal) → fence = (ageState w == 3 || (i.dead && raise)) →
      u = State.modIsland { s with free := s.free + 1 } t (fun i => { i with
        margin := w, fenced := i.fenced || fence, stuck := i.stuck || (i.dead && raise), raised := i.raised || (raise && !i.dead)
        measured := some s.periods }) →
      v = (if w = i.margin then u else u.nvStart 2 (.margin ((List.range 8).map (fun t => (u.island t).margin)))) →
      exec (.ageingMeasurement tent x) s = .next (State.queuesReady (if i.dead then v else v.setGoal t goal))) ∧
  (∀ (s : State), s.queuesReady = { s with boot := { s.boot with
    queues := s.boot.cfgSpace && (s.boot.queues || decide (∀ t ∈ List.range 8, (s.island t).fenced = true ∨ (s.island t).measured ≠ none)) } }) ∧
  (∀ (s : State), exec .refclkLoss s = .next { s with clocks := { s.clocks with refLost := true, holdover := true } } ∧
    exec .refclkReturn s = .next { s with clocks := { s.clocks with refLost := false, holdover := false, refStable := true } } ∧
    (s.clocks.active = 0 → exec .referenceFallback s = .next s) ∧
    (s.clocks.active ≠ 0 → s.clocks.refLost = true → exec .referenceFallback s = .next { s with clocks := { s.clocks with holdover := true } }) ∧
    (s.clocks.active ≠ 0 → s.clocks.refLost = false → exec .referenceFallback s = .next { s with clocks := { s.clocks with
      active := 0, fallbacks := s.clocks.fallbacks + 1 } })) ∧
  (∀ (chan : ChanId) milliC (s : State), exec (.moduleSensorRead chan milliC) s = .next (s.modChan chan.val (fun c => { c with
    milliC, throttle := decide (95000 < milliC) || (decide (90000 < milliC) && c.throttle) }))) ∧
  (∀ (l : InputLevels) (s t : State), t = (((s.applyDue .sysReset).applyDue .perst).applyDue .brake).applyDue .alert →
    exec (.inputSample l) s = .next { t with
      inputs := { t.inputs with sysReset := t.inputs.sysReset.sample l.sysReset, perst := t.inputs.perst.sample l.perst
                                brake := t.inputs.brake.sample l.brake, alert := t.inputs.alert.sample l.alert } }) ∧
  (∀ (f : InputFilter) (level : Bool), (f.sample level).last = level ∧ (f.sample level).filtered = f.filtered ∧
    (level = f.filtered → (f.sample level).run = 0 ∧ (f.sample level).due = false) ∧
    (level ≠ f.filtered → f.run = 0 ∨ f.last ≠ level → (f.sample level).run = 1 ∧ (f.sample level).due = false) ∧
    (level ≠ f.filtered → 0 < f.run → f.run < 7 → f.last = level → (f.sample level).run = f.run + 1 ∧ (f.sample level).due = false) ∧
    (level ≠ f.filtered → f.run = 7 → f.last = level → (f.sample level).run = 0 ∧ (f.sample level).due = true) ∧
    (level = f.filtered → f.lastRunOpen = true → f.last ≠ f.filtered →
      (f.sample level).rejects = (if f.rejects = 0xFFFFFFFF then 0xFFFFFFFF else f.rejects + 1))) ∧
  (∀ (p : BoardInput) (s : State) f, f = s.inputs.pin p → (f.due = false → exec (.filteredLevelChange p) s = .next s) ∧
    (f.due = true → exec (.filteredLevelChange p) s = .next (State.levelChanged { s with
      inputs := s.inputs.setPin p { f with filtered := !f.filtered, due := false } } p (!f.filtered)))) ∧
  ∀ (s : State), s.levelChanged .brake true = s ∧ s.levelChanged .alert true = s ∧ s.levelChanged .sysReset true = s ∧
    (∀ p ∈ [BoardInput.brake, .alert], s.levelChanged p false = { s.brakeOn with inputs := { s.inputs with
      brakeEvents := if s.inputs.brakeEvents = 0xFFFFFFFF then 0xFFFFFFFF else s.inputs.brakeEvents + 1 } }) ∧
    (∀ t < 8, Assoc.get 0 s.brakeOn.yard.capLevel t = (if s.tentActive t then 56 else Assoc.get 0 s.yard.capLevel t) ∧
      Assoc.get 0 s.brakeOn.yard.level t = (if s.tentActive t then 56 else Assoc.get 0 s.yard.level t)) ∧
    (s.levelChanged .sysReset false = if s.trip.latched then s else s.resetUnits) ∧
    (s.levelChanged .perst true = if s.boot.state = 2 then { s with boot := { s.boot with cfgSpace := true, mailbox := true, queues := s.tentsMeasured } } else s) ∧
    (s.levelChanged .perst false = if s.boot.state = 2 then s.perstDown else s)

/-- R205, R206, R207, R221, R223, R232, R233, R236, R388, R415, R432, R434, R435, R441 to R444, R450, R456, R459, R473: power, start-up and the
NV store. Rails
good: the dictionary is read once after power-up, and the management port looks for a duplicate of its address. A rail fault resets every unit
but the always-on domain; a loss of VDD_AON leaves the NV store alone, with the banks being written erased, and what the manual gives no reset
value has the model's (log entry 3). START_FROM_ROM verifies the images, and recovers or runs: generations start from their saved ceilings or in
a new epoch, tents get their voltage or are fenced, channels begin to train. A save erases the bank that is not chosen, and writes it with the
next sequence number; it is then the chosen one. A channel trains to a module that R205 allows; a new one has default headers. The model's
choices: the content's bytes (log entry 114), a save during a save (115), the security engine after a reset (195), the fence of R479 (109), the
cycle counters from 0 (7), the PUF (186), the input levels (194). -/
def Obligations.StartAndLoss : Prop :=
  (∀ (s : State), (s.boot.rails = true ∨ s.trip.latched = true → exec .railsGood s = .next s) ∧
    (∀ t, s.boot.rails = false → s.trip.latched = false → t = (if s.boot.loaded then s else s.loadDict.portStart) →
      exec .railsGood s = .next { t with boot := { t.boot with rails := true, state := 0 } })) ∧
  (∀ (s : State), ∃ v : W64, s.portStart = { s with free := s.free + 1, boot := { s.boot with puf := v }, out := s.out ++ [.addressProbe portAddress] }) ∧
  (∀ (s : State) v f, s.nvContent? 3 = none ∧ v = [] ∧ f = 0 ∨ s.nvContent? 3 = some (.dict v f) →
    s.loadDict.dict.vals = v ∧ s.loadDict.resil.fatalCount = BitVec.ofNat 32 f ∧ s.loadDict.boot.loaded = true ∧
    s.loadDict.net.ownId = Assoc.get 0 v (0x5000 * 256 + 1) ∧ (s.loadDict.net.ownDom = true ↔ Assoc.get 0 v (0x5000 * 256 + 2) = 1) ∧
    (∀ n < 48, Assoc.get 1 v ((0x5500 + n) * 256 + 8) = 0 → (Assoc.get {} s.loadDict.net.links n).enabled = false)) ∧
  (∀ (s r : State), r = s.resetUnits → r.rings = [] ∧ r.tents = [] ∧ r.chans = [] ∧
    r.hub = { journal := s.hub.journal.map (fun j => if j.complete then j else { j with closed := true }) } ∧
    r.net = { links := Assoc.mapVals (fun _ (k : Link) => { enabled := k.enabled }) s.net.links, routes := s.net.routes
              excluded := s.net.excluded, ownId := s.net.ownId, ownDom := s.net.ownDom, echoTarget := s.net.echoTarget } ∧
    r.islands = Assoc.mapVals (fun _ (i : Island) => { i with st := .gated, waking := false, idleSince := none, measured := none }) s.islands ∧
    r.boot = { s.boot with state := 0, cfgSpace := false, mailbox := false, queues := false, memory := false, links := false, identity := none
                           metaKey := 0, quote := none } ∧
    r.yard = { s.yard with droop := [], mix := [], slots := [] } ∧ r.dram = s.dram ∧ r.nv = s.nv ∧ r.nvSaving = s.nvSaving ∧
      r.clocks = s.clocks ∧ r.inputs = s.inputs ∧ r.trip = s.trip ∧
    r.dict.vals = s.dict.vals ∧ r.resil = s.resil ∧ r.periods = s.periods ∧ r.pending = s.pending) ∧
  (∀ (rails : W16) (s : State) r, r = rails &&& 0x7FFF#16 →
    (r = 0 ∨ s.trip.latched = true → exec (.railFault rails) s = .next (if r.getLsbD 1 then { s with inputs := s.inputs.preIo } else s)) ∧
    (∀ u, r ≠ 0 → s.trip.latched = false → u = s.resetUnits → exec (.railFault rails) s = .next { u with
      boot := { u.boot with rails := false, railFault := r }, nvSaving := Assoc.del s.nvSaving 4
      inputs := if r.getLsbD 1 then s.inputs.preIo else s.inputs })) ∧
  (∀ (s : State), exec .powerLoss s = .next { State.reset with pending := s.pending, free := s.free, out := s.out, nv := s.nv }) ∧
  (∀ (b : NvBank) n, b.holds n = true ↔ b.magic = 0x4E534554 ∧ b.set.toNat = n ∧ b.length.toNat = b.content.image.length ∧
    b.length.toNat + 32 ≤ nvBankSize n ∧ b.crc = BitVec.ofNat 32 (crc32c (leBytes 8 (b.magic.toNat * 2 ^ 32 + b.set.toNat * 2 ^ 24) ++
      leBytes 8 (b.seq.toNat * 2 ^ 32 + b.length.toNat) ++ b.content.image))) ∧
  (∀ (x : NvSet) (n : Fin 9) c (b : NvBank), c.image.length + 32 ≤ nvBankSize n → (x.save n c).chosen? n = some b →
    b.content = c ∧ b.seq = (match x.chosen? n with | some a => a.seq + 1 | none => 1)) ∧
  (∀ (x : NvSet) (n : Fin 9) c, c.image.length + 32 ≤ nvBankSize n → ∃ b, (x.save n c).chosen? n = some b) ∧
  (∀ (x : NvSet) n c (a b : NvBank), a = x.bank0 → b = x.bank1 →
    (a.holds n = false → b.holds n = false → x.chosen? n = none ∧ x.erase n = { x with bank0 := {} } ∧
      x.save n c = { x with bank0 := nvBank n 1 c }) ∧
    (a.holds n = true → b.holds n = false ∨ b.seq = a.seq ∨ 2 ^ 31 ≤ (b.seq - a.seq).toNat →
      x.chosen? n = some a ∧ x.erase n = { x with bank1 := {} } ∧ x.save n c = { x with bank1 := nvBank n (a.seq + 1) c }) ∧
    (b.holds n = true → a.holds n = false ∨ 1 ≤ (b.seq - a.seq).toNat ∧ (b.seq - a.seq).toNat ≤ 2 ^ 31 - 1 →
      x.chosen? n = some b ∧ x.erase n = { x with bank0 := {} } ∧ x.save n c = { x with bank0 := nvBank n (b.seq + 1) c })) ∧
  (∀ (s : State) n c, s.nvStart n c = { s with nv := Assoc.put s.nv n ((s.nvSet n).erase n), nvSaving := Assoc.put s.nvSaving n c }) ∧
  (∀ (s : State), (s.dict.unsaved = false ∨ Assoc.find? s.nvSaving 3 ≠ none → exec .nvSaveStart s = .next s) ∧
    (s.dict.unsaved = true → Assoc.find? s.nvSaving 3 = none → exec .nvSaveStart s = .next (State.nvStart { s with
      dict := { s.dict with unsaved := false } } 3 (.dict (persistentOf s.dict.vals) s.resil.fatalCount.toNat)))) ∧
  (∀ (set : Fin 9) (s t : State), (Assoc.find? s.nvSaving set.val = none → exec (.nvSaveComplete set) s = .next s) ∧
    (∀ c, Assoc.find? s.nvSaving set.val = some c → t = { s with nv := Assoc.put s.nv set.val ((Assoc.get {} s.nv set.val).save set c)
                                                                 nvSaving := Assoc.del s.nvSaving set.val } →
      (∀ v f, c = .dict v f → exec (.nvSaveComplete set) s = .next { t with dict := { t.dict with saves := t.dict.saves + 1 } }) ∧
      (∀ b l, c = .ceilings b l → exec (.nvSaveComplete set) s = .next (t.modHub (fun h => h.takeCeilings b l))) ∧
      (∀ b, c = .bytes b → exec (.nvSaveComplete set) s = .next { t with boot := if s.boot.state = 3 then { t.boot with state := 0 }
        else { t.boot with fwPending := true } }) ∧
      ((∃ x, c = .voltage x) ∨ (∃ x, c = .margin x) ∨ (∃ x, c = .identity x) ∨ (∃ x, c = .memory x) ∨ (∃ x ok, c = .calibration x ok) →
        exec (.nvSaveComplete set) s = .next t))) ∧
  (∀ (h : Hub) b c k, Assoc.sortedFrom 0 c = true → (h.takeCeilings b c).slotCeil = b ∧
    ((h.takeCeilings b c).keySlot k).ceiling = Assoc.get b c k ∧
    ((h.takeCeilings b c).keySlot k).gen = (h.keySlot k).gen) ∧
  (∀ (s : State), (s.boot.rails = false ∨ s.boot.state ≠ 0 ∨ s.trip.latched = true ∨ s.inputs.sysReset.filtered = false ∨ s.clocks.refLost = true →
      exec .startFromRom s = .next s) ∧
    (s.boot.rails = true → s.boot.state = 0 → s.trip.latched = false → s.inputs.sysReset.filtered = true → s.clocks.refLost = false →
      (∀ e m, romVerify (s.nvSet 5) (s.nvSet 0) = .recovery e m → exec .startFromRom s = .next { s with
        clocks := { s.clocks with refStable := true, rootLocked := true }
        dict := { s.dict with sessions := [], staged0 := none }
        boot := { s.boot with
          state := 3, error := BitVec.ofNat 16 e, fwPending := false, fwVersion := 0, manifest := m, identity := none
          mr := List.replicate 8 (List.replicate 32 0), log := [], refusedExt := 0, quoteSeq := 0, quote := none } }) ∧
      (∀ m img bank e t up second, romVerify (s.nvSet 5) (s.nvSet 0) = .boot m img bank e → up = s.inputs.perst.filtered →
        second = (e != 0 || s.unsealed.any (fun x => x.2.2) || s.voltTable?.any (fun x => x.2.2)) →
        t = (List.range 32).foldl (fun (u : State) c => u.modChan c (fun x => { x with train := .training 1 })) ((State.measure { s with
          boot := { s.boot with metaKey := (match s.unsealed with
            | some x => BitVec.ofNat 128 (beNat ((kdf x.2.1.ds "EZ4832 metadata").take 16))
            | none => 0) } } m img).startKeys.startTents.startCycles) → exec .startFromRom s = .next { t with
          clocks := { t.clocks with refStable := true, rootLocked := true }
          dict := { t.dict with sessions := [], staged0 := none }
          boot := { t.boot with
            state := 2, error := BitVec.ofNat 16 ((if second then 0x10 else 0) + (if s.unsealed = none then 0x20 else 0) +
              (if s.voltTable? = none then 0x40 else 0))
            cfgSpace := up, mailbox := up, queues := up && t.tentsMeasured, memory := false, links := false, fwBank := bank, fwPending := false
            fwVersion := BitVec.ofNat 32 (fwVersionOf img), manifest := some m, identity := s.unsealed.map (fun x => x.2.1), quoteSeq := 0, quote := none } }))) ∧
  (∀ (s : State) b c, s.nvContent? 7 = some (.ceilings b c) →
    (0xFFFFF ≤ b ∨ (∃ p ∈ c, 0xFFFFF ≤ p.2) → s.startKeys.dram = [] ∧ ∀ k, s.startKeys.hub.keySlot k = { gen := 1, ceiling := 1 }) ∧
    (b < 0xFFFFF → (∀ p ∈ c, p.2 < 0xFFFFF) → s.startKeys.dram = s.dram ∧
      ∀ k, s.startKeys.hub.keySlot k = { gen := Assoc.get b c k, ceiling := Assoc.get b c k })) ∧
  (∀ (x : NvSet) n (α : Type) (pass : NvBank → Option α) (a b : NvBank), (x.chosen? n = none → x.firstPass n pass = none) ∧
    (x.chosen? n = some a → ∀ v, pass a = some v → ∃ i, x.bank i = a ∧ x.firstPass n pass = some (i, v, false)) ∧
    (x.chosen? n = some a → pass a = none → b = x.bank (x.target n) →
      (b.holds n = true → ∀ v, pass b = some v → x.firstPass n pass = some (x.target n, v, true)) ∧
      (b.holds n = false ∨ pass b = none → x.firstPass n pass = none))) ∧
  (∀ (s : State), s.unsealed = (s.nvSet 4).firstPass 4 (fun b => match b.content with | .identity i => i.unseal s.boot.puf | _ => none)) ∧
  (∀ (x : SealedId) sram, x.unseal sram = (Config.fuzzyExtract sram x.helper).bind x.openWith) ∧
  (∀ (i : Identity) nonce, i.ds.length = 32 → i.priv.length = 32 → nonce.length = 12 → (i.seal nonce).openWith i.kPuf = some i) ∧
  (∀ (s : State) t same, (∀ w, s.startTent none same w t = s.modIsland t (fun i => { i with
      st := .gated, waking := false, fenced := true, vTest := 0 })) ∧
    (∀ (l : List TestedTent) v (words : Option (List W64)) old m w (fence stuck : Bool), l[t]? = some v → old = words.bind (fun ws => ws[t]?) →
      m = (match old with | some x => mAge x | none => 0) →
      w = marginWord v.vTest m (match old with | some x => roDrift x | none => 0) (match old with | some x => slackPs x | none => 1023)
        (if 900 < v.vTest + 25 + m then 3 else if 900 - (v.vTest + 25 + m) < 50 then 2 else if m = 0 then 0 else 1) →
      stuck = (same && (s.island t).stuck) → fence = (ageState w == 3 || stuck) →
      s.startTent (some l) same words t = State.setGoal (s.modIsland t (fun i => { i with
          st := if fence then .gated else .active, waking := false, fenced := fence, stuck := stuck, idleSince := none
          dead := i.dead && stuck, raised := false, vTest := v.vTest, pStatic := v.pStatic, fTest := v.fTest, margin := w }))
        t (targetMv v.vTest m))) ∧
  (∀ (s : State) b, s.startTents.boot.voltSeq = s.voltTable?.map (fun x => x.2.1.1) ∧ (s.voltTable? = none → s.startTents = { (List.range 8).foldl
      (fun (u : State) t => u.startTent none false b t) s with boot := { s.boot with voltSeq := none } }) ∧
    (∀ t < 8, s.startCycles.tent t = { s.tent t with cycles := 0, cyclesFrom := s.periods })) ∧
  (∀ (chan : ChanId) r (s : State) x, x = s.chan chan.val → (s.boot.state ≠ 2 ∨ x.train = .trained ∨ (∃ n, x.train = .failed n) →
      exec (.channelTrained chan r) s = .next s) ∧
    (s.boot.state = 2 → x.train = .untrained ∨ (∃ n, x.train = .training n) →
      (∀ n, r = .failed n → exec (.channelTrained chan r) s = .next (State.linksSettled (s.modChan chan.val (fun x => { x with train := .failed n })))) ∧
      (∀ serial spd t, r = .trained serial spd → t = s.modChan chan.val (fun x => { x with spd := some spd }) →
        exec (.channelTrained chan r) s = .next (if { spd with rate := 13200 } = ({} : Spd) ∧ 13200 ≤ spd.rate then
          ((t.loadChan chan.val serial).memorySettled).retryHeld.retryFetch
        else State.linksSettled (t.modChan chan.val (fun x => { x with train := .failed 1 })))))) ∧
  ∀ (s : State) c serial (n : NvChan), (∃ m, s.nvContent? 6 = some (.memory m) ∧ Assoc.find? m c = some n) →
    (n.serial = some serial → s.loadChan c serial = s.modChan c (fun x => { x with
      train := .trained, serial, nvSerial := some serial, erasures := n.erasures, remaps := n.remaps })) ∧
    (n.serial ≠ some serial → (s.loadChan c serial).chans = (s.modChan c (fun x => { x with
        train := .trained, serial, nvSerial := some serial, erasures := [], remaps := n.remaps })).chans ∧
      (s.loadChan c serial).dram = s.dram.filter (fun e => (placeOf e.1).channel != c))

/-- R419 to R425, R427 to R430, R451: messages to the object dictionary. HELLO makes a session with a number and a nonce of its own, or answers BUSY
to a ninth; PROOF opens it when its tag fits the class secret, and a proof that fails is counted, eight of one source in 60 s lock it out. A
request needs a session, its tag and a greater SEQ, or comes by the mailbox with SESSION 0; a repeated SEQ gets the kept response. What a request
fails by has one order (log entry 56); requests are handled as they come (196). A READ gives the value or a segment. CLOSE, a session's timeout,
DISCOVER, the mailbox's DICT_MESSAGE and
the port's own answers follow. -/
def Obligations.ControlMessages : Prop :=
  (∀ (s : State) (m : Msg) a port, s.send .mailbox m = (s.emit (.reply .mailbox m)).emit (.mailboxReturn 0) ∧
    s.send (.net a port) m = (if s.dict.duplicate then s else s.emit (.reply (.net a port) m)) ∧
    (s.reaches .mailbox = true ↔ s.boot.mailbox = true ∧ s.boot.cfgSpace = true) ∧
    (s.reaches (.net a port) = true ↔ s.portMode ≠ .off ∧ s.dict.netLink = true ∧
      port = if s.portMode = .recovery then 47230 else s.dict.udpPort)) ∧
  (∀ via (m : Msg) (s : State), (s.reaches via = false ∨ s.portMode = .recovery ∨ m.type ≠ 1 → exec (.hello via m) s = .next s) ∧
    (s.reaches via = false ∨ s.portMode = .recovery ∨ m.type ≠ 3 → exec (.proof via m) s = .next s) ∧
    (s.reaches via = false ∨ s.portMode = .recovery ∨ m.type ≠ 9 → exec (.discover via m) s = .next s) ∧
    (s.reaches via = true → s.portMode ≠ .recovery →
      (m.type = 1 → m.version ≠ 1 ∨ m.payload.length ≠ 16 → exec (.hello via m) s = .next s.dropMsg) ∧
      (m.type = 3 → m.version ≠ 1 → exec (.proof via m) s = .next s.dropMsg) ∧ (m.type = 9 → m.version ≠ 1 →
        exec (.discover via m) s = .next s.dropMsg) ∧
      (m.type = 9 → m.version = 1 → exec (.discover via m) s = .next (s.send via (response m 7 0 0 0
        (serialBytes ++ leBytes 2 s.net.ownId ++ leBytes 1 (if s.net.ownDom then 1 else 0)) []))) ∧
      (m.type = 1 → m.version = 1 → m.payload.length = 16 →
        (∀ a port, via = .net a port → a ∈ s.dict.ignored → exec (.hello via m) s = .next s) ∧
        ((∀ a port, via = .net a port → a ∉ s.dict.ignored) →
          (8 ≤ (s.dict.sessions.filter (fun p => p.2.opened)).length → exec (.hello via m) s = .next (s.send via (response m 4 8 0 0 [] []))) ∧
          (∀ n, (s.dict.sessions.filter (fun p => p.2.opened)).length < 8 → n = s.dict.nextSession → ∃ nonce, nonce.length = 16 ∧
            ∀ x : Session, x = { cls := m.cls, ctx := m.context.toNat, via, clientNonce := m.payload, deviceNonce := nonce
                                 lastUse := s.periods } → exec (.hello via m) s = .next (State.send { s with free := s.free + 1, dict := { s.dict with
              sessions := Assoc.put s.dict.sessions n.toNat x, nextSession := if n = 0xFFFFFFFF then 1 else n + 1 } } via
                (response m 2 0 n 0 nonce []))))) ∧
      (m.type = 3 → m.version = 1 →
        (Assoc.find? s.dict.sessions m.session.toNat = none → exec (.proof via m) s = .next (s.proofFailed via m)) ∧
        (∀ x, Assoc.find? s.dict.sessions m.session.toNat = some x →
          (x.opened = true ∨ x.via ≠ via → exec (.proof via m) s = .next s.dropMsg) ∧
          (x.opened = false → x.via = via →
            (s.secret? x.cls.toNat x.ctx = none → exec (.proof via m) s = .next (s.proofFailed via m)) ∧
            (∀ k, s.secret? x.cls.toNat x.ctx = some k →
              (m.tag ≠ hmacSm3 k (msgHeader m ++ (x.clientNonce ++ x.deviceNonce)) → exec (.proof via m) s = .next (s.proofFailed via m)) ∧
              (m.tag = hmacSm3 k (msgHeader m ++ (x.clientNonce ++ x.deviceNonce)) →
                8 ≤ (s.dict.sessions.filter (fun p => p.2.opened)).length →
                exec (.proof via m) s = .next (s.send via (response m 4 8 m.session 0 [] []))) ∧
              (∀ key, m.tag = hmacSm3 k (msgHeader m ++ (x.clientNonce ++ x.deviceNonce)) →
                (s.dict.sessions.filter (fun p => p.2.opened)).length < 8 →
                key = hmacSm3 k (ascii "EZ4832 session" ++ (x.clientNonce ++ x.deviceNonce) ++ leBytes 4 m.session.toNat) →
                exec (.proof via m) s = .next (State.send { s with dict := { s.dict with
                  sessions := Assoc.put s.dict.sessions m.session.toNat { x with opened := true, key, lastUse := s.periods } } } via
                    (response m 4 0 m.session 0 [] key))))))))) ∧
  (∀ (s : State) (m : Msg) a port (l : List Nat) (d : Dict),
    l = s.periods :: (Assoc.get [] s.dict.failures a).filter (fun t => decide (s.periods < t + 6000000)) → d = { s.dict with
      authFailures := s.dict.authFailures + 1, sessions := Assoc.del s.dict.sessions m.session.toNat } →
    s.proofFailed (.net a port) m = State.send { s with dict := if 8 ≤ l.length then
        { d with failures := Assoc.del d.failures a, ignored := insertNat a d.ignored } else { d with failures := Assoc.put d.failures a l } }
      (.net a port) (response m 4 9 m.session 0 [] [])) ∧
  (∀ source session (s : State), exec (.helloLockoutEnd source) s = .next { s with dict := { s.dict with
      ignored := s.dict.ignored.filter (fun a => a != source) } } ∧
    (∀ x : Session, Assoc.find? s.dict.sessions (BitVec.toNat session) = some x → exec (.sessionTimeout session) s =
      .next (if x.lastUse + 6000000 ≤ s.periods then { s with dict := { s.dict with sessions := Assoc.del s.dict.sessions session.toNat } } else s)) ∧
    (Assoc.find? s.dict.sessions session.toNat = none → exec (.sessionTimeout session) s = .next s)) ∧
  (∀ (s : State) via (m : Msg), (s.reaches via = false → s.admitReq via m = (s, none)) ∧
    (s.reaches via = true → m.version ≠ 1 → s.admitReq via m = (s.dropMsg, none)) ∧
    (s.reaches via = true → m.version = 1 → s.portMode = .recovery →
      s.admitReq via m = (s, if m.session = 0 then some ⟨3, 0, none, []⟩ else none)) ∧
    (s.reaches via = true → m.version = 1 → s.portMode ≠ .recovery → m.session = 0 → via = .mailbox → s.admitReq via m =
      (s, some ⟨if m.cls = 1 then 1 else if m.cls = 0 ∧ s.dictVal 0x7000 5 1 = 1 ∧
        s.boot.identity ≠ none then 0 else 4, m.context.toNat, none, []⟩)) ∧
    (s.reaches via = true → m.version = 1 → s.portMode ≠ .recovery → ¬(m.session = 0 ∧ via = .mailbox) →
      (∀ x u, Assoc.find? s.dict.sessions m.session.toNat = some x → x.opened = true → x.via = via →
        u = { s with dict := { s.dict with sessions := Assoc.put s.dict.sessions m.session.toNat { x with lastUse := s.periods } } } →
        (m.tag ≠ hmacSm3 x.key (msgHeader m ++ m.payload) → s.admitReq via m = ({ s with dict := { s.dict with
          netDrops := s.dict.netDrops + 1, authFailures := s.dict.authFailures + 1 } }, none)) ∧
        (m.tag = hmacSm3 x.key (msgHeader m ++ m.payload) → (x.lastResp = none ∨ x.lastSeq.toNat < m.seq.toNat →
            s.admitReq via m = (u, some ⟨x.cls.toNat, x.ctx, some m.session, x.key⟩)) ∧
          (∀ r, x.lastResp = some r → (m.seq = x.lastSeq → s.admitReq via m = (u.send via r, none)) ∧
            (m.seq.toNat < x.lastSeq.toNat → s.admitReq via m = (u.dropMsg, none))))) ∧
      ((∀ x, Assoc.find? s.dict.sessions m.session.toNat = some x → x.opened = false ∨ x.via ≠ via) →
        s.admitReq via m = (s.send via (response m 7 9 m.session 0 [] []), none)))) ∧
  (∀ (s : State) via (m : Msg), (m.type ≠ 5 → exec (.dictRead via m) s = .next s) ∧
    (∀ t, m.type = 5 → s.admitReq via m = (t, none) → exec (.dictRead via m) s = .next t) ∧
    (∀ t g, m.type = 5 → s.admitReq via m = (t, some g) → (g.cls = 3 → m.index = 0x1000 ∨ m.index = 0x1200) →
      (∀ e, t.checkMsg m g false = (e, none) → exec (.dictRead via m) s = .next (t.answerMsg via m g e m.dtype.toNat [])) ∧
      (∀ c e u, t.checkMsg m g false = (c, some e) → (t.readValue m.index.toNat m.sub.toNat e = (u, none) →
          exec (.dictRead via m) s = .next (u.answerMsg via m g 0x0A e.dtype [])) ∧
        (∀ v, t.readValue m.index.toNat m.sub.toNat e = (u, some v) → exec (.dictRead via m) s = .next (
          if e.dtype ≠ 0x0A then u.answerMsg via m g 0 e.dtype v
          else if v.length < m.offset.toNat then u.answerMsg via m g 6 e.dtype []
          else u.answerMsg via m g 0 e.dtype ((v.drop m.offset.toNat).take m.length.toNat))))) ∧
    (∀ t g, m.type = 5 → s.admitReq via m = (t, some g) → g.cls = 3 → m.index ≠ 0x1000 → m.index ≠ 0x1200 → exec (.dictRead via m) s = .next t)) ∧
  (∀ (s : State) (m : Msg) (g : Grant) write, (dictRows m.index.toNat = [] → s.checkMsg m g write = (1, none)) ∧
    (dictRows m.index.toNat ≠ [] →
      ((g.cls = 1 ∧ (write = true ∨ tenantReads g.ctx m.index.toNat = false)) ∨ (g.cls = 0 ∧ write = true ∧ m.index = 0x7200 ∧ m.sub = 2) ∨
        3 < g.cls → s.checkMsg m g write = (5, none)) ∧
      (g.cls = 2 ∨ g.cls = 3 ∨ (g.cls = 1 ∧ write = false ∧ tenantReads g.ctx m.index.toNat = true) ∨
          (g.cls = 0 ∧ ¬(write = true ∧ m.index = 0x7200 ∧ m.sub = 2)) →
        (dictEntry m.index.toNat m.sub.toNat = none → s.checkMsg m g write = (2, none)) ∧
        (∀ e bad, dictEntry m.index.toNat m.sub.toNat = some e → bad = (match typeSize e.dtype with
            | some k => decide (m.length.toNat ≠ k)
            | none => decide ((if e.dtype = 0x0A then 1024 else 255) < m.length.toNat)) →
          (m.dtype.toNat ≠ e.dtype ∨ bad = true ∨ (write = true ∧ m.payload.length ≠ m.length.toNat) → s.checkMsg m g write = (7, none)) ∧
          (m.dtype.toNat = e.dtype → bad = false → (write = true → m.payload.length = m.length.toNat) →
            (write = true → e.access = .ro ∨ e.access = .const → s.checkMsg m g write = (3, none)) ∧
            (write = false → e.access = .wo → s.checkMsg m g write = (4, none)) ∧
            (¬(write = true ∧ (e.access = .ro ∨ e.access = .const)) → ¬(write = false ∧ e.access = .wo) →
              (s.portMode = .always → alwaysServed m.index.toNat = false → s.checkMsg m g write = (0x0A, none)) ∧
              (s.portMode ≠ .always ∨ alwaysServed m.index.toNat = true →
                (e.dtype ≠ 0x0A → m.offset ≠ 0 → s.checkMsg m g write = (6, none)) ∧
                (e.dtype = 0x0A ∨ m.offset = 0 → s.checkMsg m g write = (0, some e))))))))) ∧
  (∀ (s : State) via (m : Msg), (m.type ≠ 8 → exec (.dictClose via m) s = .next s) ∧
    (∀ t, m.type = 8 → s.admitReq via m = (t, none) → exec (.dictClose via m) s = .next t) ∧
    (∀ t g, m.type = 8 → s.admitReq via m = (t, some g) → exec (.dictClose via m) s = .next (match g.session with
      | some n => { t with dict := { t.dict with sessions := Assoc.del t.dict.sessions n.toNat } }
      | none => t))) ∧
  (∀ a port (m : Msg) (s : State), exec (.dictMessage (.net a port) m) s = .next s ∧
    (m.type = 1 → exec (.dictMessage .mailbox m) s = exec (.hello .mailbox m) s) ∧ (m.type = 3 →
      exec (.dictMessage .mailbox m) s = exec (.proof .mailbox m) s) ∧
    (m.type = 5 → exec (.dictMessage .mailbox m) s = exec (.dictRead .mailbox m) s) ∧
    (m.type = 6 → exec (.dictMessage .mailbox m) s = exec (.dictWrite .mailbox m) s) ∧
    (m.type = 8 → exec (.dictMessage .mailbox m) s = exec (.dictClose .mailbox m) s) ∧
    (m.type = 9 → exec (.dictMessage .mailbox m) s = exec (.discover .mailbox m) s) ∧
    (m.type.toNat ∉ [1, 3, 5, 6, 8, 9] → exec (.dictMessage .mailbox m) s = .next s)) ∧
  ∀ (s : State) target dest data, (s.portMode ≠ .off → s.dict.duplicate = false → target = portAddress → dest = portAddress →
      exec (.neighborSolicitation target) s = .next (s.emit (.neighborAdvertisement target)) ∧
      exec (.echoRequest dest data) s = .next (s.emit (.echoReply dest data))) ∧
    (s.portMode = .off ∨ s.dict.duplicate = true ∨ target ≠ portAddress → exec (.neighborSolicitation target) s = .next s) ∧
    (s.portMode = .off ∨ s.dict.duplicate = true ∨ dest ≠ portAddress → exec (.echoRequest dest data) s = .next s) ∧
    exec .duplicateAddressDetection s = .next { s with dict := { s.dict with duplicate := true } }

/-- R264, R276, R278, R288, R392, R394, R395, R406, R427, R429, R431, R432, R437 to R439, R451 to R453, R456 to R458: writes of the dictionary. A row
takes the WRITE of its own entry and leaves any other message alone. A request that is admitted and passes its checks runs the entry, whose
outcome is the response; what each entry does with a value follows. BANKS_AT_CAP_PEAK is read, and starts again from the banks at their cap now.
A FW_IMAGE or MANIFEST is staged in segments with contiguous offsets, and
stored when the last has come and passes and fits its bank (log entry 192). A quote is signed by the identity key with a free random number (log
entry 57); a new OPERATOR_KEY is sealed under a free nonce (185). -/
def Obligations.DictionaryWrites : Prop :=
  (∀ (s : State) via (m : Msg) (f : Behaviour), (m.type ≠ 6 → s.writeMsg via m f = s) ∧
    (∀ t, m.type = 6 → s.admitReq via m = (t, none) → s.writeMsg via m f = t) ∧
    (∀ t g, m.type = 6 → s.admitReq via m = (t, some g) → g.cls = 3 → m.index ≠ 0x7200 ∨ (m.sub ≠ 1 ∧ m.sub ≠ 2) → s.writeMsg via m f = t) ∧
    (∀ t g, m.type = 6 → s.admitReq via m = (t, some g) → (g.cls = 3 → m.index = 0x7200 ∧ (m.sub = 1 ∨ m.sub = 2)) →
      (∀ e, t.checkMsg m g true = (e, none) → s.writeMsg via m f = t.answerMsg via m g e m.dtype.toNat []) ∧
      (∀ c e u status, t.checkMsg m g true = (c, some e) → f t g m = (u, status) → s.writeMsg via m f = u.answerMsg via m g status e.dtype []))) ∧
  (∀ via (m : Msg) (s : State) ix sub, ix = m.index.toNat → sub = m.sub.toNat →
    exec (.dictWrite via m) s = .next (s.writeMsg via m (behaviourOf ix sub)) ∧
    (∀ p ∈ [((Instr.saveNow via m, saveEntry), 0x1010, 1), ((.capW via m, capEntry), 0x2000, 1), ((.fracApply via m, fracEntry), 0x2001, 10),
        ((.learnReset via m, learnEntry), 0x2006, 1), ((.refSel via m, refEntry), 0x3000, 1), ((.echoTarget via m, echoEntry), 0x5000, 11),
        ((.excludeSet via m, excludeEntry), 0x5200, 2), ((.excludeClear via m, includeEntry), 0x5200, 3),
        ((.operatorKey via m, operatorKeyEntry), 0x7000, 1), ((.mr7Extend via m, mr7Entry), 0x7101, 9),
        ((.quoteNonce via m, quoteEntry), 0x7102, 1), ((.fwImage via m, segmentEntry commitImage), 0x7200, 1),
        ((.manifest via m, segmentEntry commitManifest), 0x7200, 2), ((.restart via m, restartEntry), 0x7200, 3)],
      exec p.1.1 s = .next (if ix = p.2.1 ∧ sub = p.2.2 then s.writeMsg via m p.1.2 else s) ∧
      behaviourOf p.2.1 p.2.2 = p.1.2) ∧
    exec (.route via m) s = .next (if 0x5100 ≤ ix ∧ ix ≤ 0x511F ∧ 1 ≤ sub ∧ sub ≤ 0x80 then s.writeMsg via m routeEntry else s) ∧
    exec (.linkEnable via m) s = .next (if 0x5500 ≤ ix ∧ ix ≤ 0x552F ∧ sub = 8 then s.writeMsg via m enableEntry else s) ∧
    exec (.reEnable via m) s = .next (if 0x5500 ≤ ix ∧ ix ≤ 0x552F ∧ sub = 9 then s.writeMsg via m reEnableEntry else s) ∧
    exec (.tenantKey via m) s = .next (if 0x6800 ≤ ix ∧ ix ≤ 0x6BFF ∧ sub = 1 then s.writeMsg via m tenantKeyEntry else s) ∧
    exec (.banksAtCapPeak via m) s = .next (if 0x4200 ≤ ix ∧ ix ≤ 0x421F ∧ sub = 0x12 then s.readMsg via m else s)) ∧
  (∀ (s : State) c (e : DictEntry) n, c < 32 → dictEntry (0x4200 + c) 0x12 = some e → typeSize e.dtype = some n → s.readValue (0x4200 + c) 0x12 e =
    (s.modChanCounters c (fun k => { k with banksAtCapPeak := (s.tent (c / 4)).capped c }),
      some (leBytes n (s.chan c).counters.banksAtCapPeak))) ∧
  (∀ ix sub, (0x5100 ≤ ix → ix ≤ 0x511F → behaviourOf ix sub = routeEntry) ∧
    (0x5500 ≤ ix → ix ≤ 0x552F → behaviourOf ix sub = if sub = 9 then reEnableEntry else enableEntry) ∧
    (0x6800 ≤ ix → ix ≤ 0x6BFF → behaviourOf ix sub = tenantKeyEntry) ∧
    ((∀ p ∈ [(0x1010, 1), (0x2000, 1), (0x2001, 10), (0x2006, 1), (0x3000, 1), (0x5000, 11), (0x5200, 2), (0x5200, 3), (0x7000, 1), (0x7101, 9),
        (0x7102, 1), (0x7200, 1), (0x7200, 2), (0x7200, 3)], (ix, sub) ≠ p) → ¬(0x5100 ≤ ix ∧ ix ≤ 0x511F) → ¬(0x5500 ≤ ix ∧ ix ≤ 0x552F) →
      ¬(0x6800 ≤ ix ∧ ix ≤ 0x6BFF) → behaviourOf ix sub = storeEntry)) ∧
  (∀ (s : State) (g : Grant) (m : Msg) v, v = leNat m.payload →
    (∀ w, realBad v = false → w = (if realOf v < 800 then 0x44480000 else if 2000 < realOf v then 0x44FA0000 else v) → capEntry s g m =
      (s.modYard (fun y => { y with capW := BitVec.ofNat 32 w, capWritten := s.periods, lapsed := false }), 0)) ∧
    (realBad v = true → capEntry s g m = (s, 6)) ∧
    (∀ l, l = (List.range 8).map (fun t => s.dictVal 0x2001 (2 + t) 32) → fracEntry s g m =
      if l.sum = 256 then (s.modYard (fun y => { y with fracs := l }), 0) else (s, 0x0A)) ∧
    learnEntry s g m = (s.modYard (fun y => { y with learned := [] }), 0) ∧
    (2 < v → refEntry s g m = (s, 6)) ∧
    ((v = 1 ∧ s.linkUp (s.dictVal 0x3000 2 0) = false) ∨ (v = 2 ∧ s.boot.cfgSpace = false) → refEntry s g m = (s, 0x0A)) ∧
    (v = 0 ∨ (v = 1 ∧ s.linkUp (s.dictVal 0x3000 2 0) = true) ∨ (v = 2 ∧ s.boot.cfgSpace = true) → refEntry s g m =
      ({ s with clocks := { s.clocks with active := v }, dict := { s.dict with
        vals := Assoc.put s.dict.vals (0x3000 * 256 + 1) v, unsaved := s.dict.unsaved || dictPersistent 0x3000 1 } }, 0)) ∧
    (Assoc.find? s.nvSaving 3 = none → saveEntry s g m = (s.saveDict, 0)) ∧
    (Assoc.find? s.nvSaving 3 ≠ none → saveEntry s g m = ({ s with dict := { s.dict with unsaved := true } }, 0))) ∧
  (∀ (s : State) (g : Grant) (m : Msg) v l, v = leNat m.payload → l = m.index.toNat - 0x5500 →
    (routeBad v = true → routeEntry s g m = (s, 6)) ∧
    (routeBad v = false → routeEntry s g m = (s.modNet (fun n => { n with
      routes := Assoc.put n.routes ((m.index.toNat - 0x5100) * 128 + (m.sub.toNat - 1)) (BitVec.ofNat 32 v &&& 0x8FFFFFFF#32) }), 0)) ∧
    (4095 < v → excludeEntry s g m = (s, 6) ∧ includeEntry s g m = (s, 6) ∧ echoEntry s g m = (s, 6)) ∧
    (v ≤ 4095 → excludeEntry s g m = (s.exclude v, 0) ∧
      includeEntry s g m = (s.modNet (fun n => { n with excluded := n.excluded.filter (fun d => d != v) }), 0) ∧
      (s.portMode = .always → echoEntry s g m = (s, 0x0A)) ∧
      (∀ p : Packet, s.portMode ≠ .always → p = { op := 8, vc := 3, dstId := Fin.ofNat 4096 v, srcId := Fin.ofNat 4096 s.net.ownId
                                                  dstDom := s.net.ownDom, srcDom := s.net.ownDom, tag := s.net.nextTag, addr := 2 } →
        echoEntry s g m = (State.forward (s.modNet (fun n => { n with
          nextTag := n.nextTag + 1, echoTarget := v, echoTag := some n.nextTag })) p, 0))) ∧
    (1 < v → enableEntry s g m = (s, 6)) ∧
    (v = 1 → enableEntry s g m = (State.modLink (s.store m.index.toNat 8 1) l (fun k => { k with enabled := true }), 0)) ∧
    (v = 0 → enableEntry s g m = (State.linksSettled (((s.store m.index.toNat 8 0).dropLink l).modLink l (fun k => { k with
      enabled := false, st := .down, attempts := 0 })), 0)) ∧
    reEnableEntry s g m = (s.modLink l (fun k => if k.st = .failed then { k with st := .down, attempts := 0 } else k), 0)) ∧
  (∀ (s : State) d t u, t = s.modNet (fun n => { n with excluded := insertNat d n.excluded }) →
    u = ((t.net.outstanding.filter (fun p => p.2.dev == d)).map (·.1)).foldl (fun (s : State) x => s.failRequest x 1) t →
    ∀ w : State, w = ((u.net.colls.filter u.excludes).map (·.ref)).foldl (fun (s : State) r => (s.endColl r 1).pump r) u →
    s.exclude d = ((w.hub.turns.filter (fun t => t.2.exports.any (fun e => e.isNone || e == some d))).map (·.1)).foldl (fun (s : State) n =>
      s.signalTurn n false 0 true none) w) ∧
  (∀ (s : State) (g : Grant) (m : Msg), m.payload.length ≠ 32 → operatorKeyEntry s g m = (s, 7) ∧ tenantKeyEntry s g m = (s, 7) ∧
    mr7Entry s g m = (s, 7) ∧ quoteEntry s g m = (s, 7)) ∧
  (∀ (s : State) (g : Grant) (m : Msg), m.payload.length = 32 →
    (s.boot.identity = none → operatorKeyEntry s g m = (s, 0x0A) ∧ quoteEntry s g m = (s, 0x0A)) ∧
    (∀ i, s.boot.identity = some i → ∃ (nonce : List Byte) (n : Nat), nonce.length = 12 ∧
      ∀ j : Identity, j = { i with operatorKey := some m.payload } →
      operatorKeyEntry s g m = (State.nvStart { s with
        free := n, boot := { s.boot with identity := some j }
        dict := { s.dict with sessions := s.dict.sessions.filter (fun p => p.2.cls != 0 || (g.session.map (·.toNat) == some p.1)) } }
        4 (.identity (j.seal nonce)), 0)) ∧
    tenantKeyEntry s g m = ({ s with dict := { s.dict with
      tenantKeys := Assoc.put s.dict.tenantKeys (m.index.toNat - 0x6800) m.payload } }, 0) ∧
    (256 ≤ s.boot.log.length → mr7Entry s g m = ({ s with boot := { s.boot with refusedExt := min (s.boot.refusedExt + 1) 0xFFFF } }, 0x0A)) ∧
    (s.boot.log.length < 256 → ∃ type : Byte, mr7Entry s g m = ({ s with free := s.free + 1, boot := { s.boot with
      mr := patch s.boot.mr 7 [Sm3.hash (s.boot.mr.getD 7 [] ++ m.payload)]
      log := s.boot.log ++ [[7, type] ++ List.replicate 30 0 ++ m.payload] } }, 0)) ∧
    (∀ i, s.boot.identity = some i → ∃ (ks : List Nat) (n : Nat), ks.length = 4 ∧ (∀ k ∈ ks, 0 < k ∧ k < Sm2.n) ∧ ∀ body : List Byte,
      body = ascii "EZQT" ++ leBytes 4 1 ++ serialBytes ++ leBytes 4 s.boot.fwVersion.toNat ++
        leBytes 8 (s.boot.quoteSeq + 1).toNat ++ m.payload ++ s.boot.mr.flatten ++ Sm3.hash s.boot.log.flatten ++ leBytes 4 s.boot.log.length ++
        List.replicate 28 0 → quoteEntry s g m = ({ s with free := n, boot := { s.boot with
        quoteSeq := s.boot.quoteSeq + 1, quote := some (body ++ Sm2.signWith (beNat i.priv) (Sm2.digest i.pub body "EZ4832-ID") ks) } }, 0))) ∧
  (∀ (commit : State → List Byte → State × Nat) (s : State) (g : Grant) (m : Msg) (old all : List Byte),
    old = (match s.staged g with | some (i, j, b) => if i = m.index.toNat ∧ j = m.sub.toNat then b else [] | none => []) →
    all = (if m.offset = 0 then [] else old) ++ m.payload →
    (m.offset ≠ 0 → m.offset.toNat ≠ old.length → segmentEntry commit s g m = (s.setStaged g none, 6)) ∧
    (m.offset = 0 ∨ m.offset.toNat = old.length →
      (m.flags.getLsbD 0 = false → segmentEntry commit s g m = (s.setStaged g (some (m.index.toNat, m.sub.toNat, all)), 0)) ∧
      (m.flags.getLsbD 0 = true → segmentEntry commit s g m = commit (s.setStaged g none) all))) ∧
  (∀ (s : State) b fail store, fail = (fun r => (({ s with boot := { s.boot with updateResult := r } } : State), 0x0A)) →
    store = (fun n => if nvBankSize n < b.length + 32 then (s, 6) else
      (State.nvStart { s with boot := { s.boot with updateResult := 0 } } n (.bytes b), 0)) →
    (s.boot.manifest = none → commitImage s b = fail 2) ∧
    (∀ x, s.boot.manifest = some x → (∀ f, fwFails x b = some f → commitImage s b = fail f.result) ∧ (fwFails x b = none →
      commitImage s b = store 0)) ∧
    (manifestOk b = false → commitManifest s b = fail (if rootIndexOf b < rootFloorOf b then 5 else 1)) ∧
    (∀ x, manifestOk b = true → s.boot.manifest = some x → manifestVersionOf b ≤ manifestVersionOf x ∨ rootIndexOf b < rootFloorOf x →
      commitManifest s b = fail 5) ∧
    (manifestOk b = true → (∀ x, s.boot.manifest = some x → manifestVersionOf x < manifestVersionOf b ∧ rootFloorOf x ≤ rootIndexOf b) →
      (s.nextImageListed b = false → commitManifest s b = fail 2) ∧ (s.nextImageListed b = true → commitManifest s b = store 5))) ∧
  ∀ (s : State) (g : Grant) (m : Msg) ix sub v, ix = m.index.toNat → sub = m.sub.toNat → v = leNat m.payload →
    (v ≠ 1 → restartEntry s g m = (s, 6)) ∧ (v = 1 → s.trip.latched = true → restartEntry s g m = (s, 0x0A)) ∧
    (v = 1 → s.trip.latched = false → restartEntry s g m = (s.resetUnits, 0)) ∧
    (dictRangeBad ix sub v = true → storeEntry s g m = (s, 6)) ∧
    (∀ bad : Prop, bad = ((ix = 0x1100 ∧ sub = 2 ∧ v = 1 ∧ s.dictVal 0x1100 3 255 = 255) ∨
        (ix = 0x3000 ∧ sub = 2 ∧ s.dictVal 0x3000 1 0 = 1 ∧ s.linkUp v = false)) → dictRangeBad ix sub v = false →
      (bad → storeEntry s g m = (s, 0x0A)) ∧
      (¬bad → storeEntry s g m = ({ s with dict := { s.dict with
        vals := Assoc.put s.dict.vals (ix * 256 + sub) (if ix = 0x5000 ∧ sub = 6 then (BitVec.ofNat 32 v &&& 0x8FFFFFFF#32).toNat else v)
        unsaved := s.dict.unsaved || dictPersistent ix sub } }, 0)))

/-- R309, R385 to R416, R432 to R435, R456, R466 to R473: every command completes in every state, whatever its operands, but for a host access that
names nothing (log entry 1): no command is refused. None touches the queue of commands. And a command that is none of power, clocks, ageing,
start-up, board inputs, NV store and dictionary leaves the whole always-on domain as it was, but for the time since which a tent is idle (R410)
and the saves of sets 6 and 7, which keep the channels' records and the ceilings of key slots (R435). -/
def Obligations.EveryCommandCompletes : Prop :=
  ∀ (i : Instr) (s : State), (Spec.nowhere i → exec i s = .fault .noSuchAddress) ∧
    (¬Spec.nowhere i → goesOn (exec i s) ∧ ∀ t, exec i s = .next t → t.pending = s.pending ∧ (Spec.alwaysOnRow i = false →
      { t.aon with islands := [], nv := [] } = { s.aon with islands := [], nv := [] } ∧
      (∀ n, { t.island n with idleSince := none } = { s.island n with idleSince := none }) ∧
      ∀ k, k ≠ 6 → k ≠ 7 → t.nvSet k = s.nvSet k))

/-- R264, R276, R278, R309, R314, R387, R392, R394, R395, R410, R442, R468, R472: the block at power-up (R473). No rail is good and the ROM has not
run; no context, queue, command, turnstile, object or window exists; every link is Down, no route is valid and no device excluded; the cap is
2,000 W and the shares are equal, with nothing learned; targets are 750 mV and islands Power-gated; the filters hold reset active and the rest
inactive; no trip is latched; every dictionary entry has its default. What the manual gives no reset value is zero (log entry 3). The always-on
domain is sound, and the byte memories are in their canonical form. -/
def Obligations.PowerUp : Prop :=
  State.reset.pending = [] ∧ State.reset.out = [] ∧ State.reset.boot.state = 0 ∧ State.reset.boot.rails = false ∧
    State.reset.boot.cfgSpace = false ∧ State.reset.boot.memory = false ∧
    State.reset.hub.ctxs = [] ∧ State.reset.hub.queues = [] ∧ State.reset.hub.cmds = [] ∧ State.reset.hub.turns = [] ∧
    State.reset.hub.objs = [] ∧ State.reset.hub.windows = [] ∧ State.reset.hub.hostWindows = [] ∧ State.reset.hub.filter = [] ∧
    (∀ l, (State.reset.link l).st = .down ∧ (State.reset.link l).enabled = true) ∧ (∀ d, Assoc.get 0 State.reset.net.routes d = 0) ∧
    State.reset.net.excluded = [] ∧ realOf State.reset.yard.capW.toNat = 2000 ∧ State.reset.yard.effective = 2000 ∧
    State.reset.yard.fracs = List.replicate 8 32 ∧ State.reset.yard.learned = [] ∧
    (∀ t, (State.reset.island t).confirmed = 750 ∧ (State.reset.island t).goal = 750 ∧ (State.reset.island t).st = .gated) ∧
    State.reset.inputs.sysReset.filtered = false ∧ State.reset.inputs.perst.filtered = false ∧
    State.reset.inputs.brake.filtered = true ∧ State.reset.inputs.alert.filtered = true ∧ State.reset.trip.latched = false ∧
    (∀ index sub dflt, State.reset.dictVal index sub dflt = dflt) ∧ State.reset.dram = [] ∧ State.reset.nv = [] ∧ State.reset.aon.Sound ∧
    State.reset.memSound

/-- R387, R391, R394, R456, R468, R472, R473: the always-on domain stays sound under every step, from every state in which it is sound: no level or
floor passes 56 and no level falls below its floor, the shares sum to 256, a target moves at most 10 mV before the regulator has reported it, a
run of a board input ends at 8 samples, clocks are stopped while the trip is latched, the measurement log never passes 256 records. And only the
loss of VDD_AON clears the trip. -/
def Obligations.AlwaysOnStaysSound : Prop :=
  ∀ (s t : State), s.aon.Sound → step s = .next t → t.aon.Sound ∧
    (s.trip.latched = true → s.pending.head? ≠ some .powerLoss → t.trip.latched = true)

/-- R166, R202, R216, R217, R226, R344: every step keeps the byte memories in the one canonical form in which the model holds them, from every
state in which they have it: the stored slots and tags of every ell of the module, every ring's scratchpad, and what the host's port holds of
host memory list rising addresses and no byte that equals what an unlisted address reads as, so that equal contents are equal states. -/
def Obligations.MemoriesStayCanonical : Prop :=
  ∀ (s t : State), s.memSound → step s = .next t → t.memSound
end

