-- ==== Sys2Proof/Laws/State.lean ====
section
/-!
SUPPORT. One equation per field and named update of the state, and the table laws they rest on.
-/

namespace Sys2Proof.Machine

/-! ### Tables -/

/-- Reading the key that was put. -/
@[simp] theorem Assoc.find?_put_self {v : Type} (m : FMap v) (k : Nat) (x : v) : Assoc.find? (Assoc.put m k x) k = some x := by
  induction m with
  | nil => simp [Assoc.put, Assoc.find?]
  | cons p t ih =>
    obtain ⟨j, y⟩ := p
    simp only [Assoc.put]
    split
    · simp [Assoc.find?]
    · split
      · simp [Assoc.find?]
      · rename_i h1 h2
        simp [Assoc.find?, h1, h2, ih]

/-- Reading another key. -/
theorem Assoc.find?_put_ne {v : Type} (m : FMap v) {k j : Nat} (x : v) (h : j ≠ k) : Assoc.find? (Assoc.put m k x) j = Assoc.find? m j := by
  induction m with
  | nil => simp [Assoc.put, Assoc.find?, Ne.symm h]
  | cons p t ih =>
    obtain ⟨i, y⟩ := p
    simp only [Assoc.put]
    split
    · rename_i hik
      subst hik
      simp [Assoc.find?, Ne.symm h]
    · split
      · rename_i h1 h2
        simp only [Assoc.find?]
        split
        · exact absurd (by assumption) (Ne.symm h)
        · split
          · split
            · omega
            · split
              · rfl
              · omega
          · rfl
      · simp [Assoc.find?, ih]

/-- A table with a default, read at the key that was put. -/
@[simp] theorem Assoc.get_put_self {v : Type} (d : v) (m : FMap v) (k : Nat) (x : v) : Assoc.get d (Assoc.put m k x) k = x := by
  simp [Assoc.get]

/-- A table with a default, read at another key. -/
theorem Assoc.get_put_ne {v : Type} (d : v) (m : FMap v) {k j : Nat} (x : v) (h : j ≠ k) :
    Assoc.get d (Assoc.put m k x) j = Assoc.get d m j := by
  simp [Assoc.get, Assoc.find?_put_ne m x h]

/-- The order of keys survives a put. -/
theorem Assoc.sortedFrom_put {v : Type} (m : FMap v) (lo k : Nat) (x : v) (h : Assoc.sortedFrom lo m = true) (hk : lo ≤ k) :
    Assoc.sortedFrom lo (Assoc.put m k x) = true := by
  induction m generalizing lo with
  | nil => simp [Assoc.put, Assoc.sortedFrom, hk]
  | cons p t ih =>
    obtain ⟨j, y⟩ := p
    simp only [Assoc.sortedFrom, Bool.and_eq_true, decide_eq_true_eq] at h
    simp only [Assoc.put]
    split
    · rename_i e
      subst e
      simpa [Assoc.sortedFrom, hk] using h.2
    · split
      · rename_i h1 h2
        simp only [Assoc.sortedFrom, Bool.and_eq_true, decide_eq_true_eq]
        exact ⟨hk, h2, h.2⟩
      · rename_i h1 h2
        simp only [Assoc.sortedFrom, Bool.and_eq_true, decide_eq_true_eq]
        exact ⟨h.1, ih (j + 1) h.2 (by omega)⟩

/-- A lower bound of the keys may be lowered. -/
theorem Assoc.sortedFrom_mono {v : Type} (m : FMap v) {lo lo' : Nat} (h : Assoc.sortedFrom lo m = true) (hl : lo' ≤ lo) :
    Assoc.sortedFrom lo' m = true := by
  cases m with
  | nil => rfl
  | cons p t =>
    obtain ⟨j, y⟩ := p
    simp only [Assoc.sortedFrom, Bool.and_eq_true, decide_eq_true_eq] at h ⊢
    exact ⟨by omega, h.2⟩

/-- The order of keys survives a removal. -/
theorem Assoc.sortedFrom_del {v : Type} (m : FMap v) (lo k : Nat) (h : Assoc.sortedFrom lo m = true) :
    Assoc.sortedFrom lo (Assoc.del m k) = true := by
  induction m generalizing lo with
  | nil => rfl
  | cons p t ih =>
    obtain ⟨j, y⟩ := p
    have h' := h
    simp only [Assoc.sortedFrom, Bool.and_eq_true, decide_eq_true_eq] at h
    simp only [Assoc.del]
    split
    · exact Assoc.sortedFrom_mono t h.2 (by omega)
    · split
      · exact h'
      · simp only [Assoc.sortedFrom, Bool.and_eq_true, decide_eq_true_eq]
        exact ⟨h.1, ih (j + 1) h.2⟩

/-! ### Fields of the state -/

@[simp] theorem State.setRing_pending (s : State) (r : Nat) (x : Ring) : (s.setRing r x).pending = s.pending := rfl
@[simp] theorem State.setRing_free (s : State) (r : Nat) (x : Ring) : (s.setRing r x).free = s.free := rfl
@[simp] theorem State.setRing_out (s : State) (r : Nat) (x : Ring) : (s.setRing r x).out = s.out := rfl
@[simp] theorem State.setRing_periods (s : State) (r : Nat) (x : Ring) : (s.setRing r x).periods = s.periods := rfl
@[simp] theorem State.setRing_rings (s : State) (r : Nat) (x : Ring) : (s.setRing r x).rings = Assoc.put s.rings r x := rfl
@[simp] theorem State.setRing_tents (s : State) (r : Nat) (x : Ring) : (s.setRing r x).tents = s.tents := rfl
@[simp] theorem State.setRing_chans (s : State) (r : Nat) (x : Ring) : (s.setRing r x).chans = s.chans := rfl
@[simp] theorem State.setRing_dram (s : State) (r : Nat) (x : Ring) : (s.setRing r x).dram = s.dram := rfl
@[simp] theorem State.setRing_hub (s : State) (r : Nat) (x : Ring) : (s.setRing r x).hub = s.hub := rfl
@[simp] theorem State.setRing_net (s : State) (r : Nat) (x : Ring) : (s.setRing r x).net = s.net := rfl
@[simp] theorem State.setRing_yard (s : State) (r : Nat) (x : Ring) : (s.setRing r x).yard = s.yard := rfl
@[simp] theorem State.setRing_islands (s : State) (r : Nat) (x : Ring) : (s.setRing r x).islands = s.islands := rfl
@[simp] theorem State.setRing_clocks (s : State) (r : Nat) (x : Ring) : (s.setRing r x).clocks = s.clocks := rfl
@[simp] theorem State.setRing_nv (s : State) (r : Nat) (x : Ring) : (s.setRing r x).nv = s.nv := rfl
@[simp] theorem State.setRing_nvSaving (s : State) (r : Nat) (x : Ring) : (s.setRing r x).nvSaving = s.nvSaving := rfl
@[simp] theorem State.setRing_boot (s : State) (r : Nat) (x : Ring) : (s.setRing r x).boot = s.boot := rfl
@[simp] theorem State.setRing_dict (s : State) (r : Nat) (x : Ring) : (s.setRing r x).dict = s.dict := rfl
@[simp] theorem State.setRing_inputs (s : State) (r : Nat) (x : Ring) : (s.setRing r x).inputs = s.inputs := rfl
@[simp] theorem State.setRing_trip (s : State) (r : Nat) (x : Ring) : (s.setRing r x).trip = s.trip := rfl
@[simp] theorem State.setRing_resil (s : State) (r : Nat) (x : Ring) : (s.setRing r x).resil = s.resil := rfl

@[simp] theorem State.modRing_pending (s : State) (r : Nat) (f : Ring → Ring) : (s.modRing r f).pending = s.pending := rfl
@[simp] theorem State.modRing_free (s : State) (r : Nat) (f : Ring → Ring) : (s.modRing r f).free = s.free := rfl
@[simp] theorem State.modRing_out (s : State) (r : Nat) (f : Ring → Ring) : (s.modRing r f).out = s.out := rfl
@[simp] theorem State.modRing_periods (s : State) (r : Nat) (f : Ring → Ring) : (s.modRing r f).periods = s.periods := rfl
@[simp] theorem State.modRing_rings (s : State) (r : Nat) (f : Ring → Ring) : (s.modRing r f).rings = Assoc.put s.rings r (f (s.ring r)) := rfl
@[simp] theorem State.modRing_tents (s : State) (r : Nat) (f : Ring → Ring) : (s.modRing r f).tents = s.tents := rfl
@[simp] theorem State.modRing_chans (s : State) (r : Nat) (f : Ring → Ring) : (s.modRing r f).chans = s.chans := rfl
@[simp] theorem State.modRing_dram (s : State) (r : Nat) (f : Ring → Ring) : (s.modRing r f).dram = s.dram := rfl
@[simp] theorem State.modRing_hub (s : State) (r : Nat) (f : Ring → Ring) : (s.modRing r f).hub = s.hub := rfl
@[simp] theorem State.modRing_net (s : State) (r : Nat) (f : Ring → Ring) : (s.modRing r f).net = s.net := rfl
@[simp] theorem State.modRing_yard (s : State) (r : Nat) (f : Ring → Ring) : (s.modRing r f).yard = s.yard := rfl
@[simp] theorem State.modRing_islands (s : State) (r : Nat) (f : Ring → Ring) : (s.modRing r f).islands = s.islands := rfl
@[simp] theorem State.modRing_clocks (s : State) (r : Nat) (f : Ring → Ring) : (s.modRing r f).clocks = s.clocks := rfl
@[simp] theorem State.modRing_nv (s : State) (r : Nat) (f : Ring → Ring) : (s.modRing r f).nv = s.nv := rfl
@[simp] theorem State.modRing_nvSaving (s : State) (r : Nat) (f : Ring → Ring) : (s.modRing r f).nvSaving = s.nvSaving := rfl
@[simp] theorem State.modRing_boot (s : State) (r : Nat) (f : Ring → Ring) : (s.modRing r f).boot = s.boot := rfl
@[simp] theorem State.modRing_dict (s : State) (r : Nat) (f : Ring → Ring) : (s.modRing r f).dict = s.dict := rfl
@[simp] theorem State.modRing_inputs (s : State) (r : Nat) (f : Ring → Ring) : (s.modRing r f).inputs = s.inputs := rfl
@[simp] theorem State.modRing_trip (s : State) (r : Nat) (f : Ring → Ring) : (s.modRing r f).trip = s.trip := rfl
@[simp] theorem State.modRing_resil (s : State) (r : Nat) (f : Ring → Ring) : (s.modRing r f).resil = s.resil := rfl

@[simp] theorem State.modBooth_pending (s : State) (r b : Nat) (f : Booth → Booth) : (s.modBooth r b f).pending = s.pending := rfl
@[simp] theorem State.modBooth_free (s : State) (r b : Nat) (f : Booth → Booth) : (s.modBooth r b f).free = s.free := rfl
@[simp] theorem State.modBooth_out (s : State) (r b : Nat) (f : Booth → Booth) : (s.modBooth r b f).out = s.out := rfl
@[simp] theorem State.modBooth_periods (s : State) (r b : Nat) (f : Booth → Booth) : (s.modBooth r b f).periods = s.periods := rfl
@[simp] theorem State.modBooth_rings (s : State) (r b : Nat) (f : Booth → Booth) : (s.modBooth r b f).rings = Assoc.put s.rings r ((s.ring r).setBooth b (f ((s.ring r).booth b))) := rfl
@[simp] theorem State.modBooth_tents (s : State) (r b : Nat) (f : Booth → Booth) : (s.modBooth r b f).tents = s.tents := rfl
@[simp] theorem State.modBooth_chans (s : State) (r b : Nat) (f : Booth → Booth) : (s.modBooth r b f).chans = s.chans := rfl
@[simp] theorem State.modBooth_dram (s : State) (r b : Nat) (f : Booth → Booth) : (s.modBooth r b f).dram = s.dram := rfl
@[simp] theorem State.modBooth_hub (s : State) (r b : Nat) (f : Booth → Booth) : (s.modBooth r b f).hub = s.hub := rfl
@[simp] theorem State.modBooth_net (s : State) (r b : Nat) (f : Booth → Booth) : (s.modBooth r b f).net = s.net := rfl
@[simp] theorem State.modBooth_yard (s : State) (r b : Nat) (f : Booth → Booth) : (s.modBooth r b f).yard = s.yard := rfl
@[simp] theorem State.modBooth_islands (s : State) (r b : Nat) (f : Booth → Booth) : (s.modBooth r b f).islands = s.islands := rfl
@[simp] theorem State.modBooth_clocks (s : State) (r b : Nat) (f : Booth → Booth) : (s.modBooth r b f).clocks = s.clocks := rfl
@[simp] theorem State.modBooth_nv (s : State) (r b : Nat) (f : Booth → Booth) : (s.modBooth r b f).nv = s.nv := rfl
@[simp] theorem State.modBooth_nvSaving (s : State) (r b : Nat) (f : Booth → Booth) : (s.modBooth r b f).nvSaving = s.nvSaving := rfl
@[simp] theorem State.modBooth_boot (s : State) (r b : Nat) (f : Booth → Booth) : (s.modBooth r b f).boot = s.boot := rfl
@[simp] theorem State.modBooth_dict (s : State) (r b : Nat) (f : Booth → Booth) : (s.modBooth r b f).dict = s.dict := rfl
@[simp] theorem State.modBooth_inputs (s : State) (r b : Nat) (f : Booth → Booth) : (s.modBooth r b f).inputs = s.inputs := rfl
@[simp] theorem State.modBooth_trip (s : State) (r b : Nat) (f : Booth → Booth) : (s.modBooth r b f).trip = s.trip := rfl
@[simp] theorem State.modBooth_resil (s : State) (r b : Nat) (f : Booth → Booth) : (s.modBooth r b f).resil = s.resil := rfl

@[simp] theorem State.setTroupe_pending (s : State) (who : TroupeRef) (t : Troupe) : (s.setTroupe who t).pending = s.pending := rfl
@[simp] theorem State.setTroupe_free (s : State) (who : TroupeRef) (t : Troupe) : (s.setTroupe who t).free = s.free := rfl
@[simp] theorem State.setTroupe_out (s : State) (who : TroupeRef) (t : Troupe) : (s.setTroupe who t).out = s.out := rfl
@[simp] theorem State.setTroupe_periods (s : State) (who : TroupeRef) (t : Troupe) : (s.setTroupe who t).periods = s.periods := rfl
@[simp] theorem State.setTroupe_tents (s : State) (who : TroupeRef) (t : Troupe) : (s.setTroupe who t).tents = s.tents := rfl
@[simp] theorem State.setTroupe_chans (s : State) (who : TroupeRef) (t : Troupe) : (s.setTroupe who t).chans = s.chans := rfl
@[simp] theorem State.setTroupe_dram (s : State) (who : TroupeRef) (t : Troupe) : (s.setTroupe who t).dram = s.dram := rfl
@[simp] theorem State.setTroupe_hub (s : State) (who : TroupeRef) (t : Troupe) : (s.setTroupe who t).hub = s.hub := rfl
@[simp] theorem State.setTroupe_net (s : State) (who : TroupeRef) (t : Troupe) : (s.setTroupe who t).net = s.net := rfl
@[simp] theorem State.setTroupe_yard (s : State) (who : TroupeRef) (t : Troupe) : (s.setTroupe who t).yard = s.yard := rfl
@[simp] theorem State.setTroupe_islands (s : State) (who : TroupeRef) (t : Troupe) : (s.setTroupe who t).islands = s.islands := rfl
@[simp] theorem State.setTroupe_clocks (s : State) (who : TroupeRef) (t : Troupe) : (s.setTroupe who t).clocks = s.clocks := rfl
@[simp] theorem State.setTroupe_nv (s : State) (who : TroupeRef) (t : Troupe) : (s.setTroupe who t).nv = s.nv := rfl
@[simp] theorem State.setTroupe_nvSaving (s : State) (who : TroupeRef) (t : Troupe) : (s.setTroupe who t).nvSaving = s.nvSaving := rfl
@[simp] theorem State.setTroupe_boot (s : State) (who : TroupeRef) (t : Troupe) : (s.setTroupe who t).boot = s.boot := rfl
@[simp] theorem State.setTroupe_dict (s : State) (who : TroupeRef) (t : Troupe) : (s.setTroupe who t).dict = s.dict := rfl
@[simp] theorem State.setTroupe_inputs (s : State) (who : TroupeRef) (t : Troupe) : (s.setTroupe who t).inputs = s.inputs := rfl
@[simp] theorem State.setTroupe_trip (s : State) (who : TroupeRef) (t : Troupe) : (s.setTroupe who t).trip = s.trip := rfl
@[simp] theorem State.setTroupe_resil (s : State) (who : TroupeRef) (t : Troupe) : (s.setTroupe who t).resil = s.resil := rfl

@[simp] theorem State.setTent_pending (s : State) (n : Nat) (x : Tent) : (s.setTent n x).pending = s.pending := rfl
@[simp] theorem State.setTent_free (s : State) (n : Nat) (x : Tent) : (s.setTent n x).free = s.free := rfl
@[simp] theorem State.setTent_out (s : State) (n : Nat) (x : Tent) : (s.setTent n x).out = s.out := rfl
@[simp] theorem State.setTent_periods (s : State) (n : Nat) (x : Tent) : (s.setTent n x).periods = s.periods := rfl
@[simp] theorem State.setTent_rings (s : State) (n : Nat) (x : Tent) : (s.setTent n x).rings = s.rings := rfl
@[simp] theorem State.setTent_tents (s : State) (n : Nat) (x : Tent) : (s.setTent n x).tents = Assoc.put s.tents n x := rfl
@[simp] theorem State.setTent_chans (s : State) (n : Nat) (x : Tent) : (s.setTent n x).chans = s.chans := rfl
@[simp] theorem State.setTent_dram (s : State) (n : Nat) (x : Tent) : (s.setTent n x).dram = s.dram := rfl
@[simp] theorem State.setTent_hub (s : State) (n : Nat) (x : Tent) : (s.setTent n x).hub = s.hub := rfl
@[simp] theorem State.setTent_net (s : State) (n : Nat) (x : Tent) : (s.setTent n x).net = s.net := rfl
@[simp] theorem State.setTent_yard (s : State) (n : Nat) (x : Tent) : (s.setTent n x).yard = s.yard := rfl
@[simp] theorem State.setTent_islands (s : State) (n : Nat) (x : Tent) : (s.setTent n x).islands = s.islands := rfl
@[simp] theorem State.setTent_clocks (s : State) (n : Nat) (x : Tent) : (s.setTent n x).clocks = s.clocks := rfl
@[simp] theorem State.setTent_nv (s : State) (n : Nat) (x : Tent) : (s.setTent n x).nv = s.nv := rfl
@[simp] theorem State.setTent_nvSaving (s : State) (n : Nat) (x : Tent) : (s.setTent n x).nvSaving = s.nvSaving := rfl
@[simp] theorem State.setTent_boot (s : State) (n : Nat) (x : Tent) : (s.setTent n x).boot = s.boot := rfl
@[simp] theorem State.setTent_dict (s : State) (n : Nat) (x : Tent) : (s.setTent n x).dict = s.dict := rfl
@[simp] theorem State.setTent_inputs (s : State) (n : Nat) (x : Tent) : (s.setTent n x).inputs = s.inputs := rfl
@[simp] theorem State.setTent_trip (s : State) (n : Nat) (x : Tent) : (s.setTent n x).trip = s.trip := rfl
@[simp] theorem State.setTent_resil (s : State) (n : Nat) (x : Tent) : (s.setTent n x).resil = s.resil := rfl

@[simp] theorem State.modTent_pending (s : State) (n : Nat) (f : Tent → Tent) : (s.modTent n f).pending = s.pending := rfl
@[simp] theorem State.modTent_free (s : State) (n : Nat) (f : Tent → Tent) : (s.modTent n f).free = s.free := rfl
@[simp] theorem State.modTent_out (s : State) (n : Nat) (f : Tent → Tent) : (s.modTent n f).out = s.out := rfl
@[simp] theorem State.modTent_periods (s : State) (n : Nat) (f : Tent → Tent) : (s.modTent n f).periods = s.periods := rfl
@[simp] theorem State.modTent_rings (s : State) (n : Nat) (f : Tent → Tent) : (s.modTent n f).rings = s.rings := rfl
@[simp] theorem State.modTent_tents (s : State) (n : Nat) (f : Tent → Tent) : (s.modTent n f).tents = Assoc.put s.tents n (f (s.tent n)) := rfl
@[simp] theorem State.modTent_chans (s : State) (n : Nat) (f : Tent → Tent) : (s.modTent n f).chans = s.chans := rfl
@[simp] theorem State.modTent_dram (s : State) (n : Nat) (f : Tent → Tent) : (s.modTent n f).dram = s.dram := rfl
@[simp] theorem State.modTent_hub (s : State) (n : Nat) (f : Tent → Tent) : (s.modTent n f).hub = s.hub := rfl
@[simp] theorem State.modTent_net (s : State) (n : Nat) (f : Tent → Tent) : (s.modTent n f).net = s.net := rfl
@[simp] theorem State.modTent_yard (s : State) (n : Nat) (f : Tent → Tent) : (s.modTent n f).yard = s.yard := rfl
@[simp] theorem State.modTent_islands (s : State) (n : Nat) (f : Tent → Tent) : (s.modTent n f).islands = s.islands := rfl
@[simp] theorem State.modTent_clocks (s : State) (n : Nat) (f : Tent → Tent) : (s.modTent n f).clocks = s.clocks := rfl
@[simp] theorem State.modTent_nv (s : State) (n : Nat) (f : Tent → Tent) : (s.modTent n f).nv = s.nv := rfl
@[simp] theorem State.modTent_nvSaving (s : State) (n : Nat) (f : Tent → Tent) : (s.modTent n f).nvSaving = s.nvSaving := rfl
@[simp] theorem State.modTent_boot (s : State) (n : Nat) (f : Tent → Tent) : (s.modTent n f).boot = s.boot := rfl
@[simp] theorem State.modTent_dict (s : State) (n : Nat) (f : Tent → Tent) : (s.modTent n f).dict = s.dict := rfl
@[simp] theorem State.modTent_inputs (s : State) (n : Nat) (f : Tent → Tent) : (s.modTent n f).inputs = s.inputs := rfl
@[simp] theorem State.modTent_trip (s : State) (n : Nat) (f : Tent → Tent) : (s.modTent n f).trip = s.trip := rfl
@[simp] theorem State.modTent_resil (s : State) (n : Nat) (f : Tent → Tent) : (s.modTent n f).resil = s.resil := rfl

@[simp] theorem State.modTentCounters_pending (s : State) (n : Nat) (f : TentCounters → TentCounters) : (s.modTentCounters n f).pending = s.pending := rfl
@[simp] theorem State.modTentCounters_free (s : State) (n : Nat) (f : TentCounters → TentCounters) : (s.modTentCounters n f).free = s.free := rfl
@[simp] theorem State.modTentCounters_out (s : State) (n : Nat) (f : TentCounters → TentCounters) : (s.modTentCounters n f).out = s.out := rfl
@[simp] theorem State.modTentCounters_periods (s : State) (n : Nat) (f : TentCounters → TentCounters) : (s.modTentCounters n f).periods = s.periods := rfl
@[simp] theorem State.modTentCounters_rings (s : State) (n : Nat) (f : TentCounters → TentCounters) : (s.modTentCounters n f).rings = s.rings := rfl
@[simp] theorem State.modTentCounters_chans (s : State) (n : Nat) (f : TentCounters → TentCounters) : (s.modTentCounters n f).chans = s.chans := rfl
@[simp] theorem State.modTentCounters_dram (s : State) (n : Nat) (f : TentCounters → TentCounters) : (s.modTentCounters n f).dram = s.dram := rfl
@[simp] theorem State.modTentCounters_hub (s : State) (n : Nat) (f : TentCounters → TentCounters) : (s.modTentCounters n f).hub = s.hub := rfl
@[simp] theorem State.modTentCounters_net (s : State) (n : Nat) (f : TentCounters → TentCounters) : (s.modTentCounters n f).net = s.net := rfl
@[simp] theorem State.modTentCounters_yard (s : State) (n : Nat) (f : TentCounters → TentCounters) : (s.modTentCounters n f).yard = s.yard := rfl
@[simp] theorem State.modTentCounters_islands (s : State) (n : Nat) (f : TentCounters → TentCounters) : (s.modTentCounters n f).islands = s.islands := rfl
@[simp] theorem State.modTentCounters_clocks (s : State) (n : Nat) (f : TentCounters → TentCounters) : (s.modTentCounters n f).clocks = s.clocks := rfl
@[simp] theorem State.modTentCounters_nv (s : State) (n : Nat) (f : TentCounters → TentCounters) : (s.modTentCounters n f).nv = s.nv := rfl
@[simp] theorem State.modTentCounters_nvSaving (s : State) (n : Nat) (f : TentCounters → TentCounters) : (s.modTentCounters n f).nvSaving = s.nvSaving := rfl
@[simp] theorem State.modTentCounters_boot (s : State) (n : Nat) (f : TentCounters → TentCounters) : (s.modTentCounters n f).boot = s.boot := rfl
@[simp] theorem State.modTentCounters_dict (s : State) (n : Nat) (f : TentCounters → TentCounters) : (s.modTentCounters n f).dict = s.dict := rfl
@[simp] theorem State.modTentCounters_inputs (s : State) (n : Nat) (f : TentCounters → TentCounters) : (s.modTentCounters n f).inputs = s.inputs := rfl
@[simp] theorem State.modTentCounters_trip (s : State) (n : Nat) (f : TentCounters → TentCounters) : (s.modTentCounters n f).trip = s.trip := rfl
@[simp] theorem State.modTentCounters_resil (s : State) (n : Nat) (f : TentCounters → TentCounters) : (s.modTentCounters n f).resil = s.resil := rfl

@[simp] theorem State.modChan_pending (s : State) (c : Nat) (f : Chan → Chan) : (s.modChan c f).pending = s.pending := rfl
@[simp] theorem State.modChan_free (s : State) (c : Nat) (f : Chan → Chan) : (s.modChan c f).free = s.free := rfl
@[simp] theorem State.modChan_out (s : State) (c : Nat) (f : Chan → Chan) : (s.modChan c f).out = s.out := rfl
@[simp] theorem State.modChan_periods (s : State) (c : Nat) (f : Chan → Chan) : (s.modChan c f).periods = s.periods := rfl
@[simp] theorem State.modChan_rings (s : State) (c : Nat) (f : Chan → Chan) : (s.modChan c f).rings = s.rings := rfl
@[simp] theorem State.modChan_tents (s : State) (c : Nat) (f : Chan → Chan) : (s.modChan c f).tents = s.tents := rfl
@[simp] theorem State.modChan_chans (s : State) (c : Nat) (f : Chan → Chan) : (s.modChan c f).chans = Assoc.put s.chans c (f (s.chan c)) := rfl
@[simp] theorem State.modChan_dram (s : State) (c : Nat) (f : Chan → Chan) : (s.modChan c f).dram = s.dram := rfl
@[simp] theorem State.modChan_hub (s : State) (c : Nat) (f : Chan → Chan) : (s.modChan c f).hub = s.hub := rfl
@[simp] theorem State.modChan_net (s : State) (c : Nat) (f : Chan → Chan) : (s.modChan c f).net = s.net := rfl
@[simp] theorem State.modChan_yard (s : State) (c : Nat) (f : Chan → Chan) : (s.modChan c f).yard = s.yard := rfl
@[simp] theorem State.modChan_islands (s : State) (c : Nat) (f : Chan → Chan) : (s.modChan c f).islands = s.islands := rfl
@[simp] theorem State.modChan_clocks (s : State) (c : Nat) (f : Chan → Chan) : (s.modChan c f).clocks = s.clocks := rfl
@[simp] theorem State.modChan_nv (s : State) (c : Nat) (f : Chan → Chan) : (s.modChan c f).nv = s.nv := rfl
@[simp] theorem State.modChan_nvSaving (s : State) (c : Nat) (f : Chan → Chan) : (s.modChan c f).nvSaving = s.nvSaving := rfl
@[simp] theorem State.modChan_boot (s : State) (c : Nat) (f : Chan → Chan) : (s.modChan c f).boot = s.boot := rfl
@[simp] theorem State.modChan_dict (s : State) (c : Nat) (f : Chan → Chan) : (s.modChan c f).dict = s.dict := rfl
@[simp] theorem State.modChan_inputs (s : State) (c : Nat) (f : Chan → Chan) : (s.modChan c f).inputs = s.inputs := rfl
@[simp] theorem State.modChan_trip (s : State) (c : Nat) (f : Chan → Chan) : (s.modChan c f).trip = s.trip := rfl
@[simp] theorem State.modChan_resil (s : State) (c : Nat) (f : Chan → Chan) : (s.modChan c f).resil = s.resil := rfl

@[simp] theorem State.modChanCounters_pending (s : State) (c : Nat) (f : ChanCounters → ChanCounters) : (s.modChanCounters c f).pending = s.pending := rfl
@[simp] theorem State.modChanCounters_free (s : State) (c : Nat) (f : ChanCounters → ChanCounters) : (s.modChanCounters c f).free = s.free := rfl
@[simp] theorem State.modChanCounters_out (s : State) (c : Nat) (f : ChanCounters → ChanCounters) : (s.modChanCounters c f).out = s.out := rfl
@[simp] theorem State.modChanCounters_periods (s : State) (c : Nat) (f : ChanCounters → ChanCounters) : (s.modChanCounters c f).periods = s.periods := rfl
@[simp] theorem State.modChanCounters_rings (s : State) (c : Nat) (f : ChanCounters → ChanCounters) : (s.modChanCounters c f).rings = s.rings := rfl
@[simp] theorem State.modChanCounters_tents (s : State) (c : Nat) (f : ChanCounters → ChanCounters) : (s.modChanCounters c f).tents = s.tents := rfl
@[simp] theorem State.modChanCounters_dram (s : State) (c : Nat) (f : ChanCounters → ChanCounters) : (s.modChanCounters c f).dram = s.dram := rfl
@[simp] theorem State.modChanCounters_hub (s : State) (c : Nat) (f : ChanCounters → ChanCounters) : (s.modChanCounters c f).hub = s.hub := rfl
@[simp] theorem State.modChanCounters_net (s : State) (c : Nat) (f : ChanCounters → ChanCounters) : (s.modChanCounters c f).net = s.net := rfl
@[simp] theorem State.modChanCounters_yard (s : State) (c : Nat) (f : ChanCounters → ChanCounters) : (s.modChanCounters c f).yard = s.yard := rfl
@[simp] theorem State.modChanCounters_islands (s : State) (c : Nat) (f : ChanCounters → ChanCounters) : (s.modChanCounters c f).islands = s.islands := rfl
@[simp] theorem State.modChanCounters_clocks (s : State) (c : Nat) (f : ChanCounters → ChanCounters) : (s.modChanCounters c f).clocks = s.clocks := rfl
@[simp] theorem State.modChanCounters_nv (s : State) (c : Nat) (f : ChanCounters → ChanCounters) : (s.modChanCounters c f).nv = s.nv := rfl
@[simp] theorem State.modChanCounters_nvSaving (s : State) (c : Nat) (f : ChanCounters → ChanCounters) : (s.modChanCounters c f).nvSaving = s.nvSaving := rfl
@[simp] theorem State.modChanCounters_boot (s : State) (c : Nat) (f : ChanCounters → ChanCounters) : (s.modChanCounters c f).boot = s.boot := rfl
@[simp] theorem State.modChanCounters_dict (s : State) (c : Nat) (f : ChanCounters → ChanCounters) : (s.modChanCounters c f).dict = s.dict := rfl
@[simp] theorem State.modChanCounters_inputs (s : State) (c : Nat) (f : ChanCounters → ChanCounters) : (s.modChanCounters c f).inputs = s.inputs := rfl
@[simp] theorem State.modChanCounters_trip (s : State) (c : Nat) (f : ChanCounters → ChanCounters) : (s.modChanCounters c f).trip = s.trip := rfl
@[simp] theorem State.modChanCounters_resil (s : State) (c : Nat) (f : ChanCounters → ChanCounters) : (s.modChanCounters c f).resil = s.resil := rfl

@[simp] theorem State.modHub_pending (s : State) (f : Hub → Hub) : (s.modHub f).pending = s.pending := rfl
@[simp] theorem State.modHub_free (s : State) (f : Hub → Hub) : (s.modHub f).free = s.free := rfl
@[simp] theorem State.modHub_out (s : State) (f : Hub → Hub) : (s.modHub f).out = s.out := rfl
@[simp] theorem State.modHub_periods (s : State) (f : Hub → Hub) : (s.modHub f).periods = s.periods := rfl
@[simp] theorem State.modHub_rings (s : State) (f : Hub → Hub) : (s.modHub f).rings = s.rings := rfl
@[simp] theorem State.modHub_tents (s : State) (f : Hub → Hub) : (s.modHub f).tents = s.tents := rfl
@[simp] theorem State.modHub_chans (s : State) (f : Hub → Hub) : (s.modHub f).chans = s.chans := rfl
@[simp] theorem State.modHub_dram (s : State) (f : Hub → Hub) : (s.modHub f).dram = s.dram := rfl
@[simp] theorem State.modHub_hub (s : State) (f : Hub → Hub) : (s.modHub f).hub = f s.hub := rfl
@[simp] theorem State.modHub_net (s : State) (f : Hub → Hub) : (s.modHub f).net = s.net := rfl
@[simp] theorem State.modHub_yard (s : State) (f : Hub → Hub) : (s.modHub f).yard = s.yard := rfl
@[simp] theorem State.modHub_islands (s : State) (f : Hub → Hub) : (s.modHub f).islands = s.islands := rfl
@[simp] theorem State.modHub_clocks (s : State) (f : Hub → Hub) : (s.modHub f).clocks = s.clocks := rfl
@[simp] theorem State.modHub_nv (s : State) (f : Hub → Hub) : (s.modHub f).nv = s.nv := rfl
@[simp] theorem State.modHub_nvSaving (s : State) (f : Hub → Hub) : (s.modHub f).nvSaving = s.nvSaving := rfl
@[simp] theorem State.modHub_boot (s : State) (f : Hub → Hub) : (s.modHub f).boot = s.boot := rfl
@[simp] theorem State.modHub_dict (s : State) (f : Hub → Hub) : (s.modHub f).dict = s.dict := rfl
@[simp] theorem State.modHub_inputs (s : State) (f : Hub → Hub) : (s.modHub f).inputs = s.inputs := rfl
@[simp] theorem State.modHub_trip (s : State) (f : Hub → Hub) : (s.modHub f).trip = s.trip := rfl
@[simp] theorem State.modHub_resil (s : State) (f : Hub → Hub) : (s.modHub f).resil = s.resil := rfl

@[simp] theorem State.modNet_pending (s : State) (f : Net → Net) : (s.modNet f).pending = s.pending := rfl
@[simp] theorem State.modNet_free (s : State) (f : Net → Net) : (s.modNet f).free = s.free := rfl
@[simp] theorem State.modNet_out (s : State) (f : Net → Net) : (s.modNet f).out = s.out := rfl
@[simp] theorem State.modNet_periods (s : State) (f : Net → Net) : (s.modNet f).periods = s.periods := rfl
@[simp] theorem State.modNet_rings (s : State) (f : Net → Net) : (s.modNet f).rings = s.rings := rfl
@[simp] theorem State.modNet_tents (s : State) (f : Net → Net) : (s.modNet f).tents = s.tents := rfl
@[simp] theorem State.modNet_chans (s : State) (f : Net → Net) : (s.modNet f).chans = s.chans := rfl
@[simp] theorem State.modNet_dram (s : State) (f : Net → Net) : (s.modNet f).dram = s.dram := rfl
@[simp] theorem State.modNet_hub (s : State) (f : Net → Net) : (s.modNet f).hub = s.hub := rfl
@[simp] theorem State.modNet_net (s : State) (f : Net → Net) : (s.modNet f).net = f s.net := rfl
@[simp] theorem State.modNet_yard (s : State) (f : Net → Net) : (s.modNet f).yard = s.yard := rfl
@[simp] theorem State.modNet_islands (s : State) (f : Net → Net) : (s.modNet f).islands = s.islands := rfl
@[simp] theorem State.modNet_clocks (s : State) (f : Net → Net) : (s.modNet f).clocks = s.clocks := rfl
@[simp] theorem State.modNet_nv (s : State) (f : Net → Net) : (s.modNet f).nv = s.nv := rfl
@[simp] theorem State.modNet_nvSaving (s : State) (f : Net → Net) : (s.modNet f).nvSaving = s.nvSaving := rfl
@[simp] theorem State.modNet_boot (s : State) (f : Net → Net) : (s.modNet f).boot = s.boot := rfl
@[simp] theorem State.modNet_dict (s : State) (f : Net → Net) : (s.modNet f).dict = s.dict := rfl
@[simp] theorem State.modNet_inputs (s : State) (f : Net → Net) : (s.modNet f).inputs = s.inputs := rfl
@[simp] theorem State.modNet_trip (s : State) (f : Net → Net) : (s.modNet f).trip = s.trip := rfl
@[simp] theorem State.modNet_resil (s : State) (f : Net → Net) : (s.modNet f).resil = s.resil := rfl

@[simp] theorem State.modYard_pending (s : State) (f : Steelyard → Steelyard) : (s.modYard f).pending = s.pending := rfl
@[simp] theorem State.modYard_free (s : State) (f : Steelyard → Steelyard) : (s.modYard f).free = s.free := rfl
@[simp] theorem State.modYard_out (s : State) (f : Steelyard → Steelyard) : (s.modYard f).out = s.out := rfl
@[simp] theorem State.modYard_periods (s : State) (f : Steelyard → Steelyard) : (s.modYard f).periods = s.periods := rfl
@[simp] theorem State.modYard_rings (s : State) (f : Steelyard → Steelyard) : (s.modYard f).rings = s.rings := rfl
@[simp] theorem State.modYard_tents (s : State) (f : Steelyard → Steelyard) : (s.modYard f).tents = s.tents := rfl
@[simp] theorem State.modYard_chans (s : State) (f : Steelyard → Steelyard) : (s.modYard f).chans = s.chans := rfl
@[simp] theorem State.modYard_dram (s : State) (f : Steelyard → Steelyard) : (s.modYard f).dram = s.dram := rfl
@[simp] theorem State.modYard_hub (s : State) (f : Steelyard → Steelyard) : (s.modYard f).hub = s.hub := rfl
@[simp] theorem State.modYard_net (s : State) (f : Steelyard → Steelyard) : (s.modYard f).net = s.net := rfl
@[simp] theorem State.modYard_yard (s : State) (f : Steelyard → Steelyard) : (s.modYard f).yard = f s.yard := rfl
@[simp] theorem State.modYard_islands (s : State) (f : Steelyard → Steelyard) : (s.modYard f).islands = s.islands := rfl
@[simp] theorem State.modYard_clocks (s : State) (f : Steelyard → Steelyard) : (s.modYard f).clocks = s.clocks := rfl
@[simp] theorem State.modYard_nv (s : State) (f : Steelyard → Steelyard) : (s.modYard f).nv = s.nv := rfl
@[simp] theorem State.modYard_nvSaving (s : State) (f : Steelyard → Steelyard) : (s.modYard f).nvSaving = s.nvSaving := rfl
@[simp] theorem State.modYard_boot (s : State) (f : Steelyard → Steelyard) : (s.modYard f).boot = s.boot := rfl
@[simp] theorem State.modYard_dict (s : State) (f : Steelyard → Steelyard) : (s.modYard f).dict = s.dict := rfl
@[simp] theorem State.modYard_inputs (s : State) (f : Steelyard → Steelyard) : (s.modYard f).inputs = s.inputs := rfl
@[simp] theorem State.modYard_trip (s : State) (f : Steelyard → Steelyard) : (s.modYard f).trip = s.trip := rfl
@[simp] theorem State.modYard_resil (s : State) (f : Steelyard → Steelyard) : (s.modYard f).resil = s.resil := rfl

@[simp] theorem State.modIsland_pending (s : State) (t : Nat) (f : Island → Island) : (s.modIsland t f).pending = s.pending := rfl
@[simp] theorem State.modIsland_free (s : State) (t : Nat) (f : Island → Island) : (s.modIsland t f).free = s.free := rfl
@[simp] theorem State.modIsland_out (s : State) (t : Nat) (f : Island → Island) : (s.modIsland t f).out = s.out := rfl
@[simp] theorem State.modIsland_periods (s : State) (t : Nat) (f : Island → Island) : (s.modIsland t f).periods = s.periods := rfl
@[simp] theorem State.modIsland_rings (s : State) (t : Nat) (f : Island → Island) : (s.modIsland t f).rings = s.rings := rfl
@[simp] theorem State.modIsland_tents (s : State) (t : Nat) (f : Island → Island) : (s.modIsland t f).tents = s.tents := rfl
@[simp] theorem State.modIsland_chans (s : State) (t : Nat) (f : Island → Island) : (s.modIsland t f).chans = s.chans := rfl
@[simp] theorem State.modIsland_dram (s : State) (t : Nat) (f : Island → Island) : (s.modIsland t f).dram = s.dram := rfl
@[simp] theorem State.modIsland_hub (s : State) (t : Nat) (f : Island → Island) : (s.modIsland t f).hub = s.hub := rfl
@[simp] theorem State.modIsland_net (s : State) (t : Nat) (f : Island → Island) : (s.modIsland t f).net = s.net := rfl
@[simp] theorem State.modIsland_yard (s : State) (t : Nat) (f : Island → Island) : (s.modIsland t f).yard = s.yard := rfl
@[simp] theorem State.modIsland_islands (s : State) (t : Nat) (f : Island → Island) : (s.modIsland t f).islands = Assoc.put s.islands t (f (s.island t)) := rfl
@[simp] theorem State.modIsland_clocks (s : State) (t : Nat) (f : Island → Island) : (s.modIsland t f).clocks = s.clocks := rfl
@[simp] theorem State.modIsland_nv (s : State) (t : Nat) (f : Island → Island) : (s.modIsland t f).nv = s.nv := rfl
@[simp] theorem State.modIsland_nvSaving (s : State) (t : Nat) (f : Island → Island) : (s.modIsland t f).nvSaving = s.nvSaving := rfl
@[simp] theorem State.modIsland_boot (s : State) (t : Nat) (f : Island → Island) : (s.modIsland t f).boot = s.boot := rfl
@[simp] theorem State.modIsland_dict (s : State) (t : Nat) (f : Island → Island) : (s.modIsland t f).dict = s.dict := rfl
@[simp] theorem State.modIsland_inputs (s : State) (t : Nat) (f : Island → Island) : (s.modIsland t f).inputs = s.inputs := rfl
@[simp] theorem State.modIsland_trip (s : State) (t : Nat) (f : Island → Island) : (s.modIsland t f).trip = s.trip := rfl
@[simp] theorem State.modIsland_resil (s : State) (t : Nat) (f : Island → Island) : (s.modIsland t f).resil = s.resil := rfl

@[simp] theorem State.setCtx_pending (s : State) (c : Nat) (x : Ctx) : (s.setCtx c x).pending = s.pending := rfl
@[simp] theorem State.setCtx_free (s : State) (c : Nat) (x : Ctx) : (s.setCtx c x).free = s.free := rfl
@[simp] theorem State.setCtx_out (s : State) (c : Nat) (x : Ctx) : (s.setCtx c x).out = s.out := rfl
@[simp] theorem State.setCtx_periods (s : State) (c : Nat) (x : Ctx) : (s.setCtx c x).periods = s.periods := rfl
@[simp] theorem State.setCtx_rings (s : State) (c : Nat) (x : Ctx) : (s.setCtx c x).rings = s.rings := rfl
@[simp] theorem State.setCtx_tents (s : State) (c : Nat) (x : Ctx) : (s.setCtx c x).tents = s.tents := rfl
@[simp] theorem State.setCtx_chans (s : State) (c : Nat) (x : Ctx) : (s.setCtx c x).chans = s.chans := rfl
@[simp] theorem State.setCtx_dram (s : State) (c : Nat) (x : Ctx) : (s.setCtx c x).dram = s.dram := rfl
@[simp] theorem State.setCtx_net (s : State) (c : Nat) (x : Ctx) : (s.setCtx c x).net = s.net := rfl
@[simp] theorem State.setCtx_yard (s : State) (c : Nat) (x : Ctx) : (s.setCtx c x).yard = s.yard := rfl
@[simp] theorem State.setCtx_islands (s : State) (c : Nat) (x : Ctx) : (s.setCtx c x).islands = s.islands := rfl
@[simp] theorem State.setCtx_clocks (s : State) (c : Nat) (x : Ctx) : (s.setCtx c x).clocks = s.clocks := rfl
@[simp] theorem State.setCtx_nv (s : State) (c : Nat) (x : Ctx) : (s.setCtx c x).nv = s.nv := rfl
@[simp] theorem State.setCtx_nvSaving (s : State) (c : Nat) (x : Ctx) : (s.setCtx c x).nvSaving = s.nvSaving := rfl
@[simp] theorem State.setCtx_boot (s : State) (c : Nat) (x : Ctx) : (s.setCtx c x).boot = s.boot := rfl
@[simp] theorem State.setCtx_dict (s : State) (c : Nat) (x : Ctx) : (s.setCtx c x).dict = s.dict := rfl
@[simp] theorem State.setCtx_inputs (s : State) (c : Nat) (x : Ctx) : (s.setCtx c x).inputs = s.inputs := rfl
@[simp] theorem State.setCtx_trip (s : State) (c : Nat) (x : Ctx) : (s.setCtx c x).trip = s.trip := rfl
@[simp] theorem State.setCtx_resil (s : State) (c : Nat) (x : Ctx) : (s.setCtx c x).resil = s.resil := rfl

@[simp] theorem State.setCmd_pending (s : State) (r : CmdRef) (x : Cmd) : (s.setCmd r x).pending = s.pending := rfl
@[simp] theorem State.setCmd_free (s : State) (r : CmdRef) (x : Cmd) : (s.setCmd r x).free = s.free := rfl
@[simp] theorem State.setCmd_out (s : State) (r : CmdRef) (x : Cmd) : (s.setCmd r x).out = s.out := rfl
@[simp] theorem State.setCmd_periods (s : State) (r : CmdRef) (x : Cmd) : (s.setCmd r x).periods = s.periods := rfl
@[simp] theorem State.setCmd_rings (s : State) (r : CmdRef) (x : Cmd) : (s.setCmd r x).rings = s.rings := rfl
@[simp] theorem State.setCmd_tents (s : State) (r : CmdRef) (x : Cmd) : (s.setCmd r x).tents = s.tents := rfl
@[simp] theorem State.setCmd_chans (s : State) (r : CmdRef) (x : Cmd) : (s.setCmd r x).chans = s.chans := rfl
@[simp] theorem State.setCmd_dram (s : State) (r : CmdRef) (x : Cmd) : (s.setCmd r x).dram = s.dram := rfl
@[simp] theorem State.setCmd_net (s : State) (r : CmdRef) (x : Cmd) : (s.setCmd r x).net = s.net := rfl
@[simp] theorem State.setCmd_yard (s : State) (r : CmdRef) (x : Cmd) : (s.setCmd r x).yard = s.yard := rfl
@[simp] theorem State.setCmd_islands (s : State) (r : CmdRef) (x : Cmd) : (s.setCmd r x).islands = s.islands := rfl
@[simp] theorem State.setCmd_clocks (s : State) (r : CmdRef) (x : Cmd) : (s.setCmd r x).clocks = s.clocks := rfl
@[simp] theorem State.setCmd_nv (s : State) (r : CmdRef) (x : Cmd) : (s.setCmd r x).nv = s.nv := rfl
@[simp] theorem State.setCmd_nvSaving (s : State) (r : CmdRef) (x : Cmd) : (s.setCmd r x).nvSaving = s.nvSaving := rfl
@[simp] theorem State.setCmd_boot (s : State) (r : CmdRef) (x : Cmd) : (s.setCmd r x).boot = s.boot := rfl
@[simp] theorem State.setCmd_dict (s : State) (r : CmdRef) (x : Cmd) : (s.setCmd r x).dict = s.dict := rfl
@[simp] theorem State.setCmd_inputs (s : State) (r : CmdRef) (x : Cmd) : (s.setCmd r x).inputs = s.inputs := rfl
@[simp] theorem State.setCmd_trip (s : State) (r : CmdRef) (x : Cmd) : (s.setCmd r x).trip = s.trip := rfl
@[simp] theorem State.setCmd_resil (s : State) (r : CmdRef) (x : Cmd) : (s.setCmd r x).resil = s.resil := rfl

@[simp] theorem State.emit_pending (s : State) (o : Output) : (s.emit o).pending = s.pending := rfl
@[simp] theorem State.emit_free (s : State) (o : Output) : (s.emit o).free = s.free := rfl
@[simp] theorem State.emit_out (s : State) (o : Output) : (s.emit o).out = s.out ++ [o] := rfl
@[simp] theorem State.emit_periods (s : State) (o : Output) : (s.emit o).periods = s.periods := rfl
@[simp] theorem State.emit_rings (s : State) (o : Output) : (s.emit o).rings = s.rings := rfl
@[simp] theorem State.emit_tents (s : State) (o : Output) : (s.emit o).tents = s.tents := rfl
@[simp] theorem State.emit_chans (s : State) (o : Output) : (s.emit o).chans = s.chans := rfl
@[simp] theorem State.emit_dram (s : State) (o : Output) : (s.emit o).dram = s.dram := rfl
@[simp] theorem State.emit_hub (s : State) (o : Output) : (s.emit o).hub = s.hub := rfl
@[simp] theorem State.emit_net (s : State) (o : Output) : (s.emit o).net = s.net := rfl
@[simp] theorem State.emit_yard (s : State) (o : Output) : (s.emit o).yard = s.yard := rfl
@[simp] theorem State.emit_islands (s : State) (o : Output) : (s.emit o).islands = s.islands := rfl
@[simp] theorem State.emit_clocks (s : State) (o : Output) : (s.emit o).clocks = s.clocks := rfl
@[simp] theorem State.emit_nv (s : State) (o : Output) : (s.emit o).nv = s.nv := rfl
@[simp] theorem State.emit_nvSaving (s : State) (o : Output) : (s.emit o).nvSaving = s.nvSaving := rfl
@[simp] theorem State.emit_boot (s : State) (o : Output) : (s.emit o).boot = s.boot := rfl
@[simp] theorem State.emit_dict (s : State) (o : Output) : (s.emit o).dict = s.dict := rfl
@[simp] theorem State.emit_inputs (s : State) (o : Output) : (s.emit o).inputs = s.inputs := rfl
@[simp] theorem State.emit_trip (s : State) (o : Output) : (s.emit o).trip = s.trip := rfl
@[simp] theorem State.emit_resil (s : State) (o : Output) : (s.emit o).resil = s.resil := rfl

@[simp] theorem State.freeW64_pending (s : State) : (s.freeW64.1).pending = s.pending := rfl
@[simp] theorem State.freeW64_free (s : State) : (s.freeW64.1).free = s.free + 1 := rfl
@[simp] theorem State.freeW64_out (s : State) : (s.freeW64.1).out = s.out := rfl
@[simp] theorem State.freeW64_periods (s : State) : (s.freeW64.1).periods = s.periods := rfl
@[simp] theorem State.freeW64_rings (s : State) : (s.freeW64.1).rings = s.rings := rfl
@[simp] theorem State.freeW64_tents (s : State) : (s.freeW64.1).tents = s.tents := rfl
@[simp] theorem State.freeW64_chans (s : State) : (s.freeW64.1).chans = s.chans := rfl
@[simp] theorem State.freeW64_dram (s : State) : (s.freeW64.1).dram = s.dram := rfl
@[simp] theorem State.freeW64_hub (s : State) : (s.freeW64.1).hub = s.hub := rfl
@[simp] theorem State.freeW64_net (s : State) : (s.freeW64.1).net = s.net := rfl
@[simp] theorem State.freeW64_yard (s : State) : (s.freeW64.1).yard = s.yard := rfl
@[simp] theorem State.freeW64_islands (s : State) : (s.freeW64.1).islands = s.islands := rfl
@[simp] theorem State.freeW64_clocks (s : State) : (s.freeW64.1).clocks = s.clocks := rfl
@[simp] theorem State.freeW64_nv (s : State) : (s.freeW64.1).nv = s.nv := rfl
@[simp] theorem State.freeW64_nvSaving (s : State) : (s.freeW64.1).nvSaving = s.nvSaving := rfl
@[simp] theorem State.freeW64_boot (s : State) : (s.freeW64.1).boot = s.boot := rfl
@[simp] theorem State.freeW64_dict (s : State) : (s.freeW64.1).dict = s.dict := rfl
@[simp] theorem State.freeW64_inputs (s : State) : (s.freeW64.1).inputs = s.inputs := rfl
@[simp] theorem State.freeW64_trip (s : State) : (s.freeW64.1).trip = s.trip := rfl
@[simp] theorem State.freeW64_resil (s : State) : (s.freeW64.1).resil = s.resil := rfl

@[simp] theorem State.freeW128_pending (s : State) : (s.freeW128.1).pending = s.pending := rfl
@[simp] theorem State.freeW128_free (s : State) : (s.freeW128.1).free = s.free + 1 := rfl
@[simp] theorem State.freeW128_out (s : State) : (s.freeW128.1).out = s.out := rfl
@[simp] theorem State.freeW128_periods (s : State) : (s.freeW128.1).periods = s.periods := rfl
@[simp] theorem State.freeW128_rings (s : State) : (s.freeW128.1).rings = s.rings := rfl
@[simp] theorem State.freeW128_tents (s : State) : (s.freeW128.1).tents = s.tents := rfl
@[simp] theorem State.freeW128_chans (s : State) : (s.freeW128.1).chans = s.chans := rfl
@[simp] theorem State.freeW128_dram (s : State) : (s.freeW128.1).dram = s.dram := rfl
@[simp] theorem State.freeW128_hub (s : State) : (s.freeW128.1).hub = s.hub := rfl
@[simp] theorem State.freeW128_net (s : State) : (s.freeW128.1).net = s.net := rfl
@[simp] theorem State.freeW128_yard (s : State) : (s.freeW128.1).yard = s.yard := rfl
@[simp] theorem State.freeW128_islands (s : State) : (s.freeW128.1).islands = s.islands := rfl
@[simp] theorem State.freeW128_clocks (s : State) : (s.freeW128.1).clocks = s.clocks := rfl
@[simp] theorem State.freeW128_nv (s : State) : (s.freeW128.1).nv = s.nv := rfl
@[simp] theorem State.freeW128_nvSaving (s : State) : (s.freeW128.1).nvSaving = s.nvSaving := rfl
@[simp] theorem State.freeW128_boot (s : State) : (s.freeW128.1).boot = s.boot := rfl
@[simp] theorem State.freeW128_dict (s : State) : (s.freeW128.1).dict = s.dict := rfl
@[simp] theorem State.freeW128_inputs (s : State) : (s.freeW128.1).inputs = s.inputs := rfl
@[simp] theorem State.freeW128_trip (s : State) : (s.freeW128.1).trip = s.trip := rfl
@[simp] theorem State.freeW128_resil (s : State) : (s.freeW128.1).resil = s.resil := rfl

@[simp] theorem State.nextOrder_pending (s : State) : (s.nextOrder.1).pending = s.pending := rfl
@[simp] theorem State.nextOrder_free (s : State) : (s.nextOrder.1).free = s.free := rfl
@[simp] theorem State.nextOrder_out (s : State) : (s.nextOrder.1).out = s.out := rfl
@[simp] theorem State.nextOrder_periods (s : State) : (s.nextOrder.1).periods = s.periods := rfl
@[simp] theorem State.nextOrder_rings (s : State) : (s.nextOrder.1).rings = s.rings := rfl
@[simp] theorem State.nextOrder_tents (s : State) : (s.nextOrder.1).tents = s.tents := rfl
@[simp] theorem State.nextOrder_chans (s : State) : (s.nextOrder.1).chans = s.chans := rfl
@[simp] theorem State.nextOrder_dram (s : State) : (s.nextOrder.1).dram = s.dram := rfl
@[simp] theorem State.nextOrder_net (s : State) : (s.nextOrder.1).net = s.net := rfl
@[simp] theorem State.nextOrder_yard (s : State) : (s.nextOrder.1).yard = s.yard := rfl
@[simp] theorem State.nextOrder_islands (s : State) : (s.nextOrder.1).islands = s.islands := rfl
@[simp] theorem State.nextOrder_clocks (s : State) : (s.nextOrder.1).clocks = s.clocks := rfl
@[simp] theorem State.nextOrder_nv (s : State) : (s.nextOrder.1).nv = s.nv := rfl
@[simp] theorem State.nextOrder_nvSaving (s : State) : (s.nextOrder.1).nvSaving = s.nvSaving := rfl
@[simp] theorem State.nextOrder_boot (s : State) : (s.nextOrder.1).boot = s.boot := rfl
@[simp] theorem State.nextOrder_dict (s : State) : (s.nextOrder.1).dict = s.dict := rfl
@[simp] theorem State.nextOrder_inputs (s : State) : (s.nextOrder.1).inputs = s.inputs := rfl
@[simp] theorem State.nextOrder_trip (s : State) : (s.nextOrder.1).trip = s.trip := rfl
@[simp] theorem State.nextOrder_resil (s : State) : (s.nextOrder.1).resil = s.resil := rfl

@[simp] theorem State.modCtx_pending (s : State) (c : Nat) (f : Ctx → Ctx) : (s.modCtx c f).pending = s.pending := by unfold State.modCtx; split <;> rfl
@[simp] theorem State.modCtx_free (s : State) (c : Nat) (f : Ctx → Ctx) : (s.modCtx c f).free = s.free := by unfold State.modCtx; split <;> rfl
@[simp] theorem State.modCtx_out (s : State) (c : Nat) (f : Ctx → Ctx) : (s.modCtx c f).out = s.out := by unfold State.modCtx; split <;> rfl
@[simp] theorem State.modCtx_periods (s : State) (c : Nat) (f : Ctx → Ctx) : (s.modCtx c f).periods = s.periods := by unfold State.modCtx; split <;> rfl
@[simp] theorem State.modCtx_rings (s : State) (c : Nat) (f : Ctx → Ctx) : (s.modCtx c f).rings = s.rings := by unfold State.modCtx; split <;> rfl
@[simp] theorem State.modCtx_tents (s : State) (c : Nat) (f : Ctx → Ctx) : (s.modCtx c f).tents = s.tents := by unfold State.modCtx; split <;> rfl
@[simp] theorem State.modCtx_chans (s : State) (c : Nat) (f : Ctx → Ctx) : (s.modCtx c f).chans = s.chans := by unfold State.modCtx; split <;> rfl
@[simp] theorem State.modCtx_dram (s : State) (c : Nat) (f : Ctx → Ctx) : (s.modCtx c f).dram = s.dram := by unfold State.modCtx; split <;> rfl
@[simp] theorem State.modCtx_net (s : State) (c : Nat) (f : Ctx → Ctx) : (s.modCtx c f).net = s.net := by unfold State.modCtx; split <;> rfl
@[simp] theorem State.modCtx_yard (s : State) (c : Nat) (f : Ctx → Ctx) : (s.modCtx c f).yard = s.yard := by unfold State.modCtx; split <;> rfl
@[simp] theorem State.modCtx_islands (s : State) (c : Nat) (f : Ctx → Ctx) : (s.modCtx c f).islands = s.islands := by unfold State.modCtx; split <;> rfl
@[simp] theorem State.modCtx_clocks (s : State) (c : Nat) (f : Ctx → Ctx) : (s.modCtx c f).clocks = s.clocks := by unfold State.modCtx; split <;> rfl
@[simp] theorem State.modCtx_nv (s : State) (c : Nat) (f : Ctx → Ctx) : (s.modCtx c f).nv = s.nv := by unfold State.modCtx; split <;> rfl
@[simp] theorem State.modCtx_nvSaving (s : State) (c : Nat) (f : Ctx → Ctx) : (s.modCtx c f).nvSaving = s.nvSaving := by unfold State.modCtx; split <;> rfl
@[simp] theorem State.modCtx_boot (s : State) (c : Nat) (f : Ctx → Ctx) : (s.modCtx c f).boot = s.boot := by unfold State.modCtx; split <;> rfl
@[simp] theorem State.modCtx_dict (s : State) (c : Nat) (f : Ctx → Ctx) : (s.modCtx c f).dict = s.dict := by unfold State.modCtx; split <;> rfl
@[simp] theorem State.modCtx_inputs (s : State) (c : Nat) (f : Ctx → Ctx) : (s.modCtx c f).inputs = s.inputs := by unfold State.modCtx; split <;> rfl
@[simp] theorem State.modCtx_trip (s : State) (c : Nat) (f : Ctx → Ctx) : (s.modCtx c f).trip = s.trip := by unfold State.modCtx; split <;> rfl
@[simp] theorem State.modCtx_resil (s : State) (c : Nat) (f : Ctx → Ctx) : (s.modCtx c f).resil = s.resil := by unfold State.modCtx; split <;> rfl

@[simp] theorem State.modCmd_pending (s : State) (r : CmdRef) (f : Cmd → Cmd) : (s.modCmd r f).pending = s.pending := by unfold State.modCmd; split <;> rfl
@[simp] theorem State.modCmd_free (s : State) (r : CmdRef) (f : Cmd → Cmd) : (s.modCmd r f).free = s.free := by unfold State.modCmd; split <;> rfl
@[simp] theorem State.modCmd_out (s : State) (r : CmdRef) (f : Cmd → Cmd) : (s.modCmd r f).out = s.out := by unfold State.modCmd; split <;> rfl
@[simp] theorem State.modCmd_periods (s : State) (r : CmdRef) (f : Cmd → Cmd) : (s.modCmd r f).periods = s.periods := by unfold State.modCmd; split <;> rfl
@[simp] theorem State.modCmd_rings (s : State) (r : CmdRef) (f : Cmd → Cmd) : (s.modCmd r f).rings = s.rings := by unfold State.modCmd; split <;> rfl
@[simp] theorem State.modCmd_tents (s : State) (r : CmdRef) (f : Cmd → Cmd) : (s.modCmd r f).tents = s.tents := by unfold State.modCmd; split <;> rfl
@[simp] theorem State.modCmd_chans (s : State) (r : CmdRef) (f : Cmd → Cmd) : (s.modCmd r f).chans = s.chans := by unfold State.modCmd; split <;> rfl
@[simp] theorem State.modCmd_dram (s : State) (r : CmdRef) (f : Cmd → Cmd) : (s.modCmd r f).dram = s.dram := by unfold State.modCmd; split <;> rfl
@[simp] theorem State.modCmd_net (s : State) (r : CmdRef) (f : Cmd → Cmd) : (s.modCmd r f).net = s.net := by unfold State.modCmd; split <;> rfl
@[simp] theorem State.modCmd_yard (s : State) (r : CmdRef) (f : Cmd → Cmd) : (s.modCmd r f).yard = s.yard := by unfold State.modCmd; split <;> rfl
@[simp] theorem State.modCmd_islands (s : State) (r : CmdRef) (f : Cmd → Cmd) : (s.modCmd r f).islands = s.islands := by unfold State.modCmd; split <;> rfl
@[simp] theorem State.modCmd_clocks (s : State) (r : CmdRef) (f : Cmd → Cmd) : (s.modCmd r f).clocks = s.clocks := by unfold State.modCmd; split <;> rfl
@[simp] theorem State.modCmd_nv (s : State) (r : CmdRef) (f : Cmd → Cmd) : (s.modCmd r f).nv = s.nv := by unfold State.modCmd; split <;> rfl
@[simp] theorem State.modCmd_nvSaving (s : State) (r : CmdRef) (f : Cmd → Cmd) : (s.modCmd r f).nvSaving = s.nvSaving := by unfold State.modCmd; split <;> rfl
@[simp] theorem State.modCmd_boot (s : State) (r : CmdRef) (f : Cmd → Cmd) : (s.modCmd r f).boot = s.boot := by unfold State.modCmd; split <;> rfl
@[simp] theorem State.modCmd_dict (s : State) (r : CmdRef) (f : Cmd → Cmd) : (s.modCmd r f).dict = s.dict := by unfold State.modCmd; split <;> rfl
@[simp] theorem State.modCmd_inputs (s : State) (r : CmdRef) (f : Cmd → Cmd) : (s.modCmd r f).inputs = s.inputs := by unfold State.modCmd; split <;> rfl
@[simp] theorem State.modCmd_trip (s : State) (r : CmdRef) (f : Cmd → Cmd) : (s.modCmd r f).trip = s.trip := by unfold State.modCmd; split <;> rfl
@[simp] theorem State.modCmd_resil (s : State) (r : CmdRef) (f : Cmd → Cmd) : (s.modCmd r f).resil = s.resil := by unfold State.modCmd; split <;> rfl

end Sys2Proof.Machine
end

