-- ==== Sys2Proof/Laws/Memory.lean ====
section
/-!
SUPPORT. Laws of byte memories: every operation keeps the canonical form, and what a read gives after a write.
-/

namespace Sys2Proof.Machine

/-- Entries of a table after a put: the new one, or an old one. -/
theorem Assoc.mem_put {v : Type} {m : FMap v} {k : Nat} {x : v} {p : Nat × v} (h : p ∈ Assoc.put m k x) : p = (k, x) ∨ p ∈ m := by
  induction m with
  | nil => simpa [Assoc.put] using h
  | cons q t ih =>
    obtain ⟨j, y⟩ := q
    simp only [Assoc.put] at h
    split at h
    · simp only [List.mem_cons] at h ⊢
      rcases h with h | h
      · exact .inl h
      · exact .inr (.inr h)
    · split at h
      · simp only [List.mem_cons] at h ⊢
        exact h
      · simp only [List.mem_cons] at h ⊢
        rcases h with h | h
        · exact .inr (.inl h)
        · exact (ih h).imp id .inr

/-- Entries of a table after a removal are old ones. -/
theorem Assoc.mem_del {v : Type} {m : FMap v} {k : Nat} {p : Nat × v} (h : p ∈ Assoc.del m k) : p ∈ m := by
  induction m with
  | nil => simp [Assoc.del] at h
  | cons q t ih =>
    obtain ⟨j, y⟩ := q
    simp only [Assoc.del] at h
    split at h
    · exact List.mem_cons_of_mem _ h
    · split at h
      · exact h
      · simp only [List.mem_cons] at h ⊢
        exact h.imp id ih

namespace Mem

/-- The two halves of the canonical form. -/
theorem wf_iff (m : Mem) : wf m = true ↔ Assoc.sortedFrom 0 m = true ∧ ∀ c ∈ m, c.2 ≠ 0 := by
  simp [wf, List.all_eq_true]

/-- An empty memory is canonical. -/
@[simp] theorem wf_nil : wf [] = true := rfl

/-- A write keeps the canonical form. -/
theorem write_wf (m : Mem) (a : Nat) (b : Byte) (h : wf m = true) : wf (write m a b) = true := by
  rw [wf_iff] at h ⊢
  unfold write
  split
  · exact ⟨Assoc.sortedFrom_del m 0 a h.1, fun c hc => h.2 c (Assoc.mem_del hc)⟩
  · rename_i hb
    refine ⟨Assoc.sortedFrom_put m 0 a b h.1 (Nat.zero_le _), fun c hc => ?_⟩
    rcases Assoc.mem_put hc with rfl | hc
    · exact hb
    · exact h.2 c hc

/-- A write of several bytes keeps the canonical form. -/
theorem writeBytes_wf (bs : List Byte) (m : Mem) (a : Nat) (h : wf m = true) : wf (writeBytes m a bs) = true := by
  induction bs generalizing m a with
  | nil => exact h
  | cons b t ih => exact ih _ _ (write_wf m a b h)

/-- The order of addresses survives the removal of any cells. -/
theorem sortedFrom_filter (m : Mem) (lo : Nat) (f : Host.Cell → Bool) (h : Assoc.sortedFrom lo m = true) :
    Assoc.sortedFrom lo (m.filter f) = true := by
  induction m generalizing lo with
  | nil => rfl
  | cons p t ih =>
    obtain ⟨j, y⟩ := p
    simp only [Assoc.sortedFrom, Bool.and_eq_true, decide_eq_true_eq] at h
    have tail := ih (j + 1) h.2
    rw [List.filter_cons]
    split
    · simpa only [Assoc.sortedFrom, Bool.and_eq_true, decide_eq_true_eq] using And.intro h.1 tail
    · exact Assoc.sortedFrom_mono _ tail (by omega)

/-- Any part of a canonical memory is canonical. -/
theorem filter_wf (m : Mem) (f : Host.Cell → Bool) (h : wf m = true) : wf (m.filter f) = true := by
  rw [wf_iff] at h ⊢
  exact ⟨sortedFrom_filter m 0 f h.1, fun c hc => h.2 c (List.mem_of_mem_filter hc)⟩

/-- Writing zeros over a range keeps the canonical form. -/
theorem zero_wf (m : Mem) (a n : Nat) (h : wf m = true) : wf (zero m a n) = true := filter_wf m _ h

/-- What a key below every key of a rising table gives. -/
theorem find?_none_of_lt {v : Type} (m : FMap v) (lo k : Nat) (h : Assoc.sortedFrom lo m = true) (hk : k < lo) : Assoc.find? m k = none := by
  cases m with
  | nil => rfl
  | cons p t =>
    obtain ⟨j, y⟩ := p
    simp only [Assoc.sortedFrom, Bool.and_eq_true, decide_eq_true_eq] at h
    simp [Assoc.find?, show ¬ j = k by omega, show k < j by omega]

/-- A removed key has no entry in a rising table. -/
theorem find?_del_self {v : Type} (m : FMap v) (lo k : Nat) (h : Assoc.sortedFrom lo m = true) : Assoc.find? (Assoc.del m k) k = none := by
  induction m generalizing lo with
  | nil => rfl
  | cons p t ih =>
    obtain ⟨j, y⟩ := p
    simp only [Assoc.sortedFrom, Bool.and_eq_true, decide_eq_true_eq] at h
    simp only [Assoc.del]
    split
    · rename_i e
      subst e
      exact find?_none_of_lt t _ _ h.2 (by omega)
    · split
      · rename_i h1 h2
        simp [Assoc.find?, h1, h2]
      · rename_i h1 h2
        simp [Assoc.find?, h1, h2, ih (j + 1) h.2]

/-- The other keys keep their entries. -/
theorem find?_del_ne {v : Type} (m : FMap v) (lo : Nat) {k j : Nat} (h : Assoc.sortedFrom lo m = true) (hj : j ≠ k) :
    Assoc.find? (Assoc.del m k) j = Assoc.find? m j := by
  induction m generalizing lo with
  | nil => rfl
  | cons p t ih =>
    obtain ⟨i, y⟩ := p
    simp only [Assoc.sortedFrom, Bool.and_eq_true, decide_eq_true_eq] at h
    simp only [Assoc.del]
    split
    · rename_i e
      subst e
      simp only [Assoc.find?, Ne.symm hj, if_false]
      split
      · exact find?_none_of_lt t _ _ h.2 (by omega)
      · rfl
    · split
      · rfl
      · simp [Assoc.find?, ih (i + 1) h.2]

/-- A read after a write to the same address gives the byte written. -/
theorem read_write_self (m : Mem) (a : Nat) (b : Byte) (h : wf m = true) : read (write m a b) a = b := by
  rw [wf_iff] at h
  unfold read write
  split
  · rename_i hb
    simp [Assoc.get, find?_del_self m 0 a h.1, hb]
  · simp

/-- A write leaves every other byte alone. -/
theorem read_write_ne (m : Mem) {a j : Nat} (b : Byte) (h : wf m = true) (hj : j ≠ a) : read (write m a b) j = read m j := by
  rw [wf_iff] at h
  unfold read write
  split
  · simp [Assoc.get, find?_del_ne m 0 h.1 hj]
  · exact Assoc.get_put_ne 0 m b hj

/-- Bytes outside those written keep their values. -/
theorem read_writeBytes_out (bs : List Byte) (m : Mem) (a j : Nat) (h : wf m = true) (hj : j < a ∨ a + bs.length ≤ j) :
    read (writeBytes m a bs) j = read m j := by
  induction bs generalizing m a with
  | nil => rfl
  | cons b t ih =>
    simp only [List.length_cons] at hj
    simp only [writeBytes]
    rw [ih _ _ (write_wf m a b h) (by omega), read_write_ne m b h (by omega)]

/-- A byte written reads as the byte given for it. -/
theorem read_writeBytes_in (bs : List Byte) (m : Mem) (a i : Nat) (h : wf m = true) (hi : i < bs.length) :
    read (writeBytes m a bs) (a + i) = bs.getD i 0 := by
  induction bs generalizing m a i with
  | nil => simp at hi
  | cons b t ih =>
    simp only [writeBytes]
    cases i with
    | zero =>
      rw [read_writeBytes_out _ _ _ _ (write_wf m a b h) (by omega)]
      simpa using read_write_self m a b h
    | succ i =>
      have := ih (write m a b) (a + 1) i (write_wf m a b h) (by simpa using hi)
      simpa [Nat.add_assoc, Nat.add_comm 1 i] using this

end Mem

/-- The memories of the state after reset are canonical. -/
theorem State.reset_memSound : dramSound State.reset.dram ∧ (∀ r ∈ State.reset.rings, r.2.scratch.wf = true) ∧ State.reset.hub.hostMem.wf = true := by
  refine ⟨?_, ?_, rfl⟩
  · intro p hp
    exact absurd hp (by simp [State.reset])
  · intro p hp
    exact absurd hp (by simp [State.reset])

end Sys2Proof.Machine
end

