-- ==== Sys2Proof/Laws/AlwaysOnOps.lean ====
section
/-! SUPPORT. The always-on domain (State.kept) is kept by every operation and command of Machine: Ops, Journal, Requests. -/

namespace Sys2Proof.Machine

/-- What every command keeps that is none of power, clocks, ageing, start-up, board inputs, NV store and dictionary: the always-on domain, each
island but for the time since which it is idle, and the sets of the NV store but 6 and 7. -/
abbrev Kept : Type := AlwaysOn × (Nat → Island) × (Nat → NvSet)

/-- That of a state. -/
def State.kept (s : State) : Kept :=
  ({ s.aon with islands := [], nv := [] }, fun n => { s.island n with idleSince := none }, fun k => if k = 6 ∨ k = 7 then {} else s.nvSet k)

/-- A fold over the state keeps the always-on domain if every step does. -/
theorem foldl_kept {α : Type} (f : State → α → State) (h : ∀ s a, (f s a).kept = s.kept) (l : List α) (s : State) :
    (l.foldl f s).kept = s.kept := by
  induction l generalizing s with
  | nil => rfl
  | cons a t ih => simp [ih, h]

/-- The same, from a state reached before. -/
theorem foldl_kept_of {α : Type} {f : State → α → State} {l : List α} {s : State} {a : Kept} (h : ∀ s x, (f s x).kept = s.kept)
    (hs : s.kept = a) : (l.foldl f s).kept = a := (foldl_kept f h l s).trans hs

/-- The same for a fold that carries a result beside the state. -/
theorem foldl_kept_fst {α β : Type} (f : State × β → α → State × β) (h : ∀ p a, (f p a).1.kept = p.1.kept) (l : List α) (p : State × β) :
    (l.foldl f p).1.kept = p.1.kept := by
  induction l generalizing p with
  | nil => rfl
  | cons a t ih => simp [ih, h]

/-- The same, from a state reached before. -/
theorem foldl_kept_fst_of {α β : Type} {f : State × β → α → State × β} {l : List α} {p : State × β} {a : Kept}
    (h : ∀ p x, (f p x).1.kept = p.1.kept) (hs : p.1.kept = a) : (l.foldl f p).1.kept = a := (foldl_kept_fst f h l p).trans hs

/-- An Alasha instruction whose tests and effect keep the always-on domain. -/
structure AlOp.Keeps (op : AlOp) : Prop where
  test : ∀ s who t u ps, (op.test s who t u ps).1.kept = s.kept
  act : ∀ s who t u ps slot, (op.act s who t u ps slot).kept = s.kept

/-- A change of the parts outside the domain. -/
@[simp] theorem State.with_kept (s : State) (fr : Nat) (o : List Output) (ri : FMap Ring) (te : FMap Tent) (ch : FMap Chan) (dr : FMap DramEll)
    (hu : Hub) (ne : Net) (sv : FMap NvContent) (di : Dict) (re : Resilience) :
    ({ s with free := fr, out := o, rings := ri, tents := te, chans := ch, dram := dr, hub := hu, net := ne, nvSaving := sv, dict := di
              resil := re } : State).kept = s.kept := rfl

/-- A tent's idleness ends. -/
@[simp] theorem State.idle_kept (s : State) (t : Nat) : (s.modIsland t (fun i => { i with idleSince := none })).kept = s.kept := by
  have e : ∀ n, { (s.modIsland t (fun i => { i with idleSince := none })).island n with idleSince := none } =
      { s.island n with idleSince := none } := by
    intro n
    by_cases h : n = t
    · subst h
      simp [State.modIsland, State.island]
    · simp [State.modIsland, State.island, Assoc.get_put_ne _ _ _ h]
  simp only [State.kept, e]
  rfl

/-- A save of set 6 or 7 starts. -/
theorem State.nvStart_kept (s : State) (n : Nat) (c : NvContent) (h : n = 6 ∨ n = 7) : (s.nvStart n c).kept = s.kept := by
  have e : ∀ k, (if k = 6 ∨ k = 7 then {} else (s.nvStart n c).nvSet k) = if k = 6 ∨ k = 7 then ({} : NvSet) else s.nvSet k := by
    intro k
    by_cases hk : k = 6 ∨ k = 7
    · simp [hk]
    · have : k ≠ n := by rintro rfl; exact hk h
      simp [hk, State.nvStart, State.nvSet, Assoc.get_put_ne _ _ _ this]
  simp only [State.kept, e]
  rfl

@[simp] theorem State.nvStart6_kept (s : State) (c : NvContent) : (s.nvStart 6 c).kept = s.kept := s.nvStart_kept 6 c (.inl rfl)
@[simp] theorem State.nvStart7_kept (s : State) (c : NvContent) : (s.nvStart 7 c).kept = s.kept := s.nvStart_kept 7 c (.inr rfl)

/-- The state of a pair that an operation has answered. -/
theorem aon_of_eq {β : Type} {p : State × β} {s : State} {x : β} {a : Kept} (h : p = (s, x)) (hp : p.1.kept = a) : s.kept = a := by
  subst h
  exact hp

/-- A change of the steelyard that leaves levels, floors and shares as they are. -/
@[simp] theorem State.modYard_kept (s : State) (f : Steelyard → Steelyard) (h1 : ∀ y, (f y).level = y.level)
    (h2 : ∀ y, (f y).capLevel = y.capLevel) (h3 : ∀ y, (f y).thermal = y.thermal) (h4 : ∀ y, (f y).fracs = y.fracs) :
    (s.modYard f).kept = s.kept := by
  simp [State.kept, State.aon, State.island, State.nvSet, State.modYard, h1, h2, h3, h4]

/-- Both branches of a condition keep the domain. -/
theorem fst_ite_kept {β : Type} {c : Prop} [Decidable c] {p q : State × β} {a : Kept} (hp : p.1.kept = a) (hq : q.1.kept = a) :
    (if c then p else q).1.kept = a := by
  split
  · exact hp
  · exact hq

@[simp] theorem State.setRing_kept (s : State) (r : Nat) (x : Ring) : (State.setRing s r x).kept = s.kept := by
  simp [State.setRing]

@[simp] theorem State.modRing_kept (s : State) (r : Nat) (f : Ring → Ring) : (State.modRing s r f).kept = s.kept := by
  simp [State.modRing]

@[simp] theorem State.modBooth_kept (s : State) (r b : Nat) (f : Booth → Booth) : (State.modBooth s r b f).kept = s.kept := by
  simp [State.modBooth]

@[simp] theorem State.setTroupe_kept (s : State) (who : TroupeRef) (t : Troupe) : (State.setTroupe s who t).kept = s.kept := by
  simp [State.setTroupe]

@[simp] theorem State.setTent_kept (s : State) (t : Nat) (x : Tent) : (State.setTent s t x).kept = s.kept := by
  simp [State.setTent]

@[simp] theorem State.modTent_kept (s : State) (t : Nat) (f : Tent → Tent) : (State.modTent s t f).kept = s.kept := by
  simp [State.modTent]

@[simp] theorem State.modTentCounters_kept (s : State) (t : Nat) (f : TentCounters → TentCounters) : (State.modTentCounters s t f).kept = s.kept := by
  simp [State.modTentCounters]

@[simp] theorem State.modChan_kept (s : State) (c : Nat) (f : Chan → Chan) : (State.modChan s c f).kept = s.kept := by
  simp [State.modChan]

@[simp] theorem State.modChanCounters_kept (s : State) (c : Nat) (f : ChanCounters → ChanCounters) : (State.modChanCounters s c f).kept = s.kept := by
  simp [State.modChanCounters]

@[simp] theorem State.modHub_kept (s : State) (f : Hub → Hub) : (State.modHub s f).kept = s.kept := by
  simp [State.modHub]

@[simp] theorem State.modNet_kept (s : State) (f : Net → Net) : (State.modNet s f).kept = s.kept := by
  simp [State.modNet]

@[simp] theorem State.setCtx_kept (s : State) (c : Nat) (x : Ctx) : (State.setCtx s c x).kept = s.kept := by
  simp [State.setCtx]

@[simp] theorem State.modCtx_kept (s : State) (c : Nat) (f : Ctx → Ctx) : (State.modCtx s c f).kept = s.kept := by
  unfold State.modCtx
  repeat' split
  all_goals simp

@[simp] theorem State.setCmd_kept (s : State) (r : CmdRef) (x : Cmd) : (State.setCmd s r x).kept = s.kept := by
  simp [State.setCmd]

@[simp] theorem State.modCmd_kept (s : State) (r : CmdRef) (f : Cmd → Cmd) : (State.modCmd s r f).kept = s.kept := by
  unfold State.modCmd
  repeat' split
  all_goals simp

@[simp] theorem State.emit_kept (s : State) (o : Output) : (State.emit s o).kept = s.kept := by
  simp [State.emit]

@[simp] theorem State.freeW64_kept (s : State) : (State.freeW64 s).1.kept = s.kept := by
  simp [State.freeW64]

@[simp] theorem State.freeW128_kept (s : State) : (State.freeW128 s).1.kept = s.kept := by
  simp [State.freeW128]

@[simp] theorem State.freeBytes_kept (s : State) (blocks : Nat) : (State.freeBytes s blocks).1.kept = s.kept := by
  induction blocks generalizing s with
  | zero => simp [State.freeBytes]
  | succ n ih =>
    simp only [State.freeBytes]
    repeat' (first
      | simp [ih])

@[simp] theorem State.nextOrder_kept (s : State) : (State.nextOrder s).1.kept = s.kept := by
  simp [State.nextOrder]

@[simp] theorem State.snoop_kept (s : State) (g : Nat) (inv : Bool) : (State.snoop s g inv).kept = s.kept := by
  unfold State.snoop
  repeat' split
  all_goals simp

@[simp] theorem State.clearForRead_kept (s : State) (g : Nat) : (State.clearForRead s g).1.kept = s.kept := by
  unfold State.clearForRead
  repeat' split
  all_goals simp

@[simp] theorem State.clearForWrite_kept (s : State) (g : Nat) : (State.clearForWrite s g).1.kept = s.kept := by
  unfold State.clearForWrite
  repeat' split
  all_goals simp

@[simp] theorem State.putAnswer_kept (s : State) (who : Asker) (g : Nat) (r : GrainRead) : (State.putAnswer s who g r).kept = s.kept := by
  unfold State.putAnswer
  repeat' split
  all_goals simp

@[simp] theorem State.takeAnswers_kept (s : State) (who : Asker) (gs : List Nat) : (State.takeAnswers s who gs).kept = s.kept := by
  simp [State.takeAnswers]

@[simp] theorem State.forgetAnswers_kept (s : State) (p : Asker → Bool) : (State.forgetAnswers s p).kept = s.kept := by
  simp [State.forgetAnswers]

@[simp] theorem State.interrupt_kept (s : State) (v : Nat) : (State.interrupt s v).kept = s.kept := by
  unfold State.interrupt
  dsimp only
  repeat' split
  all_goals simp

@[simp] theorem State.msixWrite_kept (s : State) (v dword : Nat) (x : W32) : (State.msixWrite s v dword x).kept = s.kept := by
  unfold State.msixWrite
  dsimp only
  repeat' split
  all_goals simp

@[simp] theorem State.hostGrain?_kept (s : State) (who : Asker) (g : Nat) : (State.hostGrain? s who g).1.kept = s.kept := by
  unfold State.hostGrain?
  repeat' split
  all_goals simp

@[simp] theorem State.jrnMod_kept (s : State) (key : Nat) (f : JrnStep → JrnStep) : (State.jrnMod s key f).kept = s.kept := by
  unfold State.jrnMod
  repeat' split
  all_goals simp

@[simp] theorem State.jrnRequest_kept (s : State) (key kind : Nat) (w0 : W64) (source : Nat) :
    (State.jrnRequest s key kind w0 source).kept = s.kept := by
  simp [State.jrnRequest]

@[simp] theorem State.jrnFold_kept (s : State) (key kind ell ring : Nat) : (State.jrnFold s key kind ell ring).kept = s.kept := by
  simp [State.jrnFold]

@[simp] theorem State.jrnEvict_kept (s : State) (ell : Nat) : (State.jrnEvict s ell).kept = s.kept := by
  unfold State.jrnEvict
  repeat' split
  all_goals simp

@[simp] theorem State.takeForced_kept (s : State) (key : Nat) (w0 : W64) : (State.takeForced s key w0).kept = s.kept := by
  unfold State.takeForced
  repeat' split
  all_goals simp

@[simp] theorem State.diverge_kept (s : State) (key kind : Nat) : (State.diverge s key kind).kept = s.kept := by
  unfold State.diverge
  repeat' split
  all_goals simp

@[simp] theorem State.sendBushel_kept (s : State) (q : BReq) : (State.sendBushel s q).kept = s.kept := by
  simp [State.sendBushel]

@[simp] theorem State.placed_kept (s : State) (tent : Nat) (q : BReq) : (State.placed s tent q).1.kept = s.kept := by
  unfold State.placed
  repeat' split
  all_goals simp

@[simp] theorem State.refuse_kept (s : State) (tent : Nat) (q : BReq) : (State.refuse s tent q).kept = s.kept := by
  simp [State.refuse]

@[simp] theorem State.overflowMiss_kept (s : State) (tent bank : Nat) (q : BReq) : (State.overflowMiss s tent bank q).kept = s.kept := by
  unfold State.overflowMiss
  dsimp only
  repeat' split
  all_goals simp

@[simp] theorem State.openMiss_kept (s : State) (tent reg : Nat) (q : BReq) (copy : EllCopy) (frame : Option Nat) :
    (State.openMiss s tent reg q copy frame).kept = s.kept := by
  simp [State.openMiss]

@[simp] theorem State.joinReg_kept (s : State) (tent : Nat) (q : BReq) : (State.joinReg s tent q).kept = s.kept := by
  simp [State.joinReg]

end Sys2Proof.Machine
end

