-- ==== Sys2Proof/Laws/AlwaysOnFrames.lean ====
section
/-! SUPPORT. The always-on domain (State.kept) is kept by every operation and command of Machine: Frames, Misses. -/

namespace Sys2Proof.Machine

@[simp] theorem State.setDram_kept (s : State) (e : Nat) (d : DramEll) : (State.setDram s e d).kept = s.kept := by
  simp [State.setDram]

@[simp] theorem State.rowOpened_kept (s : State) (chan bank row : Nat) : (State.rowOpened s chan bank row).kept = s.kept := by
  simp [State.rowOpened]

@[simp] theorem State.openHeaderRow_kept (s : State) (e : Nat) : (State.openHeaderRow s e).kept = s.kept := by
  simp [State.openHeaderRow]

@[simp] theorem State.openRow_kept (s : State) (e : Nat) (tags : Bool) : (State.openRow s e tags).kept = s.kept := by
  unfold State.openRow
  repeat' split
  all_goals simp

@[simp] theorem State.countMoved_kept (s : State) (e read written : Nat) : (State.countMoved s e read written).kept = s.kept := by
  simp [State.countMoved]

@[simp] theorem State.choose_kept (s : State) (tent set : Nat) (avoid : List Nat) : (State.choose s tent set avoid).1.kept = s.kept := by
  unfold State.choose
  dsimp only
  repeat' split
  all_goals simp

@[simp] theorem State.putFrame_kept (s : State) (tent k : Nat) (kind : FrameKind) : (State.putFrame s tent k kind).kept = s.kept := by
  simp [State.putFrame]

@[simp] theorem State.dropFrame_kept (s : State) (tent k : Nat) : (State.dropFrame s tent k).kept = s.kept := by
  simp [State.dropFrame]

@[simp] theorem State.modHeaderFrame_kept (s : State) (e : Nat) (f : FMap EllHeader → W16 → W16 → FrameKind) :
    (State.modHeaderFrame s e f).kept = s.kept := by
  simp [State.modHeaderFrame]

@[simp] theorem State.putDramHeader_kept (s : State) (e : Nat) (h : EllHeader) : (State.putDramHeader s e h).kept = s.kept := by
  simp [State.putDramHeader]

@[simp] theorem State.putHeader_kept (s : State) (e : Nat) (h : EllHeader) : (State.putHeader s e h).kept = s.kept := by
  unfold State.putHeader
  dsimp only
  repeat' split
  all_goals simp

@[simp] theorem State.storeEll_kept (s : State) (c : EllCopy) : (State.storeEll s c).kept = s.kept := by
  unfold State.storeEll
  dsimp only
  repeat' split
  all_goals simp

@[simp] theorem State.askFill_kept (s : State) (c : EllCopy) : (State.askFill s c).kept = s.kept := by
  unfold State.askFill
  dsimp only
  repeat' split
  all_goals simp

@[simp] theorem State.storeHeaders_kept (s : State) (tent m : Nat) (hs : FMap EllHeader) (changed : W16) :
    (State.storeHeaders s tent m hs changed).kept = s.kept := by
  unfold State.storeHeaders
  repeat' (first
    | (simp; done)
    | with_reducible rfl
    | assumption
    | split
    | (refine foldl_kept_of (fun _ _ => ?_) ?_))

theorem State.evictWith_kept (bring : State → List Nat → Nat → State × Bool) (s : State) (tent k : Nat) (avoid : List Nat)
    (hb : ∀ s l e, (bring s l e).1.kept = s.kept) : (s.evictWith bring tent k avoid).1.kept = s.kept := by
  unfold State.evictWith
  repeat' (first
    | (simp [hb]; done)
    | with_reducible rfl
    | assumption
    | split
    | (refine foldl_kept_of (fun _ _ => ?_) ?_)
    | (refine foldl_kept_fst_of (fun _ _ => ?_) ?_)
    | (refine aon_of_eq (by assumption) ?_)
    | simp)

@[simp] theorem State.bringHeader_kept (fuel : Nat) (s : State) (avoid : List Nat) (e : Nat) : (s.bringHeader fuel avoid e).1.kept = s.kept := by
  induction fuel generalizing s avoid e with
  | zero => rfl
  | succ n ih =>
    have hb : ∀ (s : State) (t k : Nat) (l : List Nat), (s.evictWith (fun s a e => s.bringHeader n a e) t k l).1.kept = s.kept :=
      fun s t k l => State.evictWith_kept _ s t k l (fun s l e => ih s l e)
    unfold State.bringHeader
    repeat' (first
      | (simp [hb]; done)
      | with_reducible rfl
      | assumption
      | split
      | (refine foldl_kept_of (fun _ _ => ?_) ?_)
      | (refine foldl_kept_fst_of (fun _ _ => ?_) ?_)
      | (refine aon_of_eq (by assumption) ?_)
      | simp)

@[simp] theorem State.needHeader_kept (s : State) (avoid : List Nat) (e : Nat) : (State.needHeader s avoid e).1.kept = s.kept := by
  unfold State.needHeader
  repeat' split
  all_goals simp

@[simp] theorem State.freeFrame_kept (s : State) (tent set : Nat) (avoid : List Nat) : (s.freeFrame tent set avoid).1.kept = s.kept := by
  have hb : ∀ (s : State) (t k : Nat) (l : List Nat), (s.evictWith (fun s a e => s.needHeader a e) t k l).1.kept = s.kept :=
    fun s t k l => State.evictWith_kept _ s t k l (fun s l e => by simp)
  unfold State.freeFrame
  repeat' (first
    | (simp [hb]; done)
    | with_reducible rfl
    | assumption
    | split
    | (refine foldl_kept_of (fun _ _ => ?_) ?_)
    | (refine foldl_kept_fst_of (fun _ _ => ?_) ?_)
    | (refine aon_of_eq (by assumption) ?_)
    | simp [hb])

@[simp] theorem State.install_kept (s : State) (c : EllCopy) : (State.install s c).1.kept = s.kept := by
  unfold State.install
  dsimp only
  repeat' split
  all_goals simp

@[simp] theorem State.setCopy_kept (s : State) (c : EllCopy) : (State.setCopy s c).kept = s.kept := by
  simp [State.setCopy]

@[simp] theorem State.prepare_kept (s : State) (c : EllCopy) (dead : Bool) : (State.prepare s c dead).1.kept = s.kept := by
  unfold State.prepare
  dsimp only
  repeat' split
  all_goals simp

@[simp] theorem State.putWritten_kept (s : State) (c : EllCopy) : (State.putWritten s c).kept = s.kept := by
  unfold State.putWritten
  dsimp only
  repeat' split
  all_goals simp

@[simp] theorem State.dropDead_kept (s : State) (c : EllCopy) : (State.dropDead s c).kept = s.kept := by
  unfold State.dropDead
  dsimp only
  repeat' split
  all_goals simp

@[simp] theorem State.reserve_kept (s : State) (tent ell : Nat) : (State.reserve s tent ell).1.kept = s.kept := by
  unfold State.reserve
  dsimp only
  repeat' split
  all_goals simp

@[simp] theorem State.takeReg_kept (s : State) (tent : Nat) (q : BReq) : (State.takeReg s tent q).1.kept = s.kept := by
  unfold State.takeReg
  dsimp only
  repeat' split
  all_goals simp

@[simp] theorem State.enterReg_kept (s : State) (tent : Nat) (q : BReq) : (State.enterReg s tent q).1.kept = s.kept := by
  unfold State.enterReg
  dsimp only
  repeat' split
  all_goals simp

@[simp] theorem State.missed_kept (s : State) (tent bank : Nat) (q : BReq) : (State.missed s tent bank q).1.kept = s.kept := by
  unfold State.missed
  repeat' (first
    | (simp; done)
    | with_reducible rfl
    | assumption
    | split
    | (refine foldl_kept_of (fun _ _ => ?_) ?_)
    | (refine foldl_kept_fst_of (fun _ _ => ?_) ?_)
    | (refine aon_of_eq (by assumption) ?_)
    | simp)

@[simp] theorem State.drainHeld_kept (s : State) (ell : Nat) : (State.drainHeld s ell).1.kept = s.kept := by
  unfold State.drainHeld
  repeat' split
  all_goals simp

@[simp] theorem State.clearFor_kept (s : State) (q : BReq) : (s.clearFor q).1.kept = s.kept := by
  unfold State.clearFor
  dsimp only
  generalize List.range 16 = l
  have h : (l.foldl (fun (acc : State × Bool) i =>
      let (s, ok) := acc.1.clearForWrite (grainOfEll q.ell i)
      (s, acc.2 && ok)) (s, true)).1.kept = s.kept := by
    refine foldl_kept_fst_of (fun _ _ => ?_) rfl
    simp
  dsimp only at h
  repeat' split
  all_goals first | exact h | simp

@[simp] theorem State.mayServe_kept (s : State) (q : BReq) : (State.mayServe s q).1.kept = s.kept := by
  unfold State.mayServe
  dsimp only
  repeat' split
  all_goals simp

@[simp] theorem State.goBehind_kept (s : State) (tent bank : Nat) (q : BReq) : (State.goBehind s tent bank q).kept = s.kept := by
  unfold State.goBehind
  repeat' split
  all_goals simp

@[simp] theorem State.putAfter_kept (s : State) (old new : EllCopy) (dead : Bool) : (State.putAfter s old new dead).kept = s.kept := by
  unfold State.putAfter
  repeat' split
  all_goals simp

theorem State.serveHit_kept (perform : Perform) (hp : ∀ s c q, (perform s c q).1.kept = s.kept) (s : State) (tent k : Nat) (c : EllCopy) (q : BReq) :
    (s.serveHit perform tent k c q).1.kept = s.kept := by
  unfold State.serveHit
  repeat' (first
    | (simp [hp]; done)
    | with_reducible rfl
    | assumption
    | split
    | (refine foldl_kept_of (fun _ _ => ?_) ?_)
    | (refine foldl_kept_fst_of (fun _ _ => ?_) ?_)
    | (refine aon_of_eq (by assumption) ?_)
    | simp [hp])

theorem State.serveNow_kept (perform : Perform) (hp : ∀ s c q, (perform s c q).1.kept = s.kept) (s : State) (tent : Nat) (q : BReq) :
    (s.serveNow perform tent q).1.kept = s.kept := by
  unfold State.serveNow
  repeat' (first
    | (simp [hp, State.serveHit_kept perform hp]; done)
    | with_reducible rfl
    | assumption
    | split
    | (refine foldl_kept_of (fun _ _ => ?_) ?_)
    | (refine foldl_kept_fst_of (fun _ _ => ?_) ?_)
    | (refine aon_of_eq (by assumption) ?_)
    | simp)

theorem State.serveEll_kept (perform : Perform) (hp : ∀ s c q, (perform s c q).1.kept = s.kept) (s : State) (tent bank : Nat) (q : BReq) :
    (s.serveEll perform tent bank q).1.kept = s.kept := by
  unfold State.serveEll
  repeat' (first
    | (simp [State.serveNow_kept perform hp]; done)
    | with_reducible rfl
    | assumption
    | split
    | (refine foldl_kept_of (fun _ _ => ?_) ?_)
    | (refine foldl_kept_fst_of (fun _ _ => ?_) ?_)
    | (refine aon_of_eq (by assumption) ?_)
    | simp)

theorem State.serveAgain_kept (perform : Perform) (hp : ∀ s c q, (perform s c q).1.kept = s.kept) (s : State) (tent : Nat) (q : BReq) :
    (s.serveAgain perform tent q).1.kept = s.kept := by
  unfold State.serveAgain
  repeat' (first
    | (simp [State.serveNow_kept perform hp]; done)
    | with_reducible rfl
    | assumption
    | split
    | (refine foldl_kept_of (fun _ _ => ?_) ?_)
    | (refine foldl_kept_fst_of (fun _ _ => ?_) ?_)
    | (refine aon_of_eq (by assumption) ?_)
    | simp)

theorem State.arriveWith_kept (serve : State → Nat → Nat → BReq → State × Bool) (h : ∀ s t b q, (serve s t b q).1.kept = s.kept) (s : State)
    (q : BReq) : (s.arriveWith serve q).kept = s.kept := by
  unfold State.arriveWith
  repeat' (first
    | (simp [h]; done)
    | with_reducible rfl
    | assumption
    | split
    | (refine foldl_kept_of (fun _ _ => ?_) ?_)
    | (refine foldl_kept_fst_of (fun _ _ => ?_) ?_)
    | (refine aon_of_eq (by assumption) ?_)
    | simp)

end Sys2Proof.Machine
end

