-- ==== Sys2Proof/Laws/AlwaysOnHome.lean ====
section
/-! SUPPORT. The always-on domain (State.kept) is kept by every operation and command of Machine: Home, Signals, Troupes. -/

namespace Sys2Proof.Machine

@[simp] theorem State.modServing_kept (s : State) (id : Nat) (f : Serve → Serve) : (State.modServing s id f).kept = s.kept := by
  simp [State.modServing]

@[simp] theorem State.performed_kept (s : State) (who : WrWho) (bad : Bool) : (State.performed s who bad).kept = s.kept := by
  unfold State.performed
  repeat' split
  all_goals simp

@[simp] theorem State.unsent_kept (s : State) (who : WrWho) : (State.unsent s who).kept = s.kept := by
  unfold State.unsent
  repeat' split
  all_goals simp

@[simp] theorem State.hostWrite_kept (s : State) (g : Nat) (bs : List (Nat × Byte)) (who : WrWho) : (State.hostWrite s g bs who).kept = s.kept := by
  unfold State.hostWrite
  repeat' split
  all_goals simp

@[simp] theorem State.answerRead_kept (s : State) (who : Asker) (g : Nat) (r : GrainRead) : (State.answerRead s who g r).kept = s.kept := by
  unfold State.answerRead
  repeat' split
  all_goals simp

@[simp] theorem State.countForeign_kept (s : State) (c : EllCopy) (key gen : Nat) : (State.countForeign s c key gen).kept = s.kept := by
  unfold State.countForeign
  repeat' split
  all_goals simp

@[simp] theorem State.countTakeover_kept (s : State) (c : EllCopy) (key gen : Nat) : (State.countTakeover s c key gen).kept = s.kept := by
  unfold State.countTakeover
  repeat' split
  all_goals simp

@[simp] theorem State.readCopy_kept (s : State) (c : EllCopy) (q : BReq) : (State.readCopy s c q).1.kept = s.kept := by
  unfold State.readCopy
  dsimp only
  repeat' split
  all_goals simp

theorem State.performAgent_kept (s : State) (c : EllCopy) (q : BReq) : (s.performAgent c q).1.kept = s.kept := by
  unfold State.performAgent
  repeat' (first
    | (simp []; done)
    | with_reducible rfl
    | assumption
    | split)

@[simp] theorem State.serveEllAgent_kept (s : State) (tent bank : Nat) (q : BReq) : (s.serveEll State.performAgent tent bank q).1.kept = s.kept :=
  State.serveEll_kept _ State.performAgent_kept s tent bank q

@[simp] theorem State.serveAgainAgent_kept (s : State) (tent : Nat) (q : BReq) : (s.serveAgain State.performAgent tent q).1.kept = s.kept :=
  State.serveAgain_kept _ State.performAgent_kept s tent q

@[simp] theorem State.serveAgent_kept (s : State) (tent bank : Nat) (q : BReq) : (s.serveAgent tent bank q).1.kept = s.kept := by
  unfold State.serveAgent
  repeat' (first
    | (simp []; done)
    | with_reducible rfl
    | assumption
    | split
    | (refine foldl_kept_of (fun _ _ => ?_) ?_)
    | (refine foldl_kept_fst_of (fun _ _ => ?_) ?_)
    | (refine aon_of_eq (by assumption) ?_)
    | simp [])

@[simp] theorem State.arriveAgent_kept (s : State) (q : BReq) : (s.arriveWith State.serveAgent q).kept = s.kept :=
  State.arriveWith_kept _ State.serveAgent_kept s q

@[simp] theorem State.homeWrite_kept (s : State) (key gen g : Nat) (bs : List (Nat × Byte)) (who : WrWho) :
    (State.homeWrite s key gen g bs who).kept = s.kept := by
  unfold State.homeWrite
  repeat' (first
    | simp)

@[simp] theorem State.homeRead_kept (s : State) (who : Asker) (key gen g : Nat) : (State.homeRead s who key gen g).1.kept = s.kept := by
  unfold State.homeRead
  dsimp only
  repeat' split
  all_goals simp

@[simp] theorem State.passRead_kept (s : State) (who : Asker) (key gen g : Nat) : (State.passRead s who key gen g).1.kept = s.kept := by
  unfold State.passRead
  repeat' (first
    | (simp; done)
    | with_reducible rfl
    | assumption
    | split
    | (refine foldl_kept_of (fun _ _ => ?_) ?_)
    | (refine foldl_kept_fst_of (fun _ _ => ?_) ?_)
    | (refine aon_of_eq (by assumption) ?_)
    | simp)

@[simp] theorem State.hostFrame_kept (s : State) (g : Nat) (bs : List (Nat × Byte)) : (State.hostFrame s g bs).kept = s.kept := by
  unfold State.hostFrame
  repeat' split
  all_goals simp

@[simp] theorem State.hostStore_kept (s : State) (g : Nat) (bs : List (Nat × Byte)) (who : WrWho) : (State.hostStore s g bs who).kept = s.kept := by
  simp [State.hostStore]

@[simp] theorem State.readPlace_kept (s : State) (who : Asker) (host : Bool) (a n : Nat) : (State.readPlace s who host a n).1.kept = s.kept := by
  unfold State.readPlace
  repeat' (first
    | (simp; done)
    | with_reducible rfl
    | assumption
    | split
    | (refine foldl_kept_of (fun _ _ => ?_) ?_)
    | (refine foldl_kept_fst_of (fun _ _ => ?_) ?_)
    | (refine aon_of_eq (by assumption) ?_)
    | simp)

@[simp] theorem State.writePlace_kept (s : State) (host : Bool) (a : Nat) (bs : List Byte) (who : WrWho) :
    (State.writePlace s host a bs who).kept = s.kept := by
  unfold State.writePlace
  repeat' (first
    | simp
    | with_reducible rfl
    | assumption
    | split
    | (refine foldl_kept_of (fun _ _ => ?_) ?_))

@[simp] theorem walk_kept (s : State) (who : Asker) (va level table : Nat) : (walk s who va level table).1.kept = s.kept := by
  induction level generalizing s table with
  | zero =>
    unfold walk
    dsimp only
    repeat' (first
      | with_reducible rfl
      | exact aon_of_eq (by assumption) (State.passRead_kept ..)
      | split)
  | succ n ih =>
    unfold walk
    dsimp only
    repeat' (first
      | with_reducible rfl
      | exact aon_of_eq (by assumption) (State.passRead_kept ..)
      | split
      | refine (ih ..).trans ?_)

@[simp] theorem State.translate_kept (s : State) (tent ctx va : Nat) (write : Bool) : (State.translate s tent ctx va write).1.kept = s.kept := by
  unfold State.translate
  repeat' (first
    | (simp; done)
    | with_reducible rfl
    | assumption
    | split
    | (refine foldl_kept_of (fun _ _ => ?_) ?_)
    | (refine foldl_kept_fst_of (fun _ _ => ?_) ?_)
    | (refine aon_of_eq (by assumption) ?_)
    | simp)

@[simp] theorem State.peekVa_kept (s : State) (who : Asker) (tent ctx va n : Nat) : (State.peekVa s who tent ctx va n).1.kept = s.kept := by
  unfold State.peekVa
  repeat' (first
    | (simp; done)
    | with_reducible rfl
    | assumption
    | split
    | (refine foldl_kept_of (fun _ _ => ?_) ?_)
    | (refine foldl_kept_fst_of (fun _ _ => ?_) ?_)
    | (refine aon_of_eq (by assumption) ?_)
    | simp)

@[simp] theorem State.readVa_kept (s : State) (who : Asker) (tent ctx va n : Nat) : (State.readVa s who tent ctx va n).1.kept = s.kept := by
  unfold State.readVa
  repeat' (first
    | (simp; done)
    | with_reducible rfl
    | assumption
    | split
    | (refine foldl_kept_of (fun _ _ => ?_) ?_)
    | (refine foldl_kept_fst_of (fun _ _ => ?_) ?_)
    | (refine aon_of_eq (by assumption) ?_)
    | simp)

@[simp] theorem State.writeVa_kept (s : State) (tent ctx va : Nat) (bs : List Byte) (who : WrWho) :
    (State.writeVa s tent ctx va bs who).1.kept = s.kept := by
  unfold State.writeVa
  repeat' (first
    | (simp; done)
    | with_reducible rfl
    | assumption
    | split
    | (refine foldl_kept_of (fun _ _ => ?_) ?_)
    | (refine foldl_kept_fst_of (fun _ _ => ?_) ?_)
    | (refine aon_of_eq (by assumption) ?_)
    | simp)

@[simp] theorem State.putBack_kept (s : State) (key gen g : Nat) (bs : List (Nat × Byte)) : (State.putBack s key gen g bs).1.kept = s.kept := by
  unfold State.putBack
  dsimp only
  repeat' split
  all_goals simp

@[simp] theorem State.retryWrites_kept (s : State) : (State.retryWrites s).kept = s.kept := by
  unfold State.retryWrites
  repeat' (first
    | (simp; done)
    | with_reducible rfl
    | assumption
    | split
    | (refine foldl_kept_of (fun _ _ => ?_) ?_)
    | (refine foldl_kept_fst_of (fun _ _ => ?_) ?_)
    | (refine aon_of_eq (by assumption) ?_)
    | simp)

@[simp] theorem pumpEvents_kept (fuel : Nat) (s : State) : (pumpEvents fuel s).kept = s.kept := by
  induction fuel generalizing s with
  | zero => simp [pumpEvents]
  | succ n ih =>
    simp only [pumpEvents]
    repeat' (first
      | (simp [ih]; done)
      | split)

@[simp] theorem State.event_kept (s : State) (ws : List W64) : (State.event s ws).kept = s.kept := by
  simp [State.event]

@[simp] theorem State.modLink_kept (s : State) (l : Nat) (f : Link → Link) : (State.modLink s l f).kept = s.kept := by
  simp [State.modLink]

@[simp] theorem State.modNetCounters_kept (s : State) (f : NetCounters → NetCounters) : (State.modNetCounters s f).kept = s.kept := by
  simp [State.modNetCounters]

@[simp] theorem State.countPartial_kept (s : State) (cause : Nat) : (State.countPartial s cause).kept = s.kept := by
  simp [State.countPartial]

@[simp] theorem State.queueOut_kept (s : State) (l : Nat) (p : Packet) : (State.queueOut s l p).kept = s.kept := by
  simp [State.queueOut]

@[simp] theorem State.settle_kept (s : State) (p : Packet) : (State.settle s p).kept = s.kept := by
  unfold State.settle
  repeat' split
  all_goals simp

@[simp] theorem State.forward_kept (s : State) (p : Packet) : (State.forward s p).kept = s.kept := by
  unfold State.forward
  dsimp only
  repeat' split
  all_goals simp

@[simp] theorem State.sendAcks_kept (s : State) : (State.sendAcks s).kept = s.kept := by
  unfold State.sendAcks
  repeat' (first
    | simp
    | with_reducible rfl
    | assumption
    | split
    | (refine foldl_kept_of (fun _ _ => ?_) ?_))

@[simp] theorem State.countLinkBytes_kept (s : State) (ctx phase n : Nat) : (State.countLinkBytes s ctx phase n).kept = s.kept := by
  simp [State.countLinkBytes]

@[simp] theorem State.request_kept (s : State) (p : Packet) (who : ReqWho) : (State.request s p who).kept = s.kept := by
  unfold State.request
  repeat' split
  all_goals simp

@[simp] theorem State.mirror_kept (s : State) (t : Turn) (quiet : Bool) (ref : Option CmdRef) : (State.mirror s t quiet ref).kept = s.kept := by
  unfold State.mirror
  repeat' split
  all_goals simp

@[simp] theorem State.wake_kept (s : State) : (State.wake s).kept = s.kept := by
  simp [State.wake]

@[simp] theorem State.signalTurn_kept (s : State) (n : Nat) (max_ : Bool) (v : W64) (err : Bool) (ref : Option CmdRef) :
    (State.signalTurn s n max_ v err ref).kept = s.kept := by
  unfold State.signalTurn
  dsimp only
  repeat' split
  all_goals simp

@[simp] theorem State.signalHandle_kept (s : State) (ctx phase : Nat) (h : W32) (max_ : Bool) (v : W64) (err : Bool) (ref : Option CmdRef) :
    (State.signalHandle s ctx phase h max_ v err ref).kept = s.kept := by
  unfold State.signalHandle
  repeat' split
  all_goals simp

@[simp] theorem State.freeTurns_kept (s : State) : (State.freeTurns s).kept = s.kept := by
  simp [State.freeTurns]

@[simp] theorem State.errorTurns_kept (s : State) (ctx : Nat) : (State.errorTurns s ctx).kept = s.kept := by
  unfold State.errorTurns
  repeat' (first
    | (simp; done)
    | with_reducible rfl
    | assumption
    | split
    | (refine foldl_kept_of (fun _ _ => ?_) ?_))

@[simp] theorem State.settleBarrier_kept (s : State) (ring : Nat) : (State.settleBarrier s ring).kept = s.kept := by
  simp [State.settleBarrier]

@[simp] theorem State.spill_kept (s : State) (ring : Nat) (l : L1Line) : (State.spill s ring l).kept = s.kept := by
  unfold State.spill
  repeat' split
  all_goals simp

@[simp] theorem State.writeBackLines_kept (s : State) (ring : Nat) (cmd : CmdRef) : (State.writeBackLines s ring cmd).kept = s.kept := by
  unfold State.writeBackLines
  repeat' (first
    | (simp; done)
    | with_reducible rfl
    | assumption
    | split
    | (refine foldl_kept_of (fun _ _ => ?_) ?_))

@[simp] theorem State.endGroup_kept (s : State) (ring : Nat) (g : RingGroup) : (State.endGroup s ring g).kept = s.kept := by
  unfold State.endGroup
  dsimp only
  repeat' split
  all_goals simp

@[simp] theorem State.endTroupe_kept (s : State) (ring b : Nat) (t : Troupe) : (State.endTroupe s ring b t).kept = s.kept := by
  unfold State.endTroupe
  repeat' (first
    | (simp; done)
    | with_reducible rfl
    | assumption
    | split
    | (refine foldl_kept_of (fun _ _ => ?_) ?_))

end Sys2Proof.Machine
end

