-- ==== Sys2Proof/Laws/AlwaysOnLoss.lean ====
section
/-! SUPPORT. The always-on domain (State.kept) is kept by every operation and command of Machine: Loss, Flags, Issue. -/

namespace Sys2Proof.Machine

@[simp] theorem State.finishCmd_kept (s : State) (r : CmdRef) (status : Nat) (err : Bool) : (State.finishCmd s r status err).kept = s.kept := by
  simp [State.finishCmd]

@[simp] theorem State.malformed_kept (s : State) (r : CmdRef) : (State.malformed s r).kept = s.kept := by
  simp [State.malformed]

@[simp] theorem State.dropFetched_kept (s : State) (q : Nat) : (State.dropFetched s q).kept = s.kept := by
  unfold State.dropFetched
  repeat' (first
    | (simp; done)
    | with_reducible rfl
    | assumption
    | split
    | (refine foldl_kept_of (fun _ _ => ?_) ?_))

@[simp] theorem State.stopTroupes_kept (s : State) (ring ctx : Nat) (keep : Bool) : (State.stopTroupes s ring ctx keep).kept = s.kept := by
  unfold State.stopTroupes
  repeat' (first
    | (simp; done)
    | with_reducible rfl
    | assumption
    | split
    | (refine foldl_kept_of (fun _ _ => ?_) ?_))

@[simp] theorem State.dropQueued_kept (s : State) (ctx : Nat) : (State.dropQueued s ctx).kept = s.kept := by
  simp [State.dropQueued]

@[simp] theorem State.dmaLost_kept (s : State) (d : DmaReq) : (State.dmaLost s d).kept = s.kept := by
  simp [State.dmaLost]

@[simp] theorem State.dropReds_kept (s : State) (ctx : Nat) : (State.dropReds s ctx).kept = s.kept := by
  simp [State.dropReds]

@[simp] theorem State.lossSteps_kept (s : State) (ctx code : Nat) (blame : Option CmdRef) (keep : Bool) :
    (s.lossSteps ctx code blame keep).kept = s.kept := by
  unfold State.lossSteps
  extract_lets s1 dmas s2 s3 queued s4 s5 s6 s7
  have e1 : s1.kept = s.kept := foldl_kept_of (fun _ _ => by simp) rfl
  have e2 : s2.kept = s.kept := foldl_kept_of (fun _ _ => by simp) e1
  have e3 : s3.kept = s.kept := foldl_kept_of (fun _ _ => by simp) e2
  have e4 : s4.kept = s.kept := (State.dropQueued_kept ..).trans e3
  have e5 : s5.kept = s.kept := foldl_kept_of (fun _ _ => by simp) e4
  have e6 : s6.kept = s.kept := foldl_kept_of (fun _ _ => by
    dsimp only
    repeat' split
    all_goals simp) e5
  rw [State.dropReds_kept, State.errorTurns_kept]
  exact (State.modNet_kept ..).trans e6

@[simp] theorem State.loseCtx_kept (s : State) (ctx : Nat) (f : Option FaultRec) (blame : Option CmdRef) (keep : Bool) :
    (State.loseCtx s ctx f blame keep).kept = s.kept := by
  unfold State.loseCtx
  repeat' split
  all_goals simp

@[simp] theorem State.originFault_kept (s : State) (ring ctx : Nat) (o : Origin) (code reason pc pcB : Nat) (detail : W64) :
    (State.originFault s ring ctx o code reason pc pcB detail).kept = s.kept := by
  simp [State.originFault]

@[simp] theorem State.troupeFault_kept (s : State) (who : TroupeRef) (t : Troupe) (code reason pc pcB : Nat) (detail : W64) :
    (State.troupeFault s who t code reason pc pcB detail).kept = s.kept := by
  simp [State.troupeFault]

@[simp] theorem State.cmdFault_kept (s : State) (r : CmdRef) (code : Nat) (va : Nat) : (State.cmdFault s r code va).kept = s.kept := by
  unfold State.cmdFault
  repeat' split
  all_goals simp

@[simp] theorem State.deviceFatal_kept (s : State) (cause : Nat) (detail : W64) : (State.deviceFatal s cause detail).kept = s.kept := by
  unfold State.deviceFatal
  repeat' (first
    | (simp; done)
    | with_reducible rfl
    | assumption
    | split
    | (refine foldl_kept_of (fun _ _ => ?_) ?_))

@[simp] theorem State.setNf_kept (s : State) (ctx : Nat) : (State.setNf s ctx).kept = s.kept := by
  simp [State.setNf]

@[simp] theorem State.noteNf_kept (s : State) (ctx : Nat) : (State.noteNf s ctx).1.kept = s.kept := by
  simp [State.noteNf]

@[simp] theorem State.nfEventOf_kept (s : State) (ring ctx : Nat) (o : Origin) (pc : Nat) (detail : W64) :
    (State.nfEventOf s ring ctx o pc detail).kept = s.kept := by
  unfold State.nfEventOf
  repeat' (first
    | (simp; done)
    | with_reducible rfl
    | assumption
    | split
    | (refine foldl_kept_of (fun _ _ => ?_) ?_)
    | (refine foldl_kept_fst_of (fun _ _ => ?_) ?_)
    | (refine aon_of_eq (by assumption) ?_)
    | simp)

@[simp] theorem State.nfEvent_kept (s : State) (who : TroupeRef) (t : Troupe) (pc : Nat) (detail : W64) :
    (State.nfEvent s who t pc detail).kept = s.kept := by
  simp [State.nfEvent]

@[simp] theorem State.addSat_kept (s : State) (ctx n : Nat) : (State.addSat s ctx n).kept = s.kept := by
  simp [State.addSat]

@[simp] theorem State.setDeadRead_kept (s : State) (ctx : Nat) : (State.setDeadRead s ctx).kept = s.kept := by
  simp [State.setDeadRead]

@[simp] theorem State.takeSlots_kept (s : State) (who : TroupeRef) (t : Troupe) (n : Need) (cost : Nat) :
    (State.takeSlots s who t n cost).kept = s.kept := by
  simp [State.takeSlots]

@[simp] theorem State.checkDiverged_kept (s : State) (who : TroupeRef) : (State.checkDiverged s who).kept = s.kept := by
  unfold State.checkDiverged
  repeat' split
  all_goals simp

theorem State.perform_kept (s : State) (who : TroupeRef) (t : Troupe) (u : Subset) (op : AlOp) (n : Need) (ps : List Nat) (h : op.Keeps) :
    (s.perform who t u op n ps).kept = s.kept := by
  unfold State.perform
  dsimp only
  simp only [State.checkDiverged_kept, h.act, State.setTroupe_kept, State.takeSlots_kept]

theorem State.issue_kept (s : State) (who : TroupeRef) (t : Troupe) (u : Subset) (op : AlOp) (h : op.Keeps) :
    (s.issue who t u op).kept = s.kept := by
  have e : (op.test s who t u (participants t u op.guard)).1.kept = s.kept := h.test ..
  unfold State.issue
  dsimp only
  generalize op.test s who t u (participants t u op.guard) = r at e
  obtain ⟨s1, v⟩ := r
  cases v <;> dsimp only <;> (try split) <;>
    simp only [State.troupeFault_kept, State.setTroupe_kept, e, State.perform_kept _ _ _ _ _ _ _ h]

theorem State.issueMatrix_kept (s : State) (who : TroupeRef) (op : AlOp) (h : op.Keeps) : (s.issueMatrix who op).kept = s.kept := by
  unfold State.issueMatrix
  split
  · rfl
  · split
    · rfl
    · split
      · exact State.issue_kept _ _ _ _ _ h
      · rfl

theorem State.runMatrix_kept (s : State) (who : TroupeRef) (t : Troupe) (op : AlOp) (h : op.Keeps) : (s.runMatrix who t op).kept = s.kept := by
  unfold State.runMatrix
  dsimp only
  rw [State.issueMatrix_kept _ _ _ h]
  simp

@[simp] theorem State.runOp_kept (s : State) (who : TroupeRef) (op : AlOp) (h : op.Keeps) : (s.runOp who op).kept = s.kept := by
  unfold State.runOp
  split
  · rfl
  · split
    · rfl
    · split
      · exact State.runMatrix_kept _ _ _ _ h
      · dsimp only
        split
        · simp
        · exact State.issue_kept _ _ _ _ _ h

end Sys2Proof.Machine
end

