-- ==== Sys2Proof/Laws/AlwaysOnVector.lean ====
section
/-! SUPPORT. The always-on domain (State.kept) is kept by every operation and command of Machine: Vector. -/

namespace Sys2Proof.Machine

@[simp] theorem arithR_keeps (f : RForm) (sources : Nat) (types : List Nat) (negOk subOk : Bool) (cost : Nat) (fp64 : Bool)
    (val : Nat → Nat → Nat → Nat) : (arithR f sources types negOk subOk cost fp64 val).Keeps := by
  unfold arithR
  repeat' (first
    | (constructor <;> intros))

@[simp] theorem arithI_keeps (uniform : Bool) (f : IForm) (usesA : Bool) (val : Nat → Nat → Nat) : (arithI uniform f usesA val).Keeps := by
  unfold arithI
  repeat' (first
    | (constructor <;> intros))

@[simp] theorem intOp_keeps (f : VForm) (val : Nat → Nat → Nat → Nat) : (intOp f val).Keeps := by
  unfold intOp
  repeat' (first
    | (constructor <;> intros)
    | with_reducible rfl
    | assumption
    | split)

@[simp] theorem opMov_keeps (f : VForm) : (opMov f).Keeps := by
  unfold opMov
  repeat' (first
    | (constructor <;> intros)
    | (simp; done)
    | with_reducible rfl
    | assumption
    | split)

@[simp] theorem opSel_keeps (f : RForm) : (opSel f).Keeps := by
  unfold opSel
  repeat' (first
    | (constructor <;> intros))

@[simp] theorem opIadd_keeps (f : VForm) : (opIadd f).Keeps := intOp_keeps f _

@[simp] theorem opIsub_keeps (f : RForm) : (opIsub f).Keeps := by
  unfold opIsub
  repeat' (first
    | (constructor <;> intros))

@[simp] theorem opImul_keeps (f : VForm) : (opImul f).Keeps := by
  unfold opImul
  repeat' (first
    | (constructor <;> intros)
    | (simp; done)
    | with_reducible rfl
    | assumption
    | split)

@[simp] theorem opImad_keeps (f : RForm) : (opImad f).Keeps := by
  unfold opImad
  repeat' (first
    | (constructor <;> intros))

@[simp] theorem opImin_keeps (f : RForm) : (opImin f).Keeps := by
  unfold opImin
  repeat' (first
    | (constructor <;> intros))

@[simp] theorem opImax_keeps (f : RForm) : (opImax f).Keeps := by
  unfold opImax
  repeat' (first
    | (constructor <;> intros))

@[simp] theorem opAnd_keeps (f : VForm) : (opAnd f).Keeps := intOp_keeps f _

@[simp] theorem opOr_keeps (f : VForm) : (opOr f).Keeps := intOp_keeps f _

@[simp] theorem opXor_keeps (f : VForm) : (opXor f).Keeps := intOp_keeps f _

@[simp] theorem opShl_keeps (f : VForm) : (opShl f).Keeps := intOp_keeps f _

@[simp] theorem opShr_keeps (f : VForm) : (opShr f).Keeps := intOp_keeps f _

@[simp] theorem opSar_keeps (f : VForm) : (opSar f).Keeps := intOp_keeps f _

@[simp] theorem opPopc_keeps (f : RForm) : (opPopc f).Keeps := by
  unfold opPopc
  repeat' (first
    | (constructor <;> intros))

@[simp] theorem opClz_keeps (f : RForm) : (opClz f).Keeps := by
  unfold opClz
  repeat' (first
    | (constructor <;> intros))

@[simp] theorem opSetp_keeps (f : RForm) : (opSetp f).Keeps := by
  unfold opSetp
  repeat' (first
    | (constructor <;> intros))

@[simp] theorem opVote_keeps (f : RForm) : (opVote f).Keeps := by
  unfold opVote
  repeat' (first
    | (constructor <;> intros))

@[simp] theorem opShfl_keeps (f : RForm) : (opShfl f).Keeps := by
  unfold opShfl
  repeat' (first
    | (constructor <;> intros))

theorem execMov_kept (who : TroupeRef) (f : VForm) (s : State) {t : State} (h : execMov who f s = .next t) : t.kept = s.kept := by
  unfold execMov at h
  simp only [Host.Outcome.next.injEq] at h
  subst h
  simp

theorem execSel_kept (who : TroupeRef) (f : RForm) (s : State) {t : State} (h : execSel who f s = .next t) : t.kept = s.kept := by
  unfold execSel at h
  simp only [Host.Outcome.next.injEq] at h
  subst h
  simp

theorem execIadd_kept (who : TroupeRef) (f : VForm) (s : State) {t : State} (h : execIadd who f s = .next t) : t.kept = s.kept := by
  unfold execIadd at h
  simp only [Host.Outcome.next.injEq] at h
  subst h
  simp

theorem execIsub_kept (who : TroupeRef) (f : RForm) (s : State) {t : State} (h : execIsub who f s = .next t) : t.kept = s.kept := by
  unfold execIsub at h
  simp only [Host.Outcome.next.injEq] at h
  subst h
  simp

theorem execImul_kept (who : TroupeRef) (f : VForm) (s : State) {t : State} (h : execImul who f s = .next t) : t.kept = s.kept := by
  unfold execImul at h
  simp only [Host.Outcome.next.injEq] at h
  subst h
  simp

theorem execImad_kept (who : TroupeRef) (f : RForm) (s : State) {t : State} (h : execImad who f s = .next t) : t.kept = s.kept := by
  unfold execImad at h
  simp only [Host.Outcome.next.injEq] at h
  subst h
  simp

theorem execImin_kept (who : TroupeRef) (f : RForm) (s : State) {t : State} (h : execImin who f s = .next t) : t.kept = s.kept := by
  unfold execImin at h
  simp only [Host.Outcome.next.injEq] at h
  subst h
  simp

theorem execImax_kept (who : TroupeRef) (f : RForm) (s : State) {t : State} (h : execImax who f s = .next t) : t.kept = s.kept := by
  unfold execImax at h
  simp only [Host.Outcome.next.injEq] at h
  subst h
  simp

theorem execAndOp_kept (who : TroupeRef) (f : VForm) (s : State) {t : State} (h : execAndOp who f s = .next t) : t.kept = s.kept := by
  unfold execAndOp at h
  simp only [Host.Outcome.next.injEq] at h
  subst h
  simp

theorem execOrOp_kept (who : TroupeRef) (f : VForm) (s : State) {t : State} (h : execOrOp who f s = .next t) : t.kept = s.kept := by
  unfold execOrOp at h
  simp only [Host.Outcome.next.injEq] at h
  subst h
  simp

theorem execXorOp_kept (who : TroupeRef) (f : VForm) (s : State) {t : State} (h : execXorOp who f s = .next t) : t.kept = s.kept := by
  unfold execXorOp at h
  simp only [Host.Outcome.next.injEq] at h
  subst h
  simp

theorem execShl_kept (who : TroupeRef) (f : VForm) (s : State) {t : State} (h : execShl who f s = .next t) : t.kept = s.kept := by
  unfold execShl at h
  simp only [Host.Outcome.next.injEq] at h
  subst h
  simp

theorem execShr_kept (who : TroupeRef) (f : VForm) (s : State) {t : State} (h : execShr who f s = .next t) : t.kept = s.kept := by
  unfold execShr at h
  simp only [Host.Outcome.next.injEq] at h
  subst h
  simp

theorem execSar_kept (who : TroupeRef) (f : VForm) (s : State) {t : State} (h : execSar who f s = .next t) : t.kept = s.kept := by
  unfold execSar at h
  simp only [Host.Outcome.next.injEq] at h
  subst h
  simp

theorem execPopc_kept (who : TroupeRef) (f : RForm) (s : State) {t : State} (h : execPopc who f s = .next t) : t.kept = s.kept := by
  unfold execPopc at h
  simp only [Host.Outcome.next.injEq] at h
  subst h
  simp

theorem execClz_kept (who : TroupeRef) (f : RForm) (s : State) {t : State} (h : execClz who f s = .next t) : t.kept = s.kept := by
  unfold execClz at h
  simp only [Host.Outcome.next.injEq] at h
  subst h
  simp

theorem execSetp_kept (who : TroupeRef) (f : RForm) (s : State) {t : State} (h : execSetp who f s = .next t) : t.kept = s.kept := by
  unfold execSetp at h
  simp only [Host.Outcome.next.injEq] at h
  subst h
  simp

theorem execVote_kept (who : TroupeRef) (f : RForm) (s : State) {t : State} (h : execVote who f s = .next t) : t.kept = s.kept := by
  unfold execVote at h
  simp only [Host.Outcome.next.injEq] at h
  subst h
  simp

theorem execShfl_kept (who : TroupeRef) (f : RForm) (s : State) {t : State} (h : execShfl who f s = .next t) : t.kept = s.kept := by
  unfold execShfl at h
  simp only [Host.Outcome.next.injEq] at h
  subst h
  simp

end Sys2Proof.Machine
end

