-- ==== Sys2Proof/Laws/AlwaysOnFloat.lean ====
section
/-! SUPPORT. The always-on domain (State.kept) is kept by every operation and command of Machine: Float, Control. -/

namespace Sys2Proof.Machine

@[simp] theorem fpR_keeps (f : RForm) (sources : Nat) (op : FVal → FVal → FVal → FVal) : (fpR f sources op).Keeps := by
  unfold fpR
  repeat' (first
    | (constructor <;> intros))

@[simp] theorem fpV_keeps (f : VForm) (op : FVal → FVal → FVal) : (fpV f op).Keeps := by
  unfold fpV
  repeat' (first
    | (constructor <;> intros)
    | (simp; done)
    | with_reducible rfl
    | assumption
    | split)

@[simp] theorem opFadd_keeps (f : VForm) : (opFadd f).Keeps := fpV_keeps f _

@[simp] theorem opFmul_keeps (f : VForm) : (opFmul f).Keeps := fpV_keeps f _

@[simp] theorem opFfma_keeps (f : RForm) : (opFfma f).Keeps := by
  unfold opFfma
  repeat' (first
    | (constructor <;> intros))

@[simp] theorem opFmin_keeps (f : RForm) : (opFmin f).Keeps := by
  unfold opFmin
  repeat' (first
    | (constructor <;> intros))

@[simp] theorem opFmax_keeps (f : RForm) : (opFmax f).Keeps := by
  unfold opFmax
  repeat' (first
    | (constructor <;> intros))

@[simp] theorem opTranscend_keeps (opcode : Nat) (f : RForm) : (opTranscend opcode f).Keeps := by
  unfold opTranscend
  repeat' (first
    | (constructor <;> intros))

theorem execFadd_kept (who : TroupeRef) (f : VForm) (s : State) {t : State} (h : execFadd who f s = .next t) : t.kept = s.kept := by
  unfold execFadd at h
  simp only [Host.Outcome.next.injEq] at h
  subst h
  simp

theorem execFmul_kept (who : TroupeRef) (f : VForm) (s : State) {t : State} (h : execFmul who f s = .next t) : t.kept = s.kept := by
  unfold execFmul at h
  simp only [Host.Outcome.next.injEq] at h
  subst h
  simp

theorem execFfma_kept (who : TroupeRef) (f : RForm) (s : State) {t : State} (h : execFfma who f s = .next t) : t.kept = s.kept := by
  unfold execFfma at h
  simp only [Host.Outcome.next.injEq] at h
  subst h
  simp

theorem execFmin_kept (who : TroupeRef) (f : RForm) (s : State) {t : State} (h : execFmin who f s = .next t) : t.kept = s.kept := by
  unfold execFmin at h
  simp only [Host.Outcome.next.injEq] at h
  subst h
  simp

theorem execFmax_kept (who : TroupeRef) (f : RForm) (s : State) {t : State} (h : execFmax who f s = .next t) : t.kept = s.kept := by
  unfold execFmax at h
  simp only [Host.Outcome.next.injEq] at h
  subst h
  simp

theorem execFrcp_kept (who : TroupeRef) (f : RForm) (s : State) {t : State} (h : execFrcp who f s = .next t) : t.kept = s.kept := by
  unfold execFrcp at h
  simp only [Host.Outcome.next.injEq] at h
  subst h
  simp

theorem execFrsq_kept (who : TroupeRef) (f : RForm) (s : State) {t : State} (h : execFrsq who f s = .next t) : t.kept = s.kept := by
  unfold execFrsq at h
  simp only [Host.Outcome.next.injEq] at h
  subst h
  simp

theorem execFexp2_kept (who : TroupeRef) (f : RForm) (s : State) {t : State} (h : execFexp2 who f s = .next t) : t.kept = s.kept := by
  unfold execFexp2 at h
  simp only [Host.Outcome.next.injEq] at h
  subst h
  simp

theorem execFlog2_kept (who : TroupeRef) (f : RForm) (s : State) {t : State} (h : execFlog2 who f s = .next t) : t.kept = s.kept := by
  unfold execFlog2 at h
  simp only [Host.Outcome.next.injEq] at h
  subst h
  simp

@[simp] theorem opCvt_keeps (f : CvtForm) : (opCvt f).Keeps := by
  unfold opCvt
  repeat' (first
    | (constructor <;> intros)
    | (simp; done)
    | with_reducible rfl
    | assumption
    | split
    | (refine foldl_kept_of (fun _ _ => ?_) ?_)
    | (refine foldl_kept_fst_of (fun _ _ => ?_) ?_)
    | simp)

theorem execCvt_kept (who : TroupeRef) (f : CvtForm) (s : State) {t : State} (h : execCvt who f s = .next t) : t.kept = s.kept := by
  unfold execCvt at h
  simp only [Host.Outcome.next.injEq] at h
  subst h
  simp

@[simp] theorem opBra_keeps (f : IForm) : (opBra f).Keeps := by
  unfold opBra
  repeat' (first
    | (constructor <;> intros))

@[simp] theorem opCall_keeps (c : CallForm) : (opCall c).Keeps := by
  unfold opCall
  repeat' (first
    | (constructor <;> intros))

@[simp] theorem opRet_keeps (f : RForm) : (opRet f).Keeps := by
  unfold opRet
  repeat' (first
    | (constructor <;> intros))

@[simp] theorem opExit_keeps (f : RForm) : (opExit f).Keeps := by
  unfold opExit
  repeat' (first
    | (constructor <;> intros)
    | (simp; done)
    | with_reducible rfl
    | assumption
    | split
    | (refine foldl_kept_of (fun _ _ => ?_) ?_)
    | (refine foldl_kept_fst_of (fun _ _ => ?_) ?_)
    | simp)

@[simp] theorem opBarT_keeps (f : BarForm) : (opBarT f).Keeps := by
  unfold opBarT
  repeat' (first
    | (constructor <;> intros))

@[simp] theorem opBarR_keeps (f : BarForm) : (opBarR f).Keeps := by
  unfold opBarR
  repeat' (first
    | (constructor <;> intros))

@[simp] theorem opFenceG_keeps (f : RForm) : (opFenceG f).Keeps := by
  unfold opFenceG
  repeat' (first
    | (constructor <;> intros))

@[simp] theorem opTurnSig_keeps (f : TurnForm) : (opTurnSig f).Keeps := by
  unfold opTurnSig
  repeat' (first
    | (constructor <;> intros)
    | (simp; done)
    | with_reducible rfl
    | assumption
    | split
    | (refine foldl_kept_of (fun _ _ => ?_) ?_)
    | (refine foldl_kept_fst_of (fun _ _ => ?_) ?_)
    | simp)

@[simp] theorem opTurnWait_keeps (f : TurnForm) : (opTurnWait f).Keeps := by
  unfold opTurnWait
  repeat' (first
    | (constructor <;> intros)
    | (simp; done)
    | with_reducible rfl
    | assumption
    | split
    | (refine foldl_kept_of (fun _ _ => ?_) ?_)
    | (refine foldl_kept_fst_of (fun _ _ => ?_) ?_)
    | simp)

theorem execBra_kept (who : TroupeRef) (f : IForm) (s : State) {t : State} (h : execBra who f s = .next t) : t.kept = s.kept := by
  unfold execBra at h
  simp only [Host.Outcome.next.injEq] at h
  subst h
  simp

theorem execCall_kept (who : TroupeRef) (f : CallForm) (s : State) {t : State} (h : execCall who f s = .next t) : t.kept = s.kept := by
  unfold execCall at h
  simp only [Host.Outcome.next.injEq] at h
  subst h
  simp

theorem execRet_kept (who : TroupeRef) (f : RForm) (s : State) {t : State} (h : execRet who f s = .next t) : t.kept = s.kept := by
  unfold execRet at h
  simp only [Host.Outcome.next.injEq] at h
  subst h
  simp

theorem execExit_kept (who : TroupeRef) (f : RForm) (s : State) {t : State} (h : execExit who f s = .next t) : t.kept = s.kept := by
  unfold execExit at h
  simp only [Host.Outcome.next.injEq] at h
  subst h
  simp

theorem execFenceG_kept (who : TroupeRef) (f : RForm) (s : State) {t : State} (h : execFenceG who f s = .next t) : t.kept = s.kept := by
  unfold execFenceG at h
  simp only [Host.Outcome.next.injEq] at h
  subst h
  simp

theorem execTurnSig_kept (who : TroupeRef) (f : TurnForm) (s : State) {t : State} (h : execTurnSig who f s = .next t) : t.kept = s.kept := by
  unfold execTurnSig at h
  simp only [Host.Outcome.next.injEq] at h
  subst h
  simp

theorem execTurnWait_kept (who : TroupeRef) (f : TurnForm) (s : State) {t : State} (h : execTurnWait who f s = .next t) : t.kept = s.kept := by
  unfold execTurnWait at h
  simp only [Host.Outcome.next.injEq] at h
  subst h
  simp

theorem execBarT_kept (who : TroupeRef) (f : BarForm) (s : State) {t : State} (h : execBarT who f s = .next t) : t.kept = s.kept := by
  unfold execBarT at h
  simp only [Host.Outcome.next.injEq] at h
  subst h
  simp

theorem execBarR_kept (who : TroupeRef) (f : BarForm) (s : State) {t : State} (h : execBarR who f s = .next t) : t.kept = s.kept := by
  unfold execBarR at h
  simp only [Host.Outcome.next.injEq] at h
  subst h
  simp

end Sys2Proof.Machine
end

