-- ==== Sys2Proof/Laws/AlwaysOnLoadStore.lean ====
section
/-! SUPPORT. The always-on domain (State.kept) is kept by every operation and command of Machine: LoadStore, Atomics. -/

namespace Sys2Proof.Machine

@[simp] theorem translateAll_kept (s : State) (tent ctx : Nat) (write : Bool) (vas : List (Nat × Nat)) :
    (translateAll s tent ctx write vas).1.kept = s.kept := by
  unfold translateAll
  repeat' (first
    | (simp; done)
    | with_reducible rfl
    | assumption
    | split
    | (refine foldl_kept_of (fun _ _ => ?_) ?_)
    | (refine foldl_kept_fst_of (fun _ _ => ?_) ?_)
    | (refine aon_of_eq (by assumption) ?_))

@[simp] theorem testGlobal_kept (s : State) (who : TroupeRef) (t : Troupe) (f : MemForm) (write : Bool) (ps : List Nat) :
    (testGlobal s who t f write ps).1.kept = s.kept := by
  unfold testGlobal
  repeat' split
  all_goals simp

@[simp] theorem State.l1Alloc_kept (s : State) (ring : Nat) (l : L1Line) : (State.l1Alloc s ring l).kept = s.kept := by
  unfold State.l1Alloc
  dsimp only
  repeat' split
  all_goals simp

@[simp] theorem State.loadGrain_kept (s : State) (ring op ctx : Nat) (f : MemForm) (cmd : CmdRef) (g key gen : Nat) (mask : W64) :
    (State.loadGrain s ring op ctx f cmd g key gen mask).1.kept = s.kept := by
  unfold State.loadGrain
  dsimp only
  repeat' split
  all_goals simp

@[simp] theorem State.issueLoad_kept (s : State) (who : TroupeRef) (t : Troupe) (f : MemForm) (pc : Nat) (ps : List Nat) :
    (State.issueLoad s who t f pc ps).kept = s.kept := by
  unfold State.issueLoad
  repeat' (first
    | (simp; done)
    | with_reducible rfl
    | assumption
    | split
    | (refine foldl_kept_of (fun _ _ => ?_) ?_)
    | (refine foldl_kept_fst_of (fun _ _ => ?_) ?_)
    | (refine aon_of_eq (by assumption) ?_)
    | simp)

@[simp] theorem State.issueScratchLoad_kept (s : State) (who : TroupeRef) (t : Troupe) (f : MemForm) (ps : List Nat) :
    (State.issueScratchLoad s who t f ps).kept = s.kept := by
  unfold State.issueScratchLoad
  repeat' split
  all_goals simp

@[simp] theorem opLd_keeps (f : MemForm) : (opLd f).Keeps := by
  unfold opLd
  repeat' (first
    | (constructor <;> intros)
    | (simp; done)
    | with_reducible rfl
    | assumption
    | split)

@[simp] theorem State.storeLocal_kept (s : State) (ring ctx : Nat) (cmd : CmdRef) (g key gen : Nat) (bs : List (Nat × Byte)) :
    (State.storeLocal s ring ctx cmd g key gen bs).kept = s.kept := by
  unfold State.storeLocal
  repeat' split
  all_goals simp

@[simp] theorem State.issueStore_kept (s : State) (who : TroupeRef) (t : Troupe) (f : MemForm) (pc : Nat) (ps : List Nat) :
    (State.issueStore s who t f pc ps).kept = s.kept := by
  unfold State.issueStore
  repeat' (first
    | (simp; done)
    | with_reducible rfl
    | assumption
    | split
    | (refine foldl_kept_of (fun _ _ => ?_) ?_)
    | (refine foldl_kept_fst_of (fun _ _ => ?_) ?_)
    | (refine aon_of_eq (by assumption) ?_)
    | simp)

@[simp] theorem State.issueScratchStore_kept (s : State) (who : TroupeRef) (t : Troupe) (f : MemForm) (ps : List Nat) :
    (State.issueScratchStore s who t f ps).kept = s.kept := by
  unfold State.issueScratchStore
  repeat' split
  all_goals simp

@[simp] theorem opSt_keeps (f : MemForm) : (opSt f).Keeps := by
  unfold opSt
  repeat' (first
    | (constructor <;> intros)
    | (simp; done)
    | with_reducible rfl
    | assumption
    | split)

theorem execLd_kept (who : TroupeRef) (f : MemForm) (s : State) {t : State} (h : execLd who f s = .next t) : t.kept = s.kept := by
  unfold execLd at h
  simp only [Host.Outcome.next.injEq] at h
  subst h
  simp

theorem execSt_kept (who : TroupeRef) (f : MemForm) (s : State) {t : State} (h : execSt who f s = .next t) : t.kept = s.kept := by
  unfold execSt at h
  simp only [Host.Outcome.next.injEq] at h
  subst h
  simp

@[simp] theorem State.fillLines_kept (s : State) (ring : Nat) (o : LoadOp) : (State.fillLines s ring o).kept = s.kept := by
  unfold State.fillLines
  repeat' (first
    | (simp; done)
    | with_reducible rfl
    | assumption
    | split
    | (refine foldl_kept_of (fun _ _ => ?_) ?_))

@[simp] theorem State.deliverLoad_kept (s : State) (ring op : Nat) : (State.deliverLoad s ring op).kept = s.kept := by
  unfold State.deliverLoad
  dsimp only
  repeat' split
  all_goals simp

theorem execLoadResponse_kept (ring : RingId) (op : Nat) (s : State) {t : State} (h : execLoadResponse ring op s = .next t) : t.kept = s.kept := by
  unfold execLoadResponse at h
  simp only [Host.Outcome.next.injEq] at h
  subst h
  simp

@[simp] theorem State.takeAck_kept (s : State) (ring op : Nat) : (State.takeAck s ring op).kept = s.kept := by
  unfold State.takeAck
  repeat' split
  all_goals simp

theorem execWriteAck_kept (ring : RingId) (op : Nat) (s : State) {t : State} (h : execWriteAck ring op s = .next t) : t.kept = s.kept := by
  unfold execWriteAck at h
  simp only [Host.Outcome.next.injEq] at h
  subst h
  simp

@[simp] theorem testAtom_kept (s : State) (who : TroupeRef) (t : Troupe) (f : AtomForm) (ps : List Nat) :
    (testAtom s who t f ps).1.kept = s.kept := by
  unfold testAtom
  dsimp only
  repeat' split
  all_goals simp

@[simp] theorem State.queueComb_kept (s : State) (who : TroupeRef) (t : Troupe) (pc : Nat) (kind : CombKind) (global fetch : Bool)
    (parts : List Part) (requests : Nat) (dst width : Nat) :
    (State.queueComb s who t pc kind global fetch parts requests dst width).kept = s.kept := by
  unfold State.queueComb
  repeat' split
  all_goals simp

@[simp] theorem opAtom_keeps (op : AtomOp) (f : AtomForm) : (opAtom op f).Keeps := by
  unfold opAtom
  repeat' (first
    | (constructor <;> intros)
    | (simp; done)
    | with_reducible rfl
    | assumption
    | split)

@[simp] theorem testRed_kept (s : State) (who : TroupeRef) (t : Troupe) (f : RedForm) (align : Nat) (ps : List Nat) :
    (testRed s who t f align ps).1.kept = s.kept := by
  unfold testRed
  repeat' split
  all_goals simp

@[simp] theorem State.queueRed_kept (s : State) (who : TroupeRef) (t : Troupe) (u : Subset) (f : RedForm) (kind : CombKind) (x : Nat → W64)
    (ps : List Nat) (byEll : Bool) : (State.queueRed s who t u f kind x ps byEll).kept = s.kept := by
  simp [State.queueRed]

@[simp] theorem opRedAdd_keeps (f : RedForm) : (opRedAdd f).Keeps := by
  unfold opRedAdd
  repeat' (first
    | (constructor <;> intros)
    | simp)

@[simp] theorem opRedFold_keeps (f : RedForm) : (opRedFold f).Keeps := by
  unfold opRedFold
  repeat' (first
    | (constructor <;> intros)
    | simp)

@[simp] theorem State.sendComb_kept (s : State) (ring : Nat) (c : CombOp) : (State.sendComb s ring c).kept = s.kept := by
  unfold State.sendComb
  dsimp only
  repeat' split
  all_goals simp

@[simp] theorem State.combine_kept (s : State) (ring : Nat) : (State.combine s ring).kept = s.kept := by
  unfold State.combine
  repeat' (first
    | (simp; done)
    | with_reducible rfl
    | assumption
    | split
    | (refine foldl_kept_of (fun _ _ => ?_) ?_))

theorem execAtomAdd_kept (who : TroupeRef) (f : AtomForm) (s : State) {t : State} (h : execAtomAdd who f s = .next t) : t.kept = s.kept := by
  unfold execAtomAdd at h
  simp only [Host.Outcome.next.injEq] at h
  subst h
  simp

theorem execAtomMax_kept (who : TroupeRef) (f : AtomForm) (s : State) {t : State} (h : execAtomMax who f s = .next t) : t.kept = s.kept := by
  unfold execAtomMax at h
  simp only [Host.Outcome.next.injEq] at h
  subst h
  simp

theorem execAtomMin_kept (who : TroupeRef) (f : AtomForm) (s : State) {t : State} (h : execAtomMin who f s = .next t) : t.kept = s.kept := by
  unfold execAtomMin at h
  simp only [Host.Outcome.next.injEq] at h
  subst h
  simp

theorem execAtomCas_kept (who : TroupeRef) (f : AtomForm) (s : State) {t : State} (h : execAtomCas who f s = .next t) : t.kept = s.kept := by
  unfold execAtomCas at h
  simp only [Host.Outcome.next.injEq] at h
  subst h
  simp

theorem execAtomExch_kept (who : TroupeRef) (f : AtomForm) (s : State) {t : State} (h : execAtomExch who f s = .next t) : t.kept = s.kept := by
  unfold execAtomExch at h
  simp only [Host.Outcome.next.injEq] at h
  subst h
  simp

theorem execRedAdd_kept (who : TroupeRef) (f : RedForm) (s : State) {t : State} (h : execRedAdd who f s = .next t) : t.kept = s.kept := by
  unfold execRedAdd at h
  simp only [Host.Outcome.next.injEq] at h
  subst h
  simp

theorem execRedFold_kept (who : TroupeRef) (f : RedForm) (s : State) {t : State} (h : execRedFold who f s = .next t) : t.kept = s.kept := by
  unfold execRedFold at h
  simp only [Host.Outcome.next.injEq] at h
  subst h
  simp

theorem execCombinerAccept_kept (ring : RingId) (s : State) {t : State} (h : execCombinerAccept ring s = .next t) : t.kept = s.kept := by
  unfold execCombinerAccept at h
  simp only [Host.Outcome.next.injEq] at h
  subst h
  simp

end Sys2Proof.Machine
end

