-- ==== Sys2Proof/Laws/AlwaysOnBushel.lean ====
section
/-! SUPPORT. The always-on domain (State.kept) is kept by every operation and command of Machine: Bushel, HostAccess, Nv. -/

namespace Sys2Proof.Machine

@[simp] theorem State.replyLoad_kept (s : State) (ring op g : Nat) (r : GrainRes) : (State.replyLoad s ring op g r).kept = s.kept := by
  simp [State.replyLoad]

@[simp] theorem CombOp.fault_kept (c : CombOp) (s : State) (code reason : Nat) : (CombOp.fault c s code reason).kept = s.kept := by
  simp [CombOp.fault]

@[simp] theorem State.settleTrap_kept (s : State) (ring write : Nat) : (State.settleTrap s ring write).kept = s.kept := by
  unfold State.settleTrap
  repeat' split
  all_goals simp

@[simp] theorem State.requestNf_kept (s : State) (c : CombOp) (detail : W64) : (State.requestNf s c detail).kept = s.kept := by
  unfold State.requestNf
  repeat' (first
    | (simp; done)
    | with_reducible rfl
    | assumption
    | split
    | (refine foldl_kept_of (fun _ _ => ?_) ?_)
    | (refine foldl_kept_fst_of (fun _ _ => ?_) ?_)
    | (refine aon_of_eq (by assumption) ?_)
    | simp)

@[simp] theorem State.replyAtom_kept (s : State) (ring : Nat) (c : CombOp) (op : AtomOp) (type : Nat) (befores : List Nat) :
    (State.replyAtom s ring c op type befores).kept = s.kept := by
  unfold State.replyAtom
  repeat' split
  all_goals simp

@[simp] theorem State.atomNfEvent_kept (s : State) (c : CombOp) (op : AtomOp) (type m : Nat) : (State.atomNfEvent s c op type m).kept = s.kept := by
  unfold State.atomNfEvent
  repeat' split
  all_goals simp

@[simp] theorem State.scratchNfEvent_kept (s : State) (ring : Nat) (c : CombOp) (op : AtomOp) (type m : Nat) :
    (State.scratchNfEvent s ring c op type m).kept = s.kept := by
  unfold State.scratchNfEvent
  repeat' (first
    | (simp; done)
    | with_reducible rfl
    | assumption
    | split
    | (refine foldl_kept_of (fun _ _ => ?_) ?_)
    | (refine foldl_kept_fst_of (fun _ _ => ?_) ?_)
    | (refine aon_of_eq (by assumption) ?_)
    | simp)

@[simp] theorem State.performedBy_kept (s : State) (who : WrWho) : (State.performedBy s who).kept = s.kept := by
  unfold State.performedBy
  repeat' split
  all_goals simp

@[simp] theorem State.scratchAtomic_kept (s : State) (ring : Nat) : (State.scratchAtomic s ring).kept = s.kept := by
  unfold State.scratchAtomic
  dsimp only
  repeat' split
  all_goals simp

@[simp] theorem State.writeImage_kept (s : State) (new : EllCopy) (who : WrWho) : (State.writeImage s new who).1.kept = s.kept := by
  unfold State.writeImage
  repeat' (first
    | (simp; done)
    | with_reducible rfl
    | assumption
    | split
    | (refine foldl_kept_of (fun _ _ => ?_) ?_))

@[simp] theorem State.intoImage_kept (s : State) (c : EllCopy) (key gen : Nat) (r : Option RedEll) (w96 : Bool) (out : Option (Nat × Nat)) :
    (State.intoImage s c key gen r w96 out).1.kept = s.kept := by
  unfold State.intoImage
  repeat' split
  all_goals simp

@[simp] theorem State.applyFold_kept (s : State) (c : EllCopy) (q : BReq) : (State.applyFold s c q).1.kept = s.kept := by
  unfold State.applyFold
  dsimp only
  repeat' split
  all_goals simp

@[simp] theorem State.applyRelease_kept (s : State) (c : EllCopy) (q : BReq) (o : CombOp) (fmt rnd : Nat) :
    (s.applyRelease c q o fmt rnd).1.kept = s.kept := by
  unfold State.applyRelease
  extract_lets tent who
  split
  · simp
  · rename_i found w96 key th _
    clear_value key w96 found th
    generalize hp : State.intoImage s c _ _ _ _ _ = p
    have e : p.1.kept = s.kept := by rw [← hp]; exact State.intoImage_kept _ _ _ _ _ _ _
    clear hp
    obtain ⟨s1, c', d⟩ := p
    dsimp -zeta only at e ⊢
    extract_lets s2 s4 s5 s6
    have e2 : s2.kept = s.kept := by
      simp only [s2]
      cases found <;> simp [e]
    clear_value s2
    have e4 : s4.kept = s.kept := by
      simp only [s4]
      split <;> split <;> simp [e2]
    clear_value s4
    have e5 : s5.kept = s.kept := by simp [s5, e4]
    clear_value s5
    have e6 : s6.kept = s.kept := by
      simp only [s6]
      split <;> simp [e5]
    clear_value s6
    split <;> simp [e6]

@[simp] theorem State.applyStore_kept (s : State) (c : EllCopy) (q : BReq) (op : Nat) (bs : List (Nat × Byte)) :
    (State.applyStore s c q op bs).1.kept = s.kept := by
  unfold State.applyStore
  dsimp only
  repeat' split
  all_goals simp

@[simp] theorem State.applyAtom_kept (s : State) (c : EllCopy) (q : BReq) (o : CombOp) (op : AtomOp) (type : Nat) :
    (State.applyAtom s c q o op type).1.kept = s.kept := by
  unfold State.applyAtom
  repeat' split
  all_goals simp

@[simp] theorem State.applyRemote_kept (s : State) (c : EllCopy) (q : BReq) (id ctx source : Nat) (op : AtomOp) (type off : Nat)
    (entries : List (Nat × Nat)) : (State.applyRemote s c q id ctx source op type off entries).1.kept = s.kept := by
  unfold State.applyRemote
  repeat' split
  all_goals simp

@[simp] theorem State.setRed_kept (s : State) (ell ring : Nat) (st : RedSt) : (State.setRed s ell ring st).kept = s.kept := by
  simp [State.setRed]

theorem State.performReq_kept (s : State) (c : EllCopy) (q : BReq) : (s.performReq c q).1.kept = s.kept := by
  unfold State.performReq
  repeat' (first
    | exact State.performAgent_kept ..
    | (simp; done)
    | with_reducible rfl
    | split)

@[simp] theorem State.serveEllReq_kept (s : State) (tent bank : Nat) (q : BReq) : (s.serveEll State.performReq tent bank q).1.kept = s.kept :=
  State.serveEll_kept _ State.performReq_kept s tent bank q

@[simp] theorem State.serveAgainReq_kept (s : State) (tent : Nat) (q : BReq) : (s.serveAgain State.performReq tent q).1.kept = s.kept :=
  State.serveAgain_kept _ State.performReq_kept s tent q

@[simp] theorem State.fold_kept (s : State) (tent : Nat) (r : RedEll) : (s.fold tent r).1.kept = s.kept := by
  unfold State.fold
  repeat' (first
    | (simp []; done)
    | with_reducible rfl
    | assumption
    | split
    | (refine foldl_kept_of (fun _ _ => ?_) ?_)
    | (refine foldl_kept_fst_of (fun _ _ => ?_) ?_)
    | (refine aon_of_eq (by assumption) ?_)
    | simp [])

@[simp] theorem State.foldOldest_kept (s : State) (tent set : Nat) : (State.foldOldest s tent set).1.kept = s.kept := by
  unfold State.foldOldest
  dsimp only
  repeat' split
  all_goals simp

@[simp] theorem State.foldRing_kept (s : State) (ring : Nat) : (State.foldRing s ring).1.kept = s.kept := by
  unfold State.foldRing
  repeat' (first
    | (simp; done)
    | with_reducible rfl
    | assumption
    | split
    | (refine foldl_kept_of (fun _ _ => ?_) ?_)
    | (refine foldl_kept_fst_of (fun _ _ => ?_) ?_))

@[simp] theorem State.foldsDue_kept (s : State) (fuel ctx : Nat) (sel : RedEll → Bool) : (s.foldsDue fuel ctx sel).1.kept = s.kept := by
  induction fuel generalizing s with
  | zero => rfl
  | succ n ih =>
    unfold State.foldsDue
    dsimp only
    split
    · rfl
    · split
      · exact (ih _).trans (aon_of_eq (by assumption) (State.fold_kept ..))
      · exact aon_of_eq (by assumption) (State.fold_kept ..)

@[simp] theorem State.foldForced_kept (s : State) (ctx ell : Nat) : (State.foldForced s ctx ell).1.kept = s.kept := by
  unfold State.foldForced
  repeat' split
  all_goals simp

@[simp] theorem State.addRed_finish_kept (q : BReq) (c : CombOp) (fmt : Nat) (w96 : Bool) (s : State) (tent : Nat) :
    (State.addRed.finish q c fmt w96 s tent).1.kept = s.kept := by
  unfold State.addRed.finish
  split
  · rfl
  · dsimp only
    repeat' split
    all_goals simp

@[simp] theorem State.addRed_kept (s : State) (q : BReq) (c : CombOp) (fmt : Nat) (w96 : Bool) : (s.addRed q c fmt w96).1.kept = s.kept := by
  unfold State.addRed
  repeat' (first
    | (simp []; done)
    | with_reducible rfl
    | assumption
    | split
    | (refine foldl_kept_of (fun _ _ => ?_) ?_)
    | (refine foldl_kept_fst_of (fun _ _ => ?_) ?_)
    | (refine aon_of_eq (by assumption) ?_)
    | simp [])

theorem State.foldRed_kept (serve : State → BReq → State × Bool) (h : ∀ s q, (serve s q).1.kept = s.kept) (s : State) (tent : Nat) (q : BReq)
    (c : CombOp) (fmt : Nat) : (s.foldRed serve tent q c fmt).1.kept = s.kept := by
  unfold State.foldRed
  repeat' (first
    | (simp [h]; done)
    | with_reducible rfl
    | assumption
    | split
    | (refine foldl_kept_of (fun _ _ => ?_) ?_)
    | (refine foldl_kept_fst_of (fun _ _ => ?_) ?_)
    | (refine aon_of_eq (by assumption) ?_)
    | simp)

@[simp] theorem State.serve_kept (s : State) (tent bank : Nat) (q : BReq) (again : Bool) : (s.serve tent bank q again).1.kept = s.kept := by
  unfold State.serve
  extract_lets lost image inOrder
  have hi : ∀ s q, (image s q).1.kept = s.kept := by
    intro s q
    simp only [image]
    split <;> simp
  have ho : ∀ (s : State) (f : State → State × Bool), (∀ s, (f s).1.kept = s.kept) → (inOrder s f).1.kept = s.kept := by
    intro s f hf
    simp only [inOrder]
    repeat' (first
      | (simp [hf]; done)
      | with_reducible rfl
      | assumption
      | split
      | (refine foldl_kept_of (fun _ _ => ?_) ?_)
      | (refine foldl_kept_fst_of (fun _ _ => ?_) ?_)
      | (refine aon_of_eq (by assumption) ?_)
      | simp [hf])
  clear_value image inOrder lost
  repeat' (first
    | exact ho _ _ (fun s => State.addRed_kept ..)
    | (refine ho _ _ (fun s => ?_); refine State.foldRed_kept _ (fun _ _ => ?_) ..; exact hi ..)
    | exact ho _ _ (fun s => hi ..)
    | (simp; done)
    | with_reducible rfl
    | split)

@[simp] theorem State.serveIf_kept (s : State) (tent bank : Nat) (pick : ReqKind → Bool) (q : BReq) :
    (State.serveIf s tent bank pick q).kept = s.kept := by
  unfold State.serveIf
  dsimp only
  repeat' split
  all_goals simp

@[simp] theorem State.serveFront_kept (s : State) (tent bank : Nat) (pick : ReqKind → Bool) : (State.serveFront s tent bank pick).kept = s.kept := by
  unfold State.serveFront
  dsimp only
  repeat' split
  all_goals simp

@[simp] theorem State.serveOverflow_kept (s : State) (tent bank : Nat) : (State.serveOverflow s tent bank).1.kept = s.kept := by
  unfold State.serveOverflow
  repeat' (first
    | (simp; done)
    | with_reducible rfl
    | assumption
    | split
    | (refine foldl_kept_of (fun _ _ => ?_) ?_)
    | (refine foldl_kept_fst_of (fun _ _ => ?_) ?_)
    | (refine aon_of_eq (by assumption) ?_)
    | simp)

@[simp] theorem State.resend_kept (s : State) (tent id : Nat) : (State.resend s tent id).kept = s.kept := by
  unfold State.resend
  dsimp only
  repeat' split
  all_goals simp

theorem execRequestResend_kept (tent : TentId) (id : Nat) (s : State) {t : State} (h : execRequestResend tent id s = .next t) : t.kept = s.kept := by
  unfold execRequestResend at h
  simp only [Host.Outcome.next.injEq] at h
  subst h
  simp

@[simp] theorem State.refuseHost_kept (s : State) : (State.refuseHost s).kept = s.kept := by
  simp [State.refuseHost]

@[simp] theorem State.filterRoom_kept (s : State) (g : Nat) : (State.filterRoom s g).1.kept = s.kept := by
  unfold State.filterRoom
  repeat' split
  all_goals simp

@[simp] theorem State.serveHost_kept (s : State) (r : HostReq) : (State.serveHost s r).1.kept = s.kept := by
  unfold State.serveHost
  repeat' (first
    | (simp; done)
    | with_reducible rfl
    | assumption
    | split
    | (refine foldl_kept_of (fun _ _ => ?_) ?_)
    | (refine foldl_kept_fst_of (fun _ _ => ?_) ?_)
    | (refine aon_of_eq (by assumption) ?_)
    | simp)

@[simp] theorem State.hostAccess_kept (s : State) (r : HostReq) : (State.hostAccess s r).kept = s.kept := by
  unfold State.hostAccess
  repeat' (first
    | (simp; done)
    | with_reducible rfl
    | assumption
    | split
    | (refine foldl_kept_of (fun _ _ => ?_) ?_)
    | (refine foldl_kept_fst_of (fun _ _ => ?_) ?_)
    | (refine aon_of_eq (by assumption) ?_)
    | simp)

@[simp] theorem State.retryHost_kept (s : State) : (State.retryHost s).kept = s.kept := by
  unfold State.retryHost
  repeat' (first
    | (simp; done)
    | with_reducible rfl
    | assumption
    | split
    | (refine foldl_kept_of (fun _ _ => ?_) ?_))

@[simp] theorem State.retryHeld_kept (s : State) : (State.retryHeld s).kept = s.kept := by
  simp [State.retryHeld]

@[simp] theorem State.saveChans_kept (s : State) : (State.saveChans s).kept = s.kept := by
  simp [State.saveChans]

end Sys2Proof.Machine
end

