-- ==== Sys2Proof/Laws/AlwaysOnObjects.lean ====
section
/-! SUPPORT. The always-on domain (State.kept) is kept by every operation and command of Machine: Objects, Copy. -/

namespace Sys2Proof.Machine

@[simp] theorem State.putObj_kept (s : State) (n : Nat) (o : Obj) : (State.putObj s n o).kept = s.kept := by
  simp [State.putObj]

@[simp] theorem State.modObj_kept (s : State) (n : Nat) (f : Obj → Obj) : (State.modObj s n f).kept = s.kept := by
  unfold State.modObj
  repeat' split
  all_goals simp

@[simp] theorem State.leafTable_kept (s : State) (who : Asker) (va level table : Nat) : (s.leafTable who va level table).1.kept = s.kept := by
  induction level generalizing s table with
  | zero => rfl
  | succ n ih =>
    unfold State.leafTable
    dsimp only
    split
    · rfl
    · split
      · exact aon_of_eq (by assumption) (State.homeRead_kept ..)
      · split
        · exact aon_of_eq (by assumption) (State.homeRead_kept ..)
        · exact (ih _ _).trans (aon_of_eq (by assumption) (State.homeRead_kept ..))

@[simp] theorem State.leafSlots_kept (s : State) (who : Asker) (root va n : Nat) : (State.leafSlots s who root va n).1.kept = s.kept := by
  unfold State.leafSlots
  repeat' (first
    | (simp; done)
    | with_reducible rfl
    | assumption
    | split
    | (refine foldl_kept_of (fun _ _ => ?_) ?_)
    | (refine foldl_kept_fst_of (fun _ _ => ?_) ?_)
    | (refine aon_of_eq (by assumption) ?_)
    | simp)

@[simp] theorem State.allocate_kept (s : State) (who : Asker) (ctx pool size : Nat) : (State.allocate s who ctx pool size).1.kept = s.kept := by
  unfold State.allocate
  repeat' (first
    | (simp; done)
    | with_reducible rfl
    | assumption
    | split
    | (refine foldl_kept_of (fun _ _ => ?_) ?_)
    | (refine foldl_kept_fst_of (fun _ _ => ?_) ?_)
    | (refine aon_of_eq (by assumption) ?_)
    | simp)

@[simp] theorem State.freeAt_kept (s : State) (ctx va : Nat) : (State.freeAt s ctx va).1.kept = s.kept := by
  unfold State.freeAt
  repeat' split
  all_goals simp

@[simp] theorem State.setKeySlot_kept (s : State) (k : Nat) (x : KeySlot) : (State.setKeySlot s k x).kept = s.kept := by
  simp [State.setKeySlot]

@[simp] theorem State.raiseCeiling_kept (s : State) (k : Nat) : (State.raiseCeiling s k).kept = s.kept := by
  unfold State.raiseCeiling
  dsimp only
  repeat' split
  all_goals simp

@[simp] theorem State.freeKey_kept (s : State) (k : Nat) : (State.freeKey s k).kept = s.kept := by
  unfold State.freeKey
  repeat' (first
    | (simp; done)
    | with_reducible rfl
    | assumption
    | split
    | (refine foldl_kept_of (fun _ _ => ?_) ?_))

@[simp] theorem State.freeWaitingKeys_kept (s : State) : (State.freeWaitingKeys s).kept = s.kept := by
  unfold State.freeWaitingKeys
  repeat' (first
    | simp
    | with_reducible rfl
    | assumption
    | split
    | (refine foldl_kept_of (fun _ _ => ?_) ?_))

@[simp] theorem State.settleKey_kept (s : State) (k : Nat) : (State.settleKey s k).kept = s.kept := by
  unfold State.settleKey
  dsimp only
  repeat' split
  all_goals simp

@[simp] theorem State.reclaim_kept (s : State) (n : Nat) : (State.reclaim s n).kept = s.kept := by
  unfold State.reclaim
  repeat' (first
    | (simp; done)
    | with_reducible rfl
    | assumption
    | split
    | (refine foldl_kept_of (fun _ _ => ?_) ?_)
    | (refine foldl_kept_fst_of (fun _ _ => ?_) ?_)
    | (refine aon_of_eq (by assumption) ?_)
    | simp)

theorem execObjectReclaim_kept (obj : ObjId) (s : State) {t : State} (h : execObjectReclaim obj s = .next t) : t.kept = s.kept := by
  unfold execObjectReclaim at h
  simp only [Host.Outcome.next.injEq] at h
  subst h
  repeat' (first
    | simp)

@[simp] theorem opDmaQ_keeps (f : RForm) : (opDmaQ f).Keeps := by
  constructor
  · intro s who t u ps
    unfold opDmaQ
    dsimp only
    split <;> rfl
  · intro s who t u ps slot
    unfold opDmaQ
    dsimp only
    generalize dmaWords t (f.srcA.toNat % 64) = w
    split
    · exact State.setTroupe_kept ..
    · split
      · exact State.setTroupe_kept ..
      · exact (State.modRing_kept ..).trans ((State.nextOrder_kept _).trans (State.setTroupe_kept ..))

@[simp] theorem opAlloc_keeps (f : RForm) : (opAlloc f).Keeps := by
  unfold opAlloc
  repeat' (first
    | (constructor <;> intros)
    | (simp; done)
    | with_reducible rfl
    | assumption
    | split
    | (refine foldl_kept_of (fun _ _ => ?_) ?_)
    | (refine foldl_kept_fst_of (fun _ _ => ?_) ?_)
    | simp)

@[simp] theorem opFree_keeps (f : RForm) : (opFree f).Keeps := by
  unfold opFree
  repeat' (first
    | (constructor <;> intros)
    | (simp; done)
    | split
    | (refine aon_of_eq (by assumption) ?_)
    | simp)

theorem execDmaQ_kept (who : TroupeRef) (f : RForm) (s : State) {t : State} (h : execDmaQ who f s = .next t) : t.kept = s.kept := by
  unfold execDmaQ at h
  simp only [Host.Outcome.next.injEq] at h
  subst h
  simp

theorem execAllocOp_kept (who : TroupeRef) (f : RForm) (s : State) {t : State} (h : execAllocOp who f s = .next t) : t.kept = s.kept := by
  unfold execAllocOp at h
  simp only [Host.Outcome.next.injEq] at h
  subst h
  simp

theorem execFreeOp_kept (who : TroupeRef) (f : RForm) (s : State) {t : State} (h : execFreeOp who f s = .next t) : t.kept = s.kept := by
  unfold execFreeOp at h
  simp only [Host.Outcome.next.injEq] at h
  subst h
  simp

@[simp] theorem State.allocDone_kept (s : State) (ring op : Nat) : (State.allocDone s ring op).kept = s.kept := by
  unfold State.allocDone
  repeat' (first
    | (simp; done)
    | with_reducible rfl
    | assumption
    | split
    | (refine foldl_kept_of (fun _ _ => ?_) ?_)
    | (refine foldl_kept_fst_of (fun _ _ => ?_) ?_)
    | (refine aon_of_eq (by assumption) ?_)
    | simp)

theorem execAllocComplete_kept (ring : RingId) (op : Nat) (s : State) {t : State} (h : execAllocComplete ring op s = .next t) : t.kept = s.kept := by
  unfold execAllocComplete at h
  simp only [Host.Outcome.next.injEq] at h
  subst h
  simp

@[simp] theorem State.putEngine_kept (s : State) (tent engine : Nat) (c : CopyOp) : (State.putEngine s tent engine c).kept = s.kept := by
  simp [State.putEngine]

@[simp] theorem State.modEngine_kept (s : State) (tent engine : Nat) (f : CopyOp → CopyOp) : (State.modEngine s tent engine f).kept = s.kept := by
  unfold State.modEngine
  repeat' split
  all_goals simp

@[simp] theorem State.startCopy_kept (s : State) (tent engine : Nat) : (State.startCopy s tent engine).kept = s.kept := by
  unfold State.startCopy
  repeat' split
  all_goals simp

theorem execCopyStart_kept (tent : TentId) (engine : EngineId) (s : State) {t : State} (h : execCopyStart tent engine s = .next t) :
    t.kept = s.kept := by
  unfold execCopyStart at h
  simp only [Host.Outcome.next.injEq] at h
  subst h
  simp

@[simp] theorem State.deadRead_kept (s : State) (ctx : Nat) : (State.deadRead s ctx).kept = s.kept := by
  simp [State.deadRead]

@[simp] theorem State.copyRead_kept (s : State) (tent : Nat) (c : CopyOp) (at_ n : Nat) : (State.copyRead s tent c at_ n).1.kept = s.kept := by
  unfold State.copyRead
  repeat' (first
    | (simp; done)
    | with_reducible rfl
    | assumption
    | split
    | (refine foldl_kept_of (fun _ _ => ?_) ?_)
    | (refine foldl_kept_fst_of (fun _ _ => ?_) ?_)
    | (refine aon_of_eq (by assumption) ?_)
    | simp)

@[simp] theorem State.freeTake_kept (s : State) (n : Nat) : (State.freeTake s n).1.kept = s.kept := by
  simp [State.freeTake]

@[simp] theorem State.overlapFree_kept (s : State) (c : CopyOp) (at_ : Nat) (bs : List Byte) : (State.overlapFree s c at_ bs).1.kept = s.kept := by
  unfold State.overlapFree
  dsimp only
  repeat' split
  all_goals simp

@[simp] theorem State.countCopy_kept (s : State) (c : CopyOp) (n : Nat) : (State.countCopy s c n).kept = s.kept := by
  simp [State.countCopy]

@[simp] theorem State.copyPlan_kept (s : State) (tent ctx va at_ : Nat) (bs : List Byte) : (State.copyPlan s tent ctx va at_ bs).1.kept = s.kept := by
  unfold State.copyPlan
  repeat' (first
    | (simp; done)
    | with_reducible rfl
    | assumption
    | split
    | (refine foldl_kept_of (fun _ _ => ?_) ?_)
    | (refine foldl_kept_fst_of (fun _ _ => ?_) ?_)
    | (refine aon_of_eq (by assumption) ?_))

@[simp] theorem State.smear_kept (s : State) (tent : Nat) (c : CopyOp) (at_ : Nat) : (State.smear s tent c at_).kept = s.kept := by
  unfold State.smear
  repeat' (first
    | (simp; done)
    | with_reducible rfl
    | assumption
    | split
    | (refine foldl_kept_of (fun _ _ => ?_) ?_)
    | (refine foldl_kept_fst_of (fun _ _ => ?_) ?_)
    | (refine aon_of_eq (by assumption) ?_)
    | simp)

@[simp] theorem State.copyFault_kept (s : State) (tent engine at_ va : Nat) : (State.copyFault s tent engine at_ va).kept = s.kept := by
  unfold State.copyFault
  repeat' split
  all_goals simp

@[simp] theorem State.copyWrite_kept (s : State) (tent engine : Nat) (late : Bool) (c : CopyOp) (ph : Phys) (f : Nat × List Byte) :
    (State.copyWrite s tent engine late c ph f).kept = s.kept := by
  unfold State.copyWrite
  repeat' split
  all_goals simp

@[simp] theorem State.copyPut_kept (s : State) (tent engine : Nat) (late : Bool) (c : CopyOp) (f : Nat × List Byte) :
    (State.copyPut s tent engine late c f).kept = s.kept := by
  unfold State.copyPut
  repeat' (first
    | (simp; done)
    | with_reducible rfl
    | assumption
    | split
    | (refine foldl_kept_of (fun _ _ => ?_) ?_)
    | (refine foldl_kept_fst_of (fun _ _ => ?_) ?_)
    | (refine aon_of_eq (by assumption) ?_)
    | simp)

@[simp] theorem State.copyEmit_kept (s : State) (tent engine : Nat) (late : Bool) : (State.copyEmit s tent engine late).kept = s.kept := by
  unfold State.copyEmit
  repeat' (first
    | (simp; done)
    | with_reducible rfl
    | assumption
    | split
    | (refine foldl_kept_of (fun _ _ => ?_) ?_))

@[simp] theorem State.copyTake_kept (s : State) (tent engine : Nat) (late : Bool) (at_ : Nat) (bs : List Byte) :
    (State.copyTake s tent engine late at_ bs).kept = s.kept := by
  unfold State.copyTake
  dsimp only
  repeat' split
  all_goals simp

@[simp] theorem State.copyPorts_kept (s : State) (tent engine : Nat) (c : CopyOp) (reads : Bool) (n : Nat) :
    (State.copyPorts s tent engine c reads n).1.kept = s.kept := by
  unfold State.copyPorts
  repeat' (first
    | (simp; done)
    | with_reducible rfl
    | assumption
    | split
    | (refine foldl_kept_of (fun _ _ => ?_) ?_)
    | (refine foldl_kept_fst_of (fun _ _ => ?_) ?_)
    | (refine aon_of_eq (by assumption) ?_)
    | simp)

@[simp] theorem State.copyLocal_kept (s : State) (tent engine : Nat) (late : Bool) (c : CopyOp) :
    (State.copyLocal s tent engine late c).kept = s.kept := by
  unfold State.copyLocal
  repeat' (first
    | (simp; done)
    | with_reducible rfl
    | assumption
    | split
    | (refine foldl_kept_of (fun _ _ => ?_) ?_)
    | (refine foldl_kept_fst_of (fun _ _ => ?_) ?_)
    | (refine aon_of_eq (by assumption) ?_)
    | simp)

@[simp] theorem State.copyAsk_kept (s : State) (tent engine : Nat) (c : CopyOp) (dev w off : Nat) :
    (State.copyAsk s tent engine c dev w off).kept = s.kept := by
  simp [State.copyAsk]

@[simp] theorem State.drainFetch_kept (s : State) (who : Asker) (key ell : Nat) : (s.drainFetch who key ell).1.kept = s.kept := by
  unfold State.drainFetch
  extract_lets gs
  clear_value gs
  generalize hp : List.foldl _ (s, []) gs = p
  have e : p.1.kept = s.kept := by
    rw [← hp]
    exact foldl_kept_fst_of (fun _ _ => by simp) rfl
  clear hp
  obtain ⟨s1, rs⟩ := p
  dsimp only at e ⊢
  split <;> simp [e]

@[simp] theorem State.drainGrain_kept (s : State) (ctx : Nat) (r : GrainRead) : (State.drainGrain s ctx r).1.kept = s.kept := by
  unfold State.drainGrain
  repeat' split
  all_goals simp

@[simp] theorem State.drainTake_kept (s : State) (tent engine : Nat) (late : Bool) (ell : Nat) (d : DrainBit) (rs : List GrainRead) :
    (s.drainTake tent engine late ell d rs).kept = s.kept := by
  unfold State.drainTake
  extract_lets s1
  have e1 : s1.kept = s.kept := by simp [s1]
  clear_value s1
  generalize hp : List.foldl _ (s1, []) rs = p
  have e : p.1.kept = s.kept := by
    rw [← hp]
    exact foldl_kept_fst_of (fun _ _ => by simp) e1
  clear hp
  simp [e]

@[simp] theorem State.drainStep_kept (s : State) (tent engine : Nat) (late : Bool) (c : CopyOp) (pair : Nat) :
    (State.drainStep s tent engine late c pair).kept = s.kept := by
  unfold State.drainStep
  split
  · rfl
  · split
    · have e := State.freeTake_kept s 1024
      generalize s.freeTake 1024 = p at e
      exact (State.drainTake_kept ..).trans e
    · split
      · exact aon_of_eq (by assumption) (State.drainFetch_kept ..)
      · exact (State.drainTake_kept ..).trans (aon_of_eq (by assumption) (State.drainFetch_kept ..))

@[simp] theorem State.copyStep_kept (s : State) (tent engine : Nat) (late : Bool) : (State.copyStep s tent engine late).kept = s.kept := by
  unfold State.copyStep
  repeat' (first
    | (simp; done)
    | with_reducible rfl
    | assumption
    | split
    | (refine foldl_kept_of (fun _ _ => ?_) ?_)
    | (refine foldl_kept_fst_of (fun _ _ => ?_) ?_)
    | (refine aon_of_eq (by assumption) ?_)
    | simp)

theorem execCopyGrain_kept (tent : TentId) (engine : EngineId) (late : Bool)
    (s : State) {t : State} (h : execCopyGrain tent engine late s = .next t) : t.kept = s.kept := by
  unfold execCopyGrain at h
  simp only [Host.Outcome.next.injEq] at h
  subst h
  simp

@[simp] theorem State.copyDone_kept (s : State) (tent engine : Nat) : (State.copyDone s tent engine).kept = s.kept := by
  unfold State.copyDone
  repeat' split
  all_goals simp

theorem execCopyComplete_kept (tent : TentId) (engine : EngineId) (s : State) {t : State} (h : execCopyComplete tent engine s = .next t) :
    t.kept = s.kept := by
  unfold execCopyComplete at h
  simp only [Host.Outcome.next.injEq] at h
  subst h
  repeat' (first
    | simp
    | with_reducible rfl
    | assumption
    | split)

end Sys2Proof.Machine
end

