-- ==== Sys2Proof/Laws/AlwaysOnMatrix.lean ====
section
/-! SUPPORT. The always-on domain (State.kept) is kept by every operation and command of Machine: Matrix, Weigh, Booth, Place. -/

namespace Sys2Proof.Machine

@[simp] theorem opMxCfg_keeps (f : MxCfgForm) : (opMxCfg f).Keeps := by
  unfold opMxCfg
  repeat' (first
    | (constructor <;> intros))

@[simp] theorem opMxLdw_keeps (f : MxLdwForm) : (opMxLdw f).Keeps := by
  unfold opMxLdw
  repeat' (first
    | (constructor <;> intros))

@[simp] theorem State.noteLatches_kept (s : State) (ring : Nat) : (State.noteLatches s ring).kept = s.kept := by
  simp [State.noteLatches]

@[simp] theorem State.queueMx_kept (s : State) (who : TroupeRef) (o : MxOp) : (State.queueMx s who o).kept = s.kept := by
  simp [State.queueMx]

@[simp] theorem opMxRun_keeps (f : MxRunForm) : (opMxRun f).Keeps := by
  unfold opMxRun
  repeat' (first
    | (constructor <;> intros))

@[simp] theorem opMxDrn_keeps (f : MxDrnForm) : (opMxDrn f).Keeps := by
  unfold opMxDrn
  repeat' (first
    | (constructor <;> intros))

@[simp] theorem opNfChk_keeps (f : RForm) : (opNfChk f).Keeps := by
  unfold opNfChk
  repeat' (first
    | (constructor <;> intros))

theorem execMxCfg_kept (who : TroupeRef) (f : MxCfgForm) (s : State) {t : State} (h : execMxCfg who f s = .next t) : t.kept = s.kept := by
  unfold execMxCfg at h
  simp only [Host.Outcome.next.injEq] at h
  subst h
  simp

theorem execMxLdw_kept (who : TroupeRef) (f : MxLdwForm) (s : State) {t : State} (h : execMxLdw who f s = .next t) : t.kept = s.kept := by
  unfold execMxLdw at h
  simp only [Host.Outcome.next.injEq] at h
  subst h
  simp

theorem execMxRun_kept (who : TroupeRef) (f : MxRunForm) (s : State) {t : State} (h : execMxRun who f s = .next t) : t.kept = s.kept := by
  unfold execMxRun at h
  simp only [Host.Outcome.next.injEq] at h
  subst h
  simp

theorem execMxDrn_kept (who : TroupeRef) (f : MxDrnForm) (s : State) {t : State} (h : execMxDrn who f s = .next t) : t.kept = s.kept := by
  unfold execMxDrn at h
  simp only [Host.Outcome.next.injEq] at h
  subst h
  simp

theorem execNfChk_kept (who : TroupeRef) (f : RForm) (s : State) {t : State} (h : execNfChk who f s = .next t) : t.kept = s.kept := by
  unfold execNfChk at h
  simp only [Host.Outcome.next.injEq] at h
  subst h
  simp

@[simp] theorem opStatW_keeps (f : StatForm) : (opStatW f).Keeps := by
  unfold opStatW
  repeat' (first
    | (constructor <;> intros)
    | (simp; done)
    | with_reducible rfl
    | assumption
    | split
    | (refine foldl_kept_of (fun _ _ => ?_) ?_)
    | (refine foldl_kept_fst_of (fun _ _ => ?_) ?_)
    | simp)

theorem execStatW_kept (who : TroupeRef) (f : StatForm) (s : State) {t : State} (h : execStatW who f s = .next t) : t.kept = s.kept := by
  unfold execStatW at h
  simp only [Host.Outcome.next.injEq] at h
  subst h
  simp

@[simp] theorem State.weigh_kept (s : State) (tent : Nat) : (State.weigh s tent).kept = s.kept := by
  unfold State.weigh
  dsimp only
  repeat' split
  all_goals simp

theorem execWeighmasterAccept_kept (tent : TentId) (s : State) {t : State} (h : execWeighmasterAccept tent s = .next t) : t.kept = s.kept := by
  unfold execWeighmasterAccept at h
  simp only [Host.Outcome.next.injEq] at h
  subst h
  simp

@[simp] theorem State.fetch_kept (s : State) (who : TroupeRef) (t : Troupe) (pc : Nat) : (State.fetch s who t pc).1.kept = s.kept := by
  unfold State.fetch
  repeat' (first
    | (simp; done)
    | with_reducible rfl
    | assumption
    | split
    | (refine foldl_kept_of (fun _ _ => ?_) ?_)
    | (refine foldl_kept_fst_of (fun _ _ => ?_) ?_)
    | (refine aon_of_eq (by assumption) ?_)
    | simp)

@[simp] theorem State.fetchAll_kept (s : State) (who : TroupeRef) (t : Troupe) : (State.fetchAll s who t).1.kept = s.kept := by
  unfold State.fetchAll
  repeat' (first
    | (simp; done)
    | with_reducible rfl
    | assumption
    | split
    | (refine foldl_kept_of (fun _ _ => ?_) ?_)
    | (refine foldl_kept_fst_of (fun _ _ => ?_) ?_))

@[simp] theorem State.gather_kept (fuel : Nat) (s : State) (who : TroupeRef) (m : List (Nat × Fetched)) :
    (State.gather fuel s who m).kept = s.kept := by
  induction fuel generalizing s with
  | zero => rfl
  | succ n ih =>
    unfold State.gather
    split
    · rfl
    · split
      · split
        · simp [ih]
        · rfl
      · rfl

/-- Every Alasha instruction keeps the always-on domain. -/
theorem opOf_keeps {i : Instr} {o : AlOp} (h : opOf i = some o) : o.Keeps := by
  cases i <;> simp only [opOf, Option.some.injEq, reduceCtorEq] at h <;> subst h <;> simp

@[simp] theorem State.issuePick_kept (s : State) (who : TroupeRef) (p : Pick) : (s.issuePick who p).kept = s.kept := by
  unfold State.issuePick
  cases p <;> dsimp only <;>
    repeat' (first
      | with_reducible rfl
      | exact State.issue_kept _ _ _ _ _ (opOf_keeps (by assumption))
      | exact State.issueMatrix_kept _ _ _ (opOf_keeps (by assumption))
      | exact State.troupeFault_kept ..
      | split)

@[simp] theorem State.look_kept (s : State) (ring : RingId) (booth : BoothId) (slot : Nat) : (State.look s ring booth slot).1.kept = s.kept := by
  unfold State.look
  dsimp only
  repeat' split
  all_goals simp

@[simp] theorem State.issueSlot_kept (s : State) (ring : RingId) (booth : BoothId) (limitOnly : Bool) :
    (s.issueSlot ring booth limitOnly).kept = s.kept := by
  unfold State.issueSlot
  extract_lets slots
  generalize hp : List.foldl _ (s, []) slots = p
  have e : p.1.kept = s.kept := by
    rw [← hp]
    refine foldl_kept_fst_of (fun _ _ => ?_) rfl
    simp
  clear hp
  obtain ⟨s1, looks⟩ := p
  dsimp only at e ⊢
  repeat' split
  all_goals simp [e]

@[simp] theorem State.boothCycle_kept (s : State) (ring : RingId) (booth : BoothId) (limitOnly : Bool) :
    (State.boothCycle s ring booth limitOnly).kept = s.kept := by
  unfold State.boothCycle
  dsimp only
  repeat' split
  all_goals simp

theorem execBoothIssueSlot_kept (ring : RingId) (booth : BoothId) (s : State) {t : State} (h : execBoothIssueSlot ring booth s = .next t) :
    t.kept = s.kept := by
  unfold execBoothIssueSlot at h
  simp only [Host.Outcome.next.injEq] at h
  subst h
  simp

theorem execStarvationLimit_kept (ring : RingId) (booth : BoothId) (s : State) {t : State} (h : execStarvationLimit ring booth s = .next t) :
    t.kept = s.kept := by
  unfold execStarvationLimit at h
  simp only [Host.Outcome.next.injEq] at h
  subst h
  first | simp | (split <;> simp)

theorem execRunLimit_kept (who : TroupeRef) (s : State) {t : State} (h : execRunLimit who s = .next t) : t.kept = s.kept := by
  unfold execRunLimit at h
  simp only [Host.Outcome.next.injEq] at h
  subst h
  first | simp | (split <;> simp)

theorem execLatencyElapsed_kept (who : TroupeRef) (id : Nat) (s : State) {t : State} (h : execLatencyElapsed who id s = .next t) :
    t.kept = s.kept := by
  unfold execLatencyElapsed at h
  simp only [Host.Outcome.next.injEq] at h
  subst h
  first | simp | (split <;> simp)

theorem execRegisterClearDone_kept (ring : RingId) (booth : BoothId) (s : State) {t : State} (h : execRegisterClearDone ring booth s = .next t) :
    t.kept = s.kept := by
  unfold execRegisterClearDone at h
  simp only [Host.Outcome.next.injEq] at h
  subst h
  simp

theorem execScratchpadClearDone_kept (ring : RingId) (s : State) {t : State} (h : execScratchpadClearDone ring s = .next t) : t.kept = s.kept := by
  unfold execScratchpadClearDone at h
  simp only [Host.Outcome.next.injEq] at h
  subst h
  simp

@[simp] theorem State.droopAt_kept (s : State) (tent : Nat) : (State.droopAt s tent).kept = s.kept := by
  unfold State.droopAt
  repeat' split
  all_goals simp

theorem execDroopDetect_kept (ring : RingId) (s : State) {t : State} (h : execDroopDetect ring s = .next t) : t.kept = s.kept := by
  unfold execDroopDetect at h
  simp only [Host.Outcome.next.injEq] at h
  subst h
  simp

theorem execDroopBurstEnd_kept (tent : TentId) (s : State) {t : State} (h : execDroopBurstEnd tent s = .next t) : t.kept = s.kept := by
  unfold execDroopBurstEnd at h
  simp only [Host.Outcome.next.injEq] at h
  subst h
  simp

@[simp] theorem State.passRing_kept (s : State) (ring ctx : Nat) : (State.passRing s ring ctx).1.kept = s.kept := by
  unfold State.passRing
  dsimp only
  repeat' split
  all_goals simp

@[simp] theorem State.placeGroup_kept (s : State) (ref : CmdRef) (ring : Nat) : (State.placeGroup s ref ring).kept = s.kept := by
  unfold State.placeGroup
  repeat' (first
    | (simp; done)
    | with_reducible rfl
    | assumption
    | split
    | (refine foldl_kept_of (fun _ _ => ?_) ?_)
    | (refine foldl_kept_fst_of (fun _ _ => ?_) ?_)
    | (refine aon_of_eq (by assumption) ?_)
    | simp)

theorem execRingGroupPlace_kept (ref : CmdRef) (ring : RingId) (s : State) {t : State} (h : execRingGroupPlace ref ring s = .next t) :
    t.kept = s.kept := by
  unfold execRingGroupPlace at h
  simp only [Host.Outcome.next.injEq] at h
  subst h
  simp

end Sys2Proof.Machine
end

