-- ==== Sys2Proof/Laws/AlwaysOnBarker.lean ====
section
/-! SUPPORT. The always-on domain (State.kept) is kept by every operation and command of Machine: Barker. -/

namespace Sys2Proof.Machine

@[simp] theorem State.setQueue_kept (s : State) (q : Nat) (k : Queue) : (State.setQueue s q k).kept = s.kept := by
  simp [State.setQueue]

@[simp] theorem State.modQueue_kept (s : State) (q : Nat) (f : Queue → Queue) : (State.modQueue s q f).kept = s.kept := by
  unfold State.modQueue
  repeat' split
  all_goals simp

@[simp] theorem State.ignoreDoorbell_kept (s : State) : (State.ignoreDoorbell s).kept = s.kept := by
  simp [State.ignoreDoorbell]

@[simp] theorem State.readWords_kept (s : State) (q : QueueId) (ctx : Nat) (c : FetchedCmd) (va n count : Nat) :
    (State.readWords s q ctx c va n count).1.kept = s.kept := by
  unfold State.readWords
  repeat' (first
    | (simp; done)
    | with_reducible rfl
    | assumption
    | split
    | (refine foldl_kept_of (fun _ _ => ?_) ?_)
    | (refine foldl_kept_fst_of (fun _ _ => ?_) ?_)
    | (refine aon_of_eq (by assumption) ?_))

@[simp] theorem State.loadCmd_kept (s : State) (q : QueueId) (ctx : Nat) (c : FetchedCmd) : (State.loadCmd s q ctx c).1.kept = s.kept := by
  unfold State.loadCmd
  dsimp only
  repeat' split
  all_goals simp

@[simp] theorem State.loadFetched_kept (s : State) (q : Nat) : (State.loadFetched s q).kept = s.kept := by
  unfold State.loadFetched
  repeat' (first
    | (simp; done)
    | with_reducible rfl
    | assumption
    | split
    | (refine foldl_kept_of (fun _ _ => ?_) ?_)
    | (refine foldl_kept_fst_of (fun _ _ => ?_) ?_)
    | (refine aon_of_eq (by assumption) ?_)
    | simp)

@[simp] theorem State.fetchSlot_kept (s : State) (q : Nat) (k : Queue) : (State.fetchSlot s q k).1.kept = s.kept := by
  unfold State.fetchSlot
  repeat' (first
    | (simp; done)
    | with_reducible rfl
    | assumption
    | split
    | (refine foldl_kept_of (fun _ _ => ?_) ?_)
    | (refine foldl_kept_fst_of (fun _ _ => ?_) ?_)
    | (refine aon_of_eq (by assumption) ?_)
    | simp)

@[simp] theorem State.fetchCmdSlots_kept (s : State) (q fuel : Nat) : (State.fetchCmdSlots s q fuel).kept = s.kept := by
  induction fuel generalizing s with
  | zero => rfl
  | succ n ih =>
    unfold State.fetchCmdSlots
    repeat' (first
      | (simp [ih]; done)
      | split
      | (refine (ih _).trans ?_)
      | (refine aon_of_eq (by assumption) ?_))

@[simp] theorem State.fetchQueue_kept (s : State) (q : Nat) : (State.fetchQueue s q).kept = s.kept := by
  unfold State.fetchQueue
  repeat' split
  all_goals simp

@[simp] theorem State.retryFetch_kept (s : State) : (State.retryFetch s).kept = s.kept := by
  unfold State.retryFetch
  repeat' (first
    | simp
    | with_reducible rfl
    | assumption
    | split
    | (refine foldl_kept_of (fun _ _ => ?_) ?_))

@[simp] theorem State.forgetSlots_kept (s : State) (q : Nat) : (State.forgetSlots s q).kept = s.kept := by
  simp [State.forgetSlots]

@[simp] theorem State.overrun_kept (s : State) (q : Nat) (k : Queue) (tail : W32) : (State.overrun s q k tail).kept = s.kept := by
  unfold State.overrun
  repeat' split
  all_goals simp

@[simp] theorem State.doorbell_kept (s : State) (q : Nat) (tail : W32) : (State.doorbell s q tail).kept = s.kept := by
  unfold State.doorbell
  repeat' split
  all_goals simp

theorem execDoorbell_kept (queue : QueueId) (tail : W32) (s : State) {t : State} (h : execDoorbell queue tail s = .next t) : t.kept = s.kept := by
  unfold execDoorbell at h
  simp only [Host.Outcome.next.injEq] at h
  subst h
  simp

@[simp] theorem State.admqCfg_kept (s : State) (value : Nat) : (State.admqCfg s value).kept = s.kept := by
  unfold State.admqCfg
  dsimp only
  repeat' split
  all_goals simp

theorem execAdmqCfg_kept (value : W64) (s : State) {t : State} (h : execAdmqCfg value s = .next t) : t.kept = s.kept := by
  unfold execAdmqCfg at h
  simp only [Host.Outcome.next.injEq] at h
  subst h
  first | simp | (split <;> simp)

@[simp] theorem State.registerWrite_kept (s : State) (reg : CtlReg) (v : W64) : (State.registerWrite s reg v).kept = s.kept := by
  unfold State.registerWrite
  dsimp only
  repeat' split
  all_goals simp

theorem execRegisterWrite_kept (reg : CtlReg) (value : W64) (s : State) {t : State} (h : execRegisterWrite reg value s = .next t) :
    t.kept = s.kept := by
  unfold execRegisterWrite at h
  simp only [Host.Outcome.next.injEq] at h
  subst h
  first | simp | (split <;> simp)

@[simp] theorem State.takeCmd_kept (s : State) (ctx q accept : Nat) (w : List W64) : (State.takeCmd s ctx q accept w).kept = s.kept := by
  unfold State.takeCmd
  dsimp only
  repeat' split
  all_goals simp

@[simp] theorem State.jrnCommand_kept (s : State) (key q accept : Nat) (w : List W64) : (State.jrnCommand s key q accept w).kept = s.kept := by
  unfold State.jrnCommand
  dsimp only
  repeat' split
  all_goals simp

@[simp] theorem State.openStep_kept (s : State) (ctx : Nat) (w : List W64) : (State.openStep s ctx w).kept = s.kept := by
  unfold State.openStep
  dsimp only
  repeat' split
  all_goals simp

@[simp] theorem State.refuseCmd_kept (s : State) (ref : CmdRef) (w : List W64) : (State.refuseCmd s ref w).kept = s.kept := by
  unfold State.refuseCmd
  repeat' split
  all_goals simp

@[simp] theorem State.unreachableCmd_kept (s : State) (ref : CmdRef) (w : List W64) : (State.unreachableCmd s ref w).kept = s.kept := by
  unfold State.unreachableCmd
  repeat' split
  all_goals simp

@[simp] theorem State.acceptCtx_kept (s : State) (ref : CmdRef) (ctx order : Nat) (w : List W64) (bad : Option Nat) :
    (State.acceptCtx s ref ctx order w bad).kept = s.kept := by
  unfold State.acceptCtx
  repeat' (first
    | (simp; done)
    | with_reducible rfl
    | assumption
    | split
    | (refine foldl_kept_of (fun _ _ => ?_) ?_)
    | (refine foldl_kept_fst_of (fun _ _ => ?_) ?_)
    | (refine aon_of_eq (by assumption) ?_)
    | simp)

@[simp] theorem State.accept_kept (s : State) (q : QueueId) : (State.accept s q).kept = s.kept := by
  unfold State.accept
  repeat' (first
    | (simp; done)
    | with_reducible rfl
    | assumption
    | split
    | (refine foldl_kept_of (fun _ _ => ?_) ?_)
    | (refine foldl_kept_fst_of (fun _ _ => ?_) ?_)
    | (refine aon_of_eq (by assumption) ?_)
    | simp)

theorem execCommandAccept_kept (queue : QueueId) (s : State) {t : State} (h : execCommandAccept queue s = .next t) : t.kept = s.kept := by
  unfold execCommandAccept at h
  simp only [Host.Outcome.next.injEq] at h
  subst h
  simp

@[simp] theorem State.endDispatch_kept (s : State) (ref : CmdRef) : (State.endDispatch s ref).kept = s.kept := by
  unfold State.endDispatch
  repeat' split
  all_goals simp

@[simp] theorem State.writeRecord_kept (s : State) (ref : CmdRef) (c : Cmd) : (State.writeRecord s ref c).kept = s.kept := by
  unfold State.writeRecord
  repeat' split
  all_goals simp

@[simp] theorem State.closeCmd_kept (s : State) (ref : CmdRef) (c : Cmd) : (State.closeCmd s ref c).kept = s.kept := by
  unfold State.closeCmd
  dsimp only
  repeat' split
  all_goals simp

@[simp] theorem State.complete_kept (s : State) (ref : CmdRef) : (State.complete s ref).kept = s.kept := by
  unfold State.complete
  dsimp only
  repeat' split
  all_goals simp

theorem execCommandComplete_kept (ref : CmdRef) (s : State) {t : State} (h : execCommandComplete ref s = .next t) : t.kept = s.kept := by
  unfold execCommandComplete at h
  simp only [Host.Outcome.next.injEq] at h
  subst h
  simp

@[simp] theorem State.runCmd_kept (s : State) (ref : CmdRef) (op : Nat) (sel : List W64 → Bool) (f : Cmd → State) (h : ∀ c, (f c).kept = s.kept) :
    (s.runCmd ref op sel f).kept = s.kept := by
  unfold State.runCmd
  repeat' (first
    | (simp [h]; done)
    | exact h _
    | split)

@[simp] theorem State.runCmdOn_kept (s : State) (ref : CmdRef) (op : Nat) (sel : List W64 → Bool) (f : Cmd → State) (h : ∀ c, (f c).kept = s.kept) :
    (s.runCmdOn ref op sel f).kept = s.kept := by
  unfold State.runCmdOn
  repeat' (first
    | (simp [h]; done)
    | exact h _
    | split)

end Sys2Proof.Machine
end

