-- ==== Sys2Proof/Laws/AlwaysOnCommands.lean ====
section
/-! SUPPORT. The always-on domain (State.kept) is kept by every operation and command of Machine: Commands, Contexts. -/

namespace Sys2Proof.Machine

@[simp] theorem State.dispatch_kept (s : State) (ref : CmdRef) (c : Cmd) : (State.dispatch s ref c).kept = s.kept := by
  unfold State.dispatch
  dsimp only
  repeat' split
  all_goals simp

theorem execDispatch_kept (ref : CmdRef) (s : State) {t : State} (h : execDispatch ref s = .next t) : t.kept = s.kept := by
  unfold execDispatch at h
  simp only [Host.Outcome.next.injEq] at h
  subst h
  simp

@[simp] theorem State.copyTent_kept (s : State) (ctx : Nat) (w : List W64) : (State.copyTent s ctx w).1.kept = s.kept := by
  unfold State.copyTent
  repeat' (first
    | (simp; done)
    | with_reducible rfl
    | assumption
    | split
    | (refine foldl_kept_of (fun _ _ => ?_) ?_)
    | (refine foldl_kept_fst_of (fun _ _ => ?_) ?_)
    | (refine aon_of_eq (by assumption) ?_)
    | simp)

@[simp] theorem State.copyCommand_kept (s : State) (ref : CmdRef) (c : Cmd) : (State.copyCommand s ref c).kept = s.kept := by
  unfold State.copyCommand
  repeat' (first
    | (simp; done)
    | with_reducible rfl
    | assumption
    | split
    | (refine foldl_kept_of (fun _ _ => ?_) ?_)
    | (refine foldl_kept_fst_of (fun _ _ => ?_) ?_)
    | (refine aon_of_eq (by assumption) ?_)
    | simp)

theorem execCopyCommand_kept (ref : CmdRef) (s : State) {t : State} (h : execCopyCommand ref s = .next t) : t.kept = s.kept := by
  unfold execCopyCommand at h
  simp only [Host.Outcome.next.injEq] at h
  subst h
  simp

@[simp] theorem State.waitCommand_kept (s : State) (ref : CmdRef) (c : Cmd) : (State.waitCommand s ref c).kept = s.kept := by
  unfold State.waitCommand
  repeat' split
  all_goals simp

theorem execWaitCommand_kept (ref : CmdRef) (s : State) {t : State} (h : execWaitCommand ref s = .next t) : t.kept = s.kept := by
  unfold execWaitCommand at h
  simp only [Host.Outcome.next.injEq] at h
  subst h
  simp

@[simp] theorem State.signalCommand_kept (s : State) (ref : CmdRef) (c : Cmd) : (State.signalCommand s ref c).kept = s.kept := by
  simp [State.signalCommand]

theorem execSignalCommand_kept (ref : CmdRef) (s : State) {t : State} (h : execSignalCommand ref s = .next t) : t.kept = s.kept := by
  unfold execSignalCommand at h
  simp only [Host.Outcome.next.injEq] at h
  subst h
  simp

@[simp] theorem State.invalidate_kept (s : State) (ref : CmdRef) (c : Cmd) : (State.invalidate s ref c).kept = s.kept := by
  unfold State.invalidate
  dsimp only
  repeat' split
  all_goals simp

theorem execInvalidate_kept (ref : CmdRef) (s : State) {t : State} (h : execInvalidate ref s = .next t) : t.kept = s.kept := by
  unfold execInvalidate at h
  simp only [Host.Outcome.next.injEq] at h
  subst h
  simp

@[simp] theorem State.query_kept (s : State) (ref : CmdRef) (c : Cmd) : (State.query s ref c).kept = s.kept := by
  unfold State.query
  repeat' (first
    | (simp; done)
    | with_reducible rfl
    | assumption
    | split
    | (refine foldl_kept_of (fun _ _ => ?_) ?_)
    | (refine foldl_kept_fst_of (fun _ _ => ?_) ?_)
    | (refine aon_of_eq (by assumption) ?_)
    | simp)

theorem execQuery_kept (ref : CmdRef) (s : State) {t : State} (h : execQuery ref s = .next t) : t.kept = s.kept := by
  unfold execQuery at h
  simp only [Host.Outcome.next.injEq] at h
  subst h
  repeat' (first
    | simp
    | with_reducible rfl
    | assumption
    | split)

@[simp] theorem State.allocCommand_kept (s : State) (ref : CmdRef) (c : Cmd) : (State.allocCommand s ref c).kept = s.kept := by
  unfold State.allocCommand
  repeat' (first
    | (simp; done)
    | with_reducible rfl
    | assumption
    | split
    | (refine foldl_kept_of (fun _ _ => ?_) ?_)
    | (refine foldl_kept_fst_of (fun _ _ => ?_) ?_)
    | (refine aon_of_eq (by assumption) ?_)
    | simp)

theorem execAllocCommand_kept (ref : CmdRef) (s : State) {t : State} (h : execAllocCommand ref s = .next t) : t.kept = s.kept := by
  unfold execAllocCommand at h
  simp only [Host.Outcome.next.injEq] at h
  subst h
  simp

@[simp] theorem State.freeCommand_kept (s : State) (ref : CmdRef) (c : Cmd) : (State.freeCommand s ref c).kept = s.kept := by
  simp [State.freeCommand]

theorem execFreeCommand_kept (ref : CmdRef) (s : State) {t : State} (h : execFreeCommand ref s = .next t) : t.kept = s.kept := by
  unfold execFreeCommand at h
  simp only [Host.Outcome.next.injEq] at h
  subst h
  simp

@[simp] theorem State.readErefs_kept (s : State) (ref : CmdRef) (ctx : Nat) (c : Ctx) : (State.readErefs s ref ctx c).1.kept = s.kept := by
  unfold State.readErefs
  repeat' (first
    | (simp; done)
    | with_reducible rfl
    | assumption
    | split
    | (refine foldl_kept_of (fun _ _ => ?_) ?_)
    | (refine foldl_kept_fst_of (fun _ _ => ?_) ?_)
    | (refine aon_of_eq (by assumption) ?_)
    | simp)

@[simp] theorem State.openKey_kept (s : State) (k : Nat) : (State.openKey s k).kept = s.kept := by
  simp [State.openKey]

@[simp] theorem State.undoCreate_kept (s s' : State) (n : Nat) : (s.undoCreate s' n).kept = s'.kept := by
  unfold State.undoCreate
  simp

@[simp] theorem State.ctxCreate_kept (s : State) (ref : CmdRef) (c : Cmd) : (State.ctxCreate s ref c).kept = s.kept := by
  unfold State.ctxCreate
  repeat' (first
    | (simp; done)
    | with_reducible rfl
    | assumption
    | split
    | (refine foldl_kept_of (fun _ _ => ?_) ?_)
    | (refine foldl_kept_fst_of (fun _ _ => ?_) ?_)
    | (refine aon_of_eq (by assumption) ?_)
    | simp)

theorem execCtxCreate_kept (ref : CmdRef) (s : State) {t : State} (h : execCtxCreate ref s = .next t) : t.kept = s.kept := by
  unfold execCtxCreate at h
  simp only [Host.Outcome.next.injEq] at h
  subst h
  simp

@[simp] theorem State.ctxSet_kept (s : State) (ref : CmdRef) (c : Cmd) : (State.ctxSet s ref c).kept = s.kept := by
  unfold State.ctxSet
  dsimp only
  repeat' split
  all_goals simp

theorem execCtxSet_kept (ref : CmdRef) (s : State) {t : State} (h : execCtxSet ref s = .next t) : t.kept = s.kept := by
  unfold execCtxSet at h
  simp only [Host.Outcome.next.injEq] at h
  subst h
  simp

@[simp] theorem State.dropWindow_kept (s : State) (n : Nat) : (State.dropWindow s n).kept = s.kept := by
  unfold State.dropWindow
  repeat' (first
    | (simp; done)
    | with_reducible rfl
    | assumption
    | split
    | (refine foldl_kept_of (fun _ _ => ?_) ?_))

@[simp] theorem State.dropHoldings_kept (s : State) (n : Nat) : (State.dropHoldings s n).kept = s.kept := by
  unfold State.dropHoldings
  repeat' (first
    | (simp; done)
    | with_reducible rfl
    | assumption
    | split
    | (refine foldl_kept_of (fun _ _ => ?_) ?_)
    | (refine foldl_kept_fst_of (fun _ _ => ?_) ?_)
    | (refine aon_of_eq (by assumption) ?_)
    | simp)

@[simp] theorem State.teardown_kept (s : State) (n : Nat) : (State.teardown s n).kept = s.kept := by
  unfold State.teardown
  repeat' split
  all_goals simp

@[simp] theorem State.ctxTeardown_kept (s : State) (ref : CmdRef) (c : Cmd) : (State.ctxTeardown s ref c).kept = s.kept := by
  unfold State.ctxTeardown
  dsimp only
  repeat' split
  all_goals simp

theorem execCtxTeardown_kept (ref : CmdRef) (s : State) {t : State} (h : execCtxTeardown ref s = .next t) : t.kept = s.kept := by
  unfold execCtxTeardown at h
  simp only [Host.Outcome.next.injEq] at h
  subst h
  simp

@[simp] theorem State.freeCtx_kept (s : State) (n : Nat) : (State.freeCtx s n).kept = s.kept := by
  simp [State.freeCtx]

@[simp] theorem State.teardownDone_kept (s : State) (n : Nat) : (State.teardownDone s n).kept = s.kept := by
  unfold State.teardownDone
  repeat' (first
    | (simp; done)
    | with_reducible rfl
    | assumption
    | split
    | (refine foldl_kept_of (fun _ _ => ?_) ?_)
    | (refine foldl_kept_fst_of (fun _ _ => ?_) ?_)
    | (refine aon_of_eq (by assumption) ?_)
    | simp)

theorem execTeardownComplete_kept (ctx : CtxId) (s : State) {t : State} (h : execTeardownComplete ctx s = .next t) : t.kept = s.kept := by
  unfold execTeardownComplete at h
  simp only [Host.Outcome.next.injEq] at h
  subst h
  simp

@[simp] theorem State.queueCreate_kept (s : State) (ref : CmdRef) (c : Cmd) : (State.queueCreate s ref c).kept = s.kept := by
  unfold State.queueCreate
  dsimp only
  repeat' split
  all_goals simp

theorem execQueueCreate_kept (ref : CmdRef) (s : State) {t : State} (h : execQueueCreate ref s = .next t) : t.kept = s.kept := by
  unfold execQueueCreate at h
  simp only [Host.Outcome.next.injEq] at h
  subst h
  simp

@[simp] theorem State.queueDestroy_kept (s : State) (ref : CmdRef) (c : Cmd) : (State.queueDestroy s ref c).kept = s.kept := by
  unfold State.queueDestroy
  dsimp only
  repeat' split
  all_goals simp

theorem execQueueDestroy_kept (ref : CmdRef) (s : State) {t : State} (h : execQueueDestroy ref s = .next t) : t.kept = s.kept := by
  unfold execQueueDestroy at h
  simp only [Host.Outcome.next.injEq] at h
  subst h
  simp

@[simp] theorem State.queueResume_kept (s : State) (ref : CmdRef) (c : Cmd) : (State.queueResume s ref c).kept = s.kept := by
  unfold State.queueResume
  dsimp only
  repeat' split
  all_goals simp

theorem execQueueResume_kept (ref : CmdRef) (s : State) {t : State} (h : execQueueResume ref s = .next t) : t.kept = s.kept := by
  unfold execQueueResume at h
  simp only [Host.Outcome.next.injEq] at h
  subst h
  simp

@[simp] theorem State.turnCreate_kept (s : State) (ref : CmdRef) (c : Cmd) : (State.turnCreate s ref c).kept = s.kept := by
  unfold State.turnCreate
  dsimp only
  repeat' split
  all_goals simp

theorem execTurnCreate_kept (ref : CmdRef) (s : State) {t : State} (h : execTurnCreate ref s = .next t) : t.kept = s.kept := by
  unfold execTurnCreate at h
  simp only [Host.Outcome.next.injEq] at h
  subst h
  simp

@[simp] theorem State.turnGrant_kept (s : State) (ref : CmdRef) (c : Cmd) : (State.turnGrant s ref c).kept = s.kept := by
  unfold State.turnGrant
  repeat' (first
    | (simp; done)
    | with_reducible rfl
    | assumption
    | split
    | (refine foldl_kept_of (fun _ _ => ?_) ?_)
    | (refine foldl_kept_fst_of (fun _ _ => ?_) ?_)
    | (refine aon_of_eq (by assumption) ?_)
    | simp)

theorem execTurnGrant_kept (ref : CmdRef) (s : State) {t : State} (h : execTurnGrant ref s = .next t) : t.kept = s.kept := by
  unfold execTurnGrant at h
  simp only [Host.Outcome.next.injEq] at h
  subst h
  simp

@[simp] theorem State.turnExport_kept (s : State) (ref : CmdRef) (c : Cmd) : (State.turnExport s ref c).kept = s.kept := by
  unfold State.turnExport
  dsimp only
  repeat' split
  all_goals simp

theorem execTurnExportAdd_kept (ref : CmdRef) (s : State) {t : State} (h : execTurnExportAdd ref s = .next t) : t.kept = s.kept := by
  unfold execTurnExportAdd at h
  simp only [Host.Outcome.next.injEq] at h
  subst h
  simp

theorem execTurnExportRemove_kept (ref : CmdRef) (s : State) {t : State} (h : execTurnExportRemove ref s = .next t) : t.kept = s.kept := by
  unfold execTurnExportRemove at h
  simp only [Host.Outcome.next.injEq] at h
  subst h
  simp

@[simp] theorem State.handleRelease_kept (s : State) (ref : CmdRef) (c : Cmd) : (State.handleRelease s ref c).kept = s.kept := by
  unfold State.handleRelease
  dsimp only
  repeat' split
  all_goals simp

theorem execHandleRelease_kept (ref : CmdRef) (s : State) {t : State} (h : execHandleRelease ref s = .next t) : t.kept = s.kept := by
  unfold execHandleRelease at h
  simp only [Host.Outcome.next.injEq] at h
  subst h
  simp

end Sys2Proof.Machine
end

