-- ==== Sys2Proof/Laws/AlwaysOnLinks.lean ====
section
/-! SUPPORT. The always-on domain (State.kept) is kept by every operation and command of Machine: Links. -/

namespace Sys2Proof.Machine

@[simp] theorem State.putFlit_kept (s : State) (l : Nat) (f : Flit) : (State.putFlit s l f).kept = s.kept := by
  simp [State.putFlit]

@[simp] theorem State.sendData_kept (s : State) (l : Nat) : (State.sendData s l).kept = s.kept := by
  unfold State.sendData
  dsimp only
  repeat' split
  all_goals simp

@[simp] theorem State.flitSend_kept (s : State) (l : Nat) : (State.flitSend s l).kept = s.kept := by
  unfold State.flitSend
  dsimp only
  repeat' split
  all_goals simp

theorem execFlitSend_kept (link : LinkId) (s : State) {t : State} (h : execFlitSend link s = .next t) : t.kept = s.kept := by
  unfold execFlitSend at h
  simp only [Host.Outcome.next.injEq] at h
  subst h
  simp

@[simp] theorem State.malformedPacket_kept (s : State) : (State.malformedPacket s).kept = s.kept := by
  simp [State.malformedPacket]

@[simp] theorem State.deliverMgmt_kept (s : State) (p : Packet) : (State.deliverMgmt s p).kept = s.kept := by
  unfold State.deliverMgmt
  dsimp only
  repeat' split
  all_goals simp

@[simp] theorem State.packetIn_kept (s : State) (l : Nat) (p : Packet) : (State.packetIn s l p).1.kept = s.kept := by
  unfold State.packetIn
  dsimp only
  repeat' split
  all_goals simp

@[simp] theorem State.joinFlit_kept (s : State) (l : Nat) (f : Flit) : (State.joinFlit s l f).kept = s.kept := by
  unfold State.joinFlit
  repeat' (first
    | (simp; done)
    | with_reducible rfl
    | assumption
    | split
    | (refine foldl_kept_of (fun _ _ => ?_) ?_)
    | (refine foldl_kept_fst_of (fun _ _ => ?_) ?_)
    | (refine aon_of_eq (by assumption) ?_)
    | simp)

@[simp] theorem State.flitIn_kept (s : State) (l : Nat) (f : Flit) : (State.flitIn s l f).kept = s.kept := by
  unfold State.flitIn
  dsimp only
  repeat' split
  all_goals simp

theorem execDataFlit_kept (link : LinkId) (flit : Flit) (s : State) {t : State} (h : execDataFlit link flit s = .next t) : t.kept = s.kept := by
  unfold execDataFlit at h
  simp only [Host.Outcome.next.injEq] at h
  subst h
  simp

theorem execIdleFlit_kept (link : LinkId) (flit : Flit) (s : State) {t : State} (h : execIdleFlit link flit s = .next t) : t.kept = s.kept := by
  unfold execIdleFlit at h
  simp only [Host.Outcome.next.injEq] at h
  subst h
  simp

theorem execRetryReq_kept (link : LinkId) (flit : Flit) (s : State) {t : State} (h : execRetryReq link flit s = .next t) : t.kept = s.kept := by
  unfold execRetryReq at h
  simp only [Host.Outcome.next.injEq] at h
  subst h
  simp

@[simp] theorem State.dropLink_kept (s : State) (l : Nat) : (State.dropLink s l).kept = s.kept := by
  simp [State.dropLink]

@[simp] theorem State.linksSettled_kept (s : State) : (State.linksSettled s).kept = s.kept := by
  unfold State.linksSettled
  repeat' (first
    | (simp; done)
    | with_reducible rfl
    | assumption
    | split
    | (refine foldl_kept_of (fun _ _ => ?_) ?_)
    | (refine foldl_kept_fst_of (fun _ _ => ?_) ?_)
    | (refine aon_of_eq (by assumption) ?_)
    | simp
    | rfl)

@[simp] theorem State.trainStep_kept (s : State) (l : Nat) (find : LaneFind) : (State.trainStep s l find).kept = s.kept := by
  unfold State.trainStep
  repeat' (first
    | (simp; done)
    | with_reducible rfl
    | assumption
    | split
    | (refine foldl_kept_of (fun _ _ => ?_) ?_)
    | (refine foldl_kept_fst_of (fun _ _ => ?_) ?_)
    | (refine aon_of_eq (by assumption) ?_)
    | simp)

theorem execTrainingStep_kept (link : LinkId) (find : LaneFind) (s : State) {t : State} (h : execTrainingStep link find s = .next t) :
    t.kept = s.kept := by
  unfold execTrainingStep at h
  simp only [Host.Outcome.next.injEq] at h
  subst h
  simp

@[simp] theorem State.trainTimeout_kept (s : State) (l : Nat) : (State.trainTimeout s l).kept = s.kept := by
  unfold State.trainTimeout
  dsimp only
  repeat' split
  all_goals simp

theorem execTrainingTimeout_kept (link : LinkId) (s : State) {t : State} (h : execTrainingTimeout link s = .next t) : t.kept = s.kept := by
  unfold execTrainingTimeout at h
  simp only [Host.Outcome.next.injEq] at h
  subst h
  simp

@[simp] theorem State.identIn_kept (s : State) (l id : Nat) (dom : Bool) (peerLink : Nat) : (State.identIn s l id dom peerLink).kept = s.kept := by
  unfold State.identIn
  dsimp only
  repeat' split
  all_goals simp

theorem execIdent_kept (link : LinkId) (id : DeviceId) (dom : Bool) (peerLink : Nat)
    (s : State) {t : State} (h : execIdent link id dom peerLink s = .next t) : t.kept = s.kept := by
  unfold execIdent at h
  simp only [Host.Outcome.next.injEq] at h
  subst h
  simp

@[simp] theorem State.retrain_kept (s : State) (l : Nat) (cause : RetrainCause) : (State.retrain s l cause).kept = s.kept := by
  unfold State.retrain
  dsimp only
  repeat' split
  all_goals simp

theorem execLinkRetrain_kept (link : LinkId) (cause : RetrainCause) (s : State) {t : State} (h : execLinkRetrain link cause s = .next t) :
    t.kept = s.kept := by
  unfold execLinkRetrain at h
  simp only [Host.Outcome.next.injEq] at h
  subst h
  simp

@[simp] theorem State.forwardIn_kept (s : State) (l vc : Nat) : (State.forwardIn s l vc).kept = s.kept := by
  unfold State.forwardIn
  dsimp only
  repeat' split
  all_goals simp

theorem execPacketForward_kept (link : LinkId) (vc : BitVec 2) (s : State) {t : State} (h : execPacketForward link vc s = .next t) :
    t.kept = s.kept := by
  unfold execPacketForward at h
  simp only [Host.Outcome.next.injEq] at h
  subst h
  simp

end Sys2Proof.Machine
end

