-- ==== Sys2Proof/Laws/AlwaysOnMemory.lean ====
section
/-! SUPPORT. The always-on domain (State.kept) is kept by every operation and command of Machine: Memory, ObjCommands. -/

namespace Sys2Proof.Machine

@[simp] theorem State.takeSlot_kept (s : State) (tent reg : Nat) (m : MissReg) : (State.takeSlot s tent reg m).kept = s.kept := by
  simp [State.takeSlot]

@[simp] theorem State.askHost_kept (s : State) (tent reg : Nat) (m : MissReg) : (State.askHost s tent reg m).kept = s.kept := by
  unfold State.askHost
  repeat' (first
    | (simp; done)
    | with_reducible rfl
    | assumption
    | split
    | (refine foldl_kept_of (fun _ _ => ?_) ?_))

@[simp] theorem State.waiterReady_kept (s : State) (c : EllCopy) (framed : Bool) (q : BReq) : (State.waiterReady s c framed q).1.kept = s.kept := by
  unfold State.waiterReady
  dsimp only
  repeat' split
  all_goals simp

@[simp] theorem serveWaiters_kept (s : State) (c : EllCopy) (framed : Bool) (ws : List BReq) : (serveWaiters s c framed ws).1.kept = s.kept := by
  unfold serveWaiters
  refine foldl_kept_fst_of (fun p q => ?_) rfl
  obtain ⟨s1, c1, rest⟩ := p
  dsimp only
  split
  · rfl
  · split
    · exact aon_of_eq (by assumption) (State.waiterReady_kept ..)
    · exact (State.performReq_kept ..).trans (aon_of_eq (by assumption) (State.waiterReady_kept ..))

@[simp] theorem serveInOrder_kept (s : State) (c : EllCopy) (framed : Bool) (ws : List BReq) : (serveInOrder s c framed ws).1.kept = s.kept := by
  induction ws generalizing s c with
  | nil => rfl
  | cons q rest ih =>
    unfold serveInOrder
    split
    · exact aon_of_eq (by assumption) (State.waiterReady_kept ..)
    · exact (ih _ _).trans ((State.performReq_kept ..).trans (aon_of_eq (by assumption) (State.waiterReady_kept ..)))

@[simp] theorem State.placeFill_kept (s : State) (tent : Nat) (m : MissReg) (c new : EllCopy) : (State.placeFill s tent m c new).kept = s.kept := by
  unfold State.placeFill
  dsimp only
  repeat' split
  all_goals simp

@[simp] theorem State.completeFill_kept (s : State) (tent reg : Nat) (m : MissReg) : (s.completeFill tent reg m).kept = s.kept := by
  unfold State.completeFill
  extract_lets framed c0 c put reserved
  have hput : ∀ s m, (put s m).kept = s.kept := fun s m => by simp [put]
  have ho := serveInOrder_kept s c framed m.waiters
  clear_value reserved put c framed
  generalize hq : serveInOrder s c framed m.waiters = q at ho
  obtain ⟨s1, c1, l⟩ := q
  cases l with
  | cons q rest => exact (hput ..).trans ho
  | nil =>
    dsimp only at ho ⊢
    split
    · exact (hput ..).trans ho
    · generalize hp : (if (!reserved) = true then s.prepare c1 (decide (c1.dead ≠ 0)) else _ : State × Bool) = p
      have e : p.1.kept = s.kept := by
        rw [← hp]
        repeat' split
        all_goals simp
      clear hp hq
      obtain ⟨s2, ok⟩ := p
      cases ok
      · exact (hput ..).trans e
      · dsimp only at e ⊢
        simp [e]

@[simp] theorem State.fillStep_kept (s : State) (tent reg : Nat) : (State.fillStep s tent reg).kept = s.kept := by
  unfold State.fillStep
  dsimp only
  repeat' split
  all_goals simp

@[simp] theorem State.resumeFill_kept (s : State) (ell : Nat) : (State.resumeFill s ell).kept = s.kept := by
  unfold State.resumeFill
  repeat' (first
    | (simp; done)
    | with_reducible rfl
    | assumption
    | split
    | (refine foldl_kept_of (fun _ _ => ?_) ?_))

@[simp] theorem State.issueFetch_kept (s : State) (tent reg : Nat) : (State.issueFetch s tent reg).kept = s.kept := by
  unfold State.issueFetch
  dsimp only
  repeat' split
  all_goals simp

theorem execMissFetchIssue_kept (tent : TentId) (reg : Nat) (s : State) {t : State} (h : execMissFetchIssue tent reg s = .next t) :
    t.kept = s.kept := by
  unfold execMissFetchIssue at h
  simp only [Host.Outcome.next.injEq] at h
  subst h
  simp

@[simp] theorem State.dramRead_kept (s : State) (chan bank : Nat) : (State.dramRead s chan bank).kept = s.kept := by
  unfold State.dramRead
  dsimp only
  repeat' split
  all_goals simp

@[simp] theorem State.dramWrites_kept (s : State) (chan : Nat) : (State.dramWrites s chan).kept = s.kept := by
  unfold State.dramWrites
  dsimp only
  repeat' split
  all_goals simp

theorem execDramAccess_kept (chan : ChanId) (turn : DramTurn) (s : State) {t : State} (h : execDramAccess chan turn s = .next t) :
    t.kept = s.kept := by
  unfold execDramAccess at h
  simp only [Host.Outcome.next.injEq] at h
  subst h
  first | simp | (split <;> simp)

@[simp] theorem State.countEcc_kept (s : State) (e item : Nat) (x : EccFound) : (State.countEcc s e item x).kept = s.kept := by
  simp [State.countEcc]

@[simp] theorem State.markEcc_kept (s : State) (c : EllCopy) (item : Nat) (owned : Bool) (x : EccFound) :
    (State.markEcc s c item owned x).1.kept = s.kept := by
  unfold State.markEcc
  dsimp only
  repeat' split
  all_goals simp

@[simp] theorem State.grainReturn_kept (s : State) (tent reg : Nat) (ecc : Ecc) : (State.grainReturn s tent reg ecc).kept = s.kept := by
  unfold State.grainReturn
  dsimp only
  repeat' split
  all_goals simp

@[simp] theorem State.hostGrainReturn_kept (s : State) (g : Nat) (bytes : List Byte) (poison : Bool) :
    (State.hostGrainReturn s g bytes poison).kept = s.kept := by
  unfold State.hostGrainReturn
  repeat' (first
    | (simp; done)
    | with_reducible rfl
    | assumption
    | split
    | (refine foldl_kept_of (fun _ _ => ?_) ?_))

theorem execRefresh_kept (chan : ChanId) (bank : DramBankId) (s : State) {t : State} (h : execRefresh chan bank s = .next t) : t.kept = s.kept := by
  unfold execRefresh at h
  simp only [Host.Outcome.next.injEq] at h
  subst h
  simp

@[simp] theorem State.markErasure_kept (s : State) (chan rank sub sym : Nat) : (State.markErasure s chan rank sub sym).kept = s.kept := by
  unfold State.markErasure
  dsimp only
  repeat' split
  all_goals simp

theorem execErasureMark_kept (chan : ChanId) (rank sub : Fin 2) (sym : Fin 10)
    (s : State) {t : State} (h : execErasureMark chan rank sub sym s = .next t) : t.kept = s.kept := by
  unfold execErasureMark at h
  simp only [Host.Outcome.next.injEq] at h
  subst h
  simp

@[simp] theorem State.startRemap_kept (s : State) (chan : Nat) (r : RowId) : (State.startRemap s chan r).kept = s.kept := by
  unfold State.startRemap
  dsimp only
  repeat' split
  all_goals simp

theorem execRowRemap_kept (chan : ChanId) (bank : DramBankId) (sub : Fin 2) (row : Nat)
    (s : State) {t : State} (h : execRowRemap chan bank sub row s = .next t) : t.kept = s.kept := by
  unfold execRowRemap at h
  simp only [Host.Outcome.next.injEq] at h
  subst h
  simp

@[simp] theorem State.endRemap_kept (s : State) (chan : Nat) (r : RowId) : (State.endRemap s chan r).kept = s.kept := by
  unfold State.endRemap
  dsimp only
  repeat' split
  all_goals simp

theorem execRowRemapComplete_kept (chan : ChanId) (bank : DramBankId) (sub : Fin 2) (row : Nat)
    (s : State) {t : State} (h : execRowRemapComplete chan bank sub row s = .next t) : t.kept = s.kept := by
  unfold execRowRemapComplete at h
  simp only [Host.Outcome.next.injEq] at h
  subst h
  simp

theorem execRateBucketRoll_kept (s : State) {t : State} (h : execRateBucketRoll s = .next t) : t.kept = s.kept := by
  unfold execRateBucketRoll at h
  simp only [Host.Outcome.next.injEq] at h
  subst h
  simp

@[simp] theorem State.objCreate_kept (s : State) (ref : CmdRef) (c : Cmd) : (State.objCreate s ref c).kept = s.kept := by
  unfold State.objCreate
  dsimp only
  repeat' split
  all_goals simp

theorem execObjCreate_kept (ref : CmdRef) (s : State) {t : State} (h : execObjCreate ref s = .next t) : t.kept = s.kept := by
  unfold execObjCreate at h
  simp only [Host.Outcome.next.injEq] at h
  subst h
  simp

@[simp] theorem State.objRef_kept (s : State) (ref : CmdRef) (c : Cmd) : (State.objRef s ref c).kept = s.kept := by
  unfold State.objRef
  dsimp only
  repeat' split
  all_goals simp

theorem execObjRefAdd_kept (ref : CmdRef) (s : State) {t : State} (h : execObjRefAdd ref s = .next t) : t.kept = s.kept := by
  unfold execObjRefAdd at h
  simp only [Host.Outcome.next.injEq] at h
  subst h
  simp

theorem execObjRefDrop_kept (ref : CmdRef) (s : State) {t : State} (h : execObjRefDrop ref s = .next t) : t.kept = s.kept := by
  unfold execObjRefDrop at h
  simp only [Host.Outcome.next.injEq] at h
  subst h
  simp

@[simp] theorem State.poolGrant_kept (s : State) (ref : CmdRef) (c : Cmd) : (State.poolGrant s ref c).kept = s.kept := by
  unfold State.poolGrant
  dsimp only
  repeat' split
  all_goals simp

theorem execPoolGrant_kept (ref : CmdRef) (s : State) {t : State} (h : execPoolGrant ref s = .next t) : t.kept = s.kept := by
  unfold execPoolGrant at h
  simp only [Host.Outcome.next.injEq] at h
  subst h
  simp

@[simp] theorem State.poolReclaim_kept (s : State) (ref : CmdRef) (c : Cmd) : (State.poolReclaim s ref c).kept = s.kept := by
  unfold State.poolReclaim
  dsimp only
  repeat' split
  all_goals simp

theorem execPoolReclaim_kept (ref : CmdRef) (s : State) {t : State} (h : execPoolReclaim ref s = .next t) : t.kept = s.kept := by
  unfold execPoolReclaim at h
  simp only [Host.Outcome.next.injEq] at h
  subst h
  simp

@[simp] theorem State.tlbInvalidate_kept (s : State) (ref : CmdRef) (c : Cmd) : (State.tlbInvalidate s ref c).kept = s.kept := by
  unfold State.tlbInvalidate
  dsimp only
  repeat' split
  all_goals simp

theorem execTlbInvalidate_kept (ref : CmdRef) (s : State) {t : State} (h : execTlbInvalidate ref s = .next t) : t.kept = s.kept := by
  unfold execTlbInvalidate at h
  simp only [Host.Outcome.next.injEq] at h
  subst h
  simp

@[simp] theorem State.objsOver_kept (s : State) (ctx base pages : Nat) : (State.objsOver s ctx base pages).1.kept = s.kept := by
  unfold State.objsOver
  repeat' (first
    | (simp; done)
    | with_reducible rfl
    | assumption
    | split
    | (refine foldl_kept_of (fun _ _ => ?_) ?_)
    | (refine foldl_kept_fst_of (fun _ _ => ?_) ?_)
    | (refine aon_of_eq (by assumption) ?_))

@[simp] theorem State.windowCreate_kept (s : State) (ref : CmdRef) (c : Cmd) : (State.windowCreate s ref c).kept = s.kept := by
  unfold State.windowCreate
  repeat' (first
    | (simp; done)
    | with_reducible rfl
    | assumption
    | split
    | (refine foldl_kept_of (fun _ _ => ?_) ?_)
    | (refine foldl_kept_fst_of (fun _ _ => ?_) ?_)
    | (refine aon_of_eq (by assumption) ?_)
    | simp)

theorem execWindowCreate_kept (ref : CmdRef) (s : State) {t : State} (h : execWindowCreate ref s = .next t) : t.kept = s.kept := by
  unfold execWindowCreate at h
  simp only [Host.Outcome.next.injEq] at h
  subst h
  simp

@[simp] theorem State.windowDestroy_kept (s : State) (ref : CmdRef) (c : Cmd) : (State.windowDestroy s ref c).kept = s.kept := by
  unfold State.windowDestroy
  dsimp only
  repeat' split
  all_goals simp

theorem execWindowDestroy_kept (ref : CmdRef) (s : State) {t : State} (h : execWindowDestroy ref s = .next t) : t.kept = s.kept := by
  unfold execWindowDestroy at h
  simp only [Host.Outcome.next.injEq] at h
  subst h
  simp

@[simp] theorem State.hostWindowSet_kept (s : State) (ref : CmdRef) (c : Cmd) : (State.hostWindowSet s ref c).kept = s.kept := by
  unfold State.hostWindowSet
  repeat' (first
    | (simp; done)
    | with_reducible rfl
    | assumption
    | split
    | (refine foldl_kept_of (fun _ _ => ?_) ?_)
    | (refine foldl_kept_fst_of (fun _ _ => ?_) ?_)
    | (refine aon_of_eq (by assumption) ?_)
    | simp)

theorem execHostWindowSet_kept (ref : CmdRef) (s : State) {t : State} (h : execHostWindowSet ref s = .next t) : t.kept = s.kept := by
  unfold execHostWindowSet at h
  simp only [Host.Outcome.next.injEq] at h
  subst h
  simp

end Sys2Proof.Machine
end

