-- ==== Sys2Proof/Laws/AlwaysOnStepEnd.lean ====
section
/-! SUPPORT. The always-on domain (State.kept) is kept by every operation and command of Machine: StepEnd, Swing. -/

namespace Sys2Proof.Machine

@[simp] theorem State.endJournal_kept (s : State) (ctx : Nat) (c : Ctx) (records : List Byte) (tags : List (Nat × Nat × Nat)) :
    (State.endJournal s ctx c records tags).kept = s.kept := by
  simp [State.endJournal]

@[simp] theorem State.endReplay_kept (s : State) (ctx : Nat) (records : List Byte) : (State.endReplay s ctx records).kept = s.kept := by
  simp [State.endReplay]

@[simp] theorem State.endStep_kept (s : State) (ref : CmdRef) (ctx : Nat) (c : Ctx) (cfg dec : List Byte) :
    (State.endStep s ref ctx c cfg dec).kept = s.kept := by
  unfold State.endStep
  dsimp only
  repeat' split
  all_goals simp

@[simp] theorem State.stepBoundary_kept (s : State) (ref : CmdRef) (c : Cmd) : (State.stepBoundary s ref c).kept = s.kept := by
  unfold State.stepBoundary
  repeat' (first
    | (simp; done)
    | with_reducible rfl
    | assumption
    | split
    | (refine foldl_kept_of (fun _ _ => ?_) ?_)
    | (refine foldl_kept_fst_of (fun _ _ => ?_) ?_)
    | (refine aon_of_eq (by assumption) ?_)
    | simp)

theorem execStepBoundary_kept (ref : CmdRef) (s : State) {t : State} (h : execStepBoundary ref s = .next t) : t.kept = s.kept := by
  unfold execStepBoundary at h
  simp only [Host.Outcome.next.injEq] at h
  subst h
  repeat' (first
    | simp)

@[simp] theorem State.putSwing_kept (s : State) (ctx pair : Nat) (p : SwingPair) : (State.putSwing s ctx pair p).kept = s.kept := by
  simp [State.putSwing]

@[simp] theorem State.declare_kept (s : State) (ref : CmdRef) (c : Cmd) : (State.declare s ref c).kept = s.kept := by
  unfold State.declare
  dsimp only
  repeat' split
  all_goals simp

theorem execDeclare_kept (ref : CmdRef) (s : State) {t : State} (h : execDeclare ref s = .next t) : t.kept = s.kept := by
  unfold execDeclare at h
  simp only [Host.Outcome.next.injEq] at h
  subst h
  simp

@[simp] theorem State.release_kept (s : State) (ref : CmdRef) (c : Cmd) : (State.release s ref c).kept = s.kept := by
  unfold State.release
  dsimp only
  repeat' split
  all_goals simp

theorem execRelease_kept (ref : CmdRef) (s : State) {t : State} (h : execRelease ref s = .next t) : t.kept = s.kept := by
  unfold execRelease at h
  simp only [Host.Outcome.next.injEq] at h
  subst h
  simp

@[simp] theorem State.flipPlan_kept (s : State) (ctx pair base len : Nat) : (State.flipPlan s ctx pair base len).1.kept = s.kept := by
  unfold State.flipPlan
  repeat' (first
    | (simp; done)
    | with_reducible rfl
    | assumption
    | split
    | (refine foldl_kept_of (fun _ _ => ?_) ?_)
    | (refine foldl_kept_fst_of (fun _ _ => ?_) ?_)
    | (refine aon_of_eq (by assumption) ?_)
    | simp)

@[simp] theorem State.flipNow_kept (s : State) (ref : CmdRef) (c : Cmd) (pair : Nat) (p : SwingPair) (map : FMap DrainBit) :
    (State.flipNow s ref c pair p map).kept = s.kept := by
  unfold State.flipNow
  repeat' (first
    | (simp; done)
    | with_reducible rfl
    | assumption
    | split
    | (refine foldl_kept_of (fun _ _ => ?_) ?_))

@[simp] theorem State.flip_kept (s : State) (ref : CmdRef) (c : Cmd) : (State.flip s ref c).kept = s.kept := by
  unfold State.flip
  repeat' (first
    | (simp; done)
    | with_reducible rfl
    | assumption
    | split
    | (refine foldl_kept_of (fun _ _ => ?_) ?_)
    | (refine foldl_kept_fst_of (fun _ _ => ?_) ?_)
    | (refine aon_of_eq (by assumption) ?_)
    | simp)

theorem execFlip_kept (ref : CmdRef) (s : State) {t : State} (h : execFlip ref s = .next t) : t.kept = s.kept := by
  unfold execFlip at h
  simp only [Host.Outcome.next.injEq] at h
  subst h
  simp

@[simp] theorem State.trailerReady_kept (s : State) (ctx target off n : Nat) : (State.trailerReady s ctx target off n).1.kept = s.kept := by
  unfold State.trailerReady
  repeat' (first
    | (simp; done)
    | with_reducible rfl
    | assumption
    | split
    | (refine foldl_kept_of (fun _ _ => ?_) ?_)
    | (refine foldl_kept_fst_of (fun _ _ => ?_) ?_)
    | (refine aon_of_eq (by assumption) ?_))

@[simp] theorem State.trailerWrite_kept (s : State) (ref : CmdRef) (ctx target off : Nat) (bs : List Byte) :
    (State.trailerWrite s ref ctx target off bs).kept = s.kept := by
  unfold State.trailerWrite
  repeat' (first
    | (simp; done)
    | with_reducible rfl
    | assumption
    | split
    | (refine foldl_kept_of (fun _ _ => ?_) ?_))

@[simp] theorem State.endSwing_kept (s : State) (ctx pair : Nat) (p : SwingPair) : (State.endSwing s ctx pair p).kept = s.kept := by
  simp [State.endSwing]

@[simp] theorem State.drainFailed_kept (s : State) (ref : CmdRef) (ctx pair : Nat) (p : SwingPair) (c : Cmd) (target : Nat) :
    (State.drainFailed s ref ctx pair p c target).kept = s.kept := by
  simp [State.drainFailed]

@[simp] theorem State.drainStage_kept (s : State) (ref : CmdRef) (ctx pair : Nat) (p : SwingPair) (c : Cmd) :
    (s.drainStage ref ctx pair p c).kept = s.kept := by
  unfold State.drainStage
  extract_lets target step body stage
  have h : ∀ off n (w : State → State), (∀ s, (w s).kept = s.kept) → (stage off n w).kept = s.kept := by
    intro off n w hw
    simp only [stage]
    split
    · exact aon_of_eq (by assumption) (State.trailerReady_kept ..)
    · exact (State.drainFailed_kept ..).trans (aon_of_eq (by assumption) (State.trailerReady_kept ..))
    · exact (State.putSwing_kept ..).trans ((hw _).trans (aon_of_eq (by assumption) (State.trailerReady_kept ..)))
  clear_value stage
  split
  · exact h _ _ _ (fun s => by simp)
  · exact h _ _ _ (fun s => by simp)
  · rename_i r s1 _ _ _
    have e : s1.kept = s.kept := rfl
    simp [e]

@[simp] theorem State.drainEnd_kept (s : State) (ctx pair : Nat) : (State.drainEnd s ctx pair).kept = s.kept := by
  unfold State.drainEnd
  dsimp only
  repeat' split
  all_goals simp

theorem execSwingDrainEnd_kept (ctx : CtxId) (pair : Nat) (s : State) {t : State} (h : execSwingDrainEnd ctx pair s = .next t) : t.kept = s.kept := by
  unfold execSwingDrainEnd at h
  simp only [Host.Outcome.next.injEq] at h
  subst h
  simp

@[simp] theorem State.journalExport_kept (s : State) (ref : CmdRef) (c : Cmd) : (s.journalExport ref c).kept = s.kept := by
  unfold State.journalExport
  dsimp only
  split
  · simp
  · rename_i j _
    split
    · simp
    · have e := State.copyPlan_kept s 0 (c.ctx.getD 0) (cmdWord c.words 2) 0 (List.replicate (4096 * j.blocks) 0)
      generalize s.copyPlan 0 (c.ctx.getD 0) (cmdWord c.words 2) 0 (List.replicate (4096 * j.blocks) 0) = p at e
      obtain ⟨s1, r⟩ := p
      cases r <;> dsimp only at e ⊢
      · have e2 := (State.freeTake_kept s1 (4096 * j.blocks - j.image.length)).trans e
        generalize s1.freeTake (4096 * j.blocks - j.image.length) = p2 at e2
        simp [e2]
      · simpa using e
      · simp [e]

theorem execJournalExport_kept (ref : CmdRef) (s : State) {t : State} (h : execJournalExport ref s = .next t) : t.kept = s.kept := by
  unfold execJournalExport at h
  simp only [Host.Outcome.next.injEq] at h
  subst h
  simp

@[simp] theorem State.journalImport_kept (s : State) (ref : CmdRef) (c : Cmd) : (State.journalImport s ref c).kept = s.kept := by
  unfold State.journalImport
  repeat' (first
    | (simp; done)
    | with_reducible rfl
    | assumption
    | split
    | (refine foldl_kept_of (fun _ _ => ?_) ?_)
    | (refine foldl_kept_fst_of (fun _ _ => ?_) ?_)
    | (refine aon_of_eq (by assumption) ?_)
    | simp)

theorem execJournalImport_kept (ref : CmdRef) (s : State) {t : State} (h : execJournalImport ref s = .next t) : t.kept = s.kept := by
  unfold execJournalImport at h
  simp only [Host.Outcome.next.injEq] at h
  subst h
  simp

@[simp] theorem State.replayArm_kept (s : State) (ref : CmdRef) (c : Cmd) : (State.replayArm s ref c).kept = s.kept := by
  unfold State.replayArm
  dsimp only
  repeat' split
  all_goals simp

theorem execReplayArm_kept (ref : CmdRef) (s : State) {t : State} (h : execReplayArm ref s = .next t) : t.kept = s.kept := by
  unfold execReplayArm at h
  simp only [Host.Outcome.next.injEq] at h
  subst h
  simp

@[simp] theorem State.scanGrain_kept (s : State) (who : Asker) (ctx va : Nat) : (State.scanGrain s who ctx va).1.kept = s.kept := by
  unfold State.scanGrain
  repeat' (first
    | (simp; done)
    | with_reducible rfl
    | assumption
    | split
    | (refine foldl_kept_of (fun _ _ => ?_) ?_)
    | (refine foldl_kept_fst_of (fun _ _ => ?_) ?_)
    | (refine aon_of_eq (by assumption) ?_)
    | simp)

@[simp] theorem State.scanPeek_kept (s : State) (who : Asker) (ctx va n : Nat) : (State.scanPeek s who ctx va n).1.kept = s.kept := by
  unfold State.scanPeek
  repeat' (first
    | (simp; done)
    | with_reducible rfl
    | assumption
    | split
    | (refine foldl_kept_of (fun _ _ => ?_) ?_)
    | (refine foldl_kept_fst_of (fun _ _ => ?_) ?_))

@[simp] theorem State.scanVa_kept (s : State) (who : Asker) (ctx va n : Nat) : (State.scanVa s who ctx va n).1.kept = s.kept := by
  unfold State.scanVa
  repeat' (first
    | (simp; done)
    | with_reducible rfl
    | assumption
    | split
    | (refine foldl_kept_of (fun _ _ => ?_) ?_)
    | (refine foldl_kept_fst_of (fun _ _ => ?_) ?_)
    | (refine aon_of_eq (by assumption) ?_)
    | simp)

@[simp] theorem State.finishParts_kept (s : State) (ref : CmdRef) (len : Nat) (fails : List Nat) (cause : Nat) :
    (State.finishParts s ref len fails cause).kept = s.kept := by
  unfold State.finishParts
  repeat' split
  all_goals simp

@[simp] theorem State.partsFault_kept (s : State) (ref : CmdRef) (ctx accept len va : Nat) :
    (State.partsFault s ref ctx accept len va).kept = s.kept := by
  simp [State.partsFault]

@[simp] theorem State.digest_kept (s : State) (ref : CmdRef) (c : Cmd) : (State.digest s ref c).kept = s.kept := by
  unfold State.digest
  repeat' (first
    | (simp; done)
    | with_reducible rfl
    | assumption
    | split
    | (refine foldl_kept_of (fun _ _ => ?_) ?_)
    | (refine foldl_kept_fst_of (fun _ _ => ?_) ?_)
    | (refine aon_of_eq (by assumption) ?_)
    | simp)

theorem execDigest_kept (ref : CmdRef) (s : State) {t : State} (h : execDigest ref s = .next t) : t.kept = s.kept := by
  unfold execDigest at h
  simp only [Host.Outcome.next.injEq] at h
  subst h
  simp

end Sys2Proof.Machine
end

