-- ==== Sys2Proof/Laws/AlwaysOnRemote.lean ====
section
/-! SUPPORT. The always-on domain (State.kept) is kept by every operation and command of Machine: Remote. -/

namespace Sys2Proof.Machine

@[simp] theorem State.takePacket_kept (s : State) (p : Packet) : (State.takePacket s p).kept = s.kept := by
  simp [State.takePacket]

@[simp] theorem State.answer_kept (s : State) (p : Packet) (status : Nat) (payload : List Byte) :
    (State.answer s p status payload).kept = s.kept := by
  simp [State.answer]

@[simp] theorem State.servePacketRead_kept (s : State) (p : Packet) : (State.servePacketRead s p).kept = s.kept := by
  unfold State.servePacketRead
  repeat' (first
    | (simp; done)
    | with_reducible rfl
    | assumption
    | split
    | (refine foldl_kept_of (fun _ _ => ?_) ?_)
    | (refine foldl_kept_fst_of (fun _ _ => ?_) ?_)
    | (refine aon_of_eq (by assumption) ?_)
    | simp)

theorem execReadPacket_kept (s : State) {t : State} (h : execReadPacket s = .next t) : t.kept = s.kept := by
  unfold execReadPacket at h
  simp only [Host.Outcome.next.injEq] at h
  subst h
  first | simp | (split <;> simp)

@[simp] theorem State.openServe_kept (s : State) (p : Packet) (payload : List Byte) : (State.openServe s p payload).1.kept = s.kept := by
  simp [State.openServe]

@[simp] theorem State.servePiece_kept (s : State) (n : Nat) (ph : Phys) (bs : List (Nat × Byte)) : (State.servePiece s n ph bs).kept = s.kept := by
  unfold State.servePiece
  repeat' split
  all_goals simp

@[simp] theorem State.servePacketWrite_kept (s : State) (p : Packet) : (State.servePacketWrite s p).kept = s.kept := by
  unfold State.servePacketWrite
  repeat' (first
    | (simp; done)
    | with_reducible rfl
    | assumption
    | split
    | (refine foldl_kept_of (fun _ _ => ?_) ?_)
    | (refine foldl_kept_fst_of (fun _ _ => ?_) ?_)
    | (refine aon_of_eq (by assumption) ?_)
    | simp)

theorem execWritePacket_kept (s : State) {t : State} (h : execWritePacket s = .next t) : t.kept = s.kept := by
  unfold execWritePacket at h
  simp only [Host.Outcome.next.injEq] at h
  subst h
  first | simp | (split <;> simp)

@[simp] theorem State.serveAtomic_kept (s : State) (p : Packet) (ctx : Nat) (ph : Phys) (op : AtomOp) (type : Nat) (entries : List (Nat × Nat)) :
    (s.serveAtomic p ctx ph op type entries).kept = s.kept := by
  unfold State.serveAtomic
  have h : ∀ (s : State) q, (s.arriveWith (fun s t b q => s.serve t b q false) q).kept = s.kept :=
    fun s q => State.arriveWith_kept _ (fun _ _ _ _ => by simp) s q
  simp [h]

@[simp] theorem State.servePacketAtomic_kept (s : State) (p : Packet) : (State.servePacketAtomic s p).kept = s.kept := by
  unfold State.servePacketAtomic
  dsimp only
  repeat' (first
    | with_reducible rfl
    | exact State.answer_kept ..
    | exact aon_of_eq (by assumption) (State.translate_kept ..)
    | exact (State.answer_kept ..).trans (aon_of_eq (by assumption) (State.translate_kept ..))
    | exact (State.serveAtomic_kept ..).trans (aon_of_eq (by assumption) (State.translate_kept ..))
    | split)

theorem execAtomicPacket_kept (s : State) {t : State} (h : execAtomicPacket s = .next t) : t.kept = s.kept := by
  unfold execAtomicPacket at h
  simp only [Host.Outcome.next.injEq] at h
  subst h
  first | simp | (split <;> simp)

@[simp] theorem State.servePacketTurn_kept (s : State) (p : Packet) : (State.servePacketTurn s p).kept = s.kept := by
  unfold State.servePacketTurn
  repeat' split
  all_goals simp

theorem execTurnSigPacket_kept (s : State) {t : State} (h : execTurnSigPacket s = .next t) : t.kept = s.kept := by
  unfold execTurnSigPacket at h
  simp only [Host.Outcome.next.injEq] at h
  subst h
  first | simp | (split <;> simp)

@[simp] theorem State.copyDeliver_kept (s : State) (t e : Nat) (c : CopyOp) (at_ : Nat) (bs : List Byte) :
    (State.copyDeliver s t e c at_ bs).kept = s.kept := by
  simp [State.copyDeliver]

@[simp] theorem State.takeOutcome_kept (s : State) (who : ReqWho) (status : Nat) (payload : List Byte) :
    (State.takeOutcome s who status payload).1.kept = s.kept := by
  unfold State.takeOutcome
  dsimp only
  repeat' split
  all_goals simp

@[simp] theorem State.endRequest_kept (s : State) (tag : Nat) (q : RemoteReq) (status : Nat) (payload : List Byte) :
    (State.endRequest s tag q status payload).1.kept = s.kept := by
  unfold State.endRequest
  repeat' (first
    | (simp; done)
    | with_reducible rfl
    | assumption
    | split
    | (refine foldl_kept_of (fun _ _ => ?_) ?_)
    | (refine foldl_kept_fst_of (fun _ _ => ?_) ?_)
    | (refine aon_of_eq (by assumption) ?_)
    | simp)

@[simp] theorem State.failRequest_kept (s : State) (tag status : Nat) : (State.failRequest s tag status).kept = s.kept := by
  unfold State.failRequest
  repeat' (first
    | (simp; done)
    | with_reducible rfl
    | assumption
    | split
    | (refine foldl_kept_of (fun _ _ => ?_) ?_)
    | (refine foldl_kept_fst_of (fun _ _ => ?_) ?_)
    | (refine aon_of_eq (by assumption) ?_)
    | simp)

@[simp] theorem State.takeResponse_kept (s : State) (p : Packet) : (State.takeResponse s p).kept = s.kept := by
  unfold State.takeResponse
  repeat' (first
    | (simp; done)
    | with_reducible rfl
    | assumption
    | split
    | (refine foldl_kept_of (fun _ _ => ?_) ?_)
    | (refine foldl_kept_fst_of (fun _ _ => ?_) ?_)
    | (refine aon_of_eq (by assumption) ?_)
    | simp)

theorem execReadResp_kept (s : State) {t : State} (h : execReadResp s = .next t) : t.kept = s.kept := by
  unfold execReadResp at h
  simp only [Host.Outcome.next.injEq] at h
  subst h
  first | simp | (split <;> simp)

theorem execAck_kept (s : State) {t : State} (h : execAck s = .next t) : t.kept = s.kept := by
  unfold execAck at h
  simp only [Host.Outcome.next.injEq] at h
  subst h
  first | simp | (split <;> simp)

theorem execAtomicResp_kept (s : State) {t : State} (h : execAtomicResp s = .next t) : t.kept = s.kept := by
  unfold execAtomicResp at h
  simp only [Host.Outcome.next.injEq] at h
  subst h
  first | simp | (split <;> simp)

theorem execRequestTimeout_kept (tag : W16) (s : State) {t : State} (h : execRequestTimeout tag s = .next t) : t.kept = s.kept := by
  unfold execRequestTimeout at h
  simp only [Host.Outcome.next.injEq] at h
  subst h
  repeat' (first
    | (simp; done)
    | with_reducible rfl
    | assumption
    | split)

theorem execEcho_kept (s : State) {t : State} (h : execEcho s = .next t) : t.kept = s.kept := by
  unfold execEcho at h
  simp only [Host.Outcome.next.injEq] at h
  subst h
  first | simp | (split <;> simp)

@[simp] theorem State.echoReplied_kept (s : State) (p : Packet) : (State.echoReplied s p).kept = s.kept := by
  unfold State.echoReplied
  dsimp only
  repeat' split
  all_goals simp

theorem execEchoReply_kept (s : State) {t : State} (h : execEchoReply s = .next t) : t.kept = s.kept := by
  unfold execEchoReply at h
  simp only [Host.Outcome.next.injEq] at h
  subst h
  first | simp | (split <;> simp)

end Sys2Proof.Machine
end

