-- ==== Sys2Proof/Laws/AlwaysOnColls.lean ====
section
/-! SUPPORT. The always-on domain (State.kept) is kept by every operation and command of Machine: Colls. -/

namespace Sys2Proof.Machine

@[simp] theorem State.putColl_kept (s : State) (x : Coll) : (State.putColl s x).kept = s.kept := by
  simp [State.putColl]

@[simp] theorem State.modColl_kept (s : State) (ref : CmdRef) (f : Coll → Coll) : (State.modColl s ref f).kept = s.kept := by
  unfold State.modColl
  repeat' split
  all_goals simp

@[simp] theorem State.endColl_kept (s : State) (ref : CmdRef) (cause : Nat) : (State.endColl s ref cause).kept = s.kept := by
  simp [State.endColl]

@[simp] theorem State.closeColl_kept (s : State) (c : Coll) (fails : List (Nat × Nat)) : (State.closeColl s c fails).kept = s.kept := by
  unfold State.closeColl
  repeat' split
  all_goals simp

@[simp] theorem State.voidNorm_kept (s : State) (ref : CmdRef) (ctx : Nat) (w : List W64) : (State.voidNorm s ref ctx w).1.kept = s.kept := by
  unfold State.voidNorm
  repeat' (first
    | (simp; done)
    | with_reducible rfl
    | assumption
    | split
    | (refine foldl_kept_of (fun _ _ => ?_) ?_)
    | (refine foldl_kept_fst_of (fun _ _ => ?_) ?_)
    | (refine aon_of_eq (by assumption) ?_)
    | simp)

@[simp] theorem State.collMalformed_kept (s : State) (ref : CmdRef) (ctx : Nat) (w : List W64) (cause : Nat) (seq : State → State)
    (h : ∀ s, (seq s).kept = s.kept) : (s.collMalformed ref ctx w cause seq).kept = s.kept := by
  unfold State.collMalformed
  split
  · exact aon_of_eq (by assumption) (by simp)
  · simp only [State.modCmd_kept, State.countPartial_kept, h]
    exact aon_of_eq (by assumption) (by simp)

@[simp] theorem State.sendColl_kept (s : State) (c : Coll) (dest kind seg n : Nat) (bs : List Byte) (status tag : Nat) :
    (State.sendColl s c dest kind seg n bs status tag).kept = s.kept := by
  simp [State.sendColl]

@[simp] theorem State.readColl_kept (s : State) (c : Coll) (va n : Nat) : (State.readColl s c va n).1.kept = s.kept := by
  unfold State.readColl
  repeat' (first
    | (simp; done)
    | with_reducible rfl
    | assumption
    | split
    | (refine foldl_kept_of (fun _ _ => ?_) ?_)
    | (refine foldl_kept_fst_of (fun _ _ => ?_) ?_)
    | (refine aon_of_eq (by assumption) ?_))

@[simp] theorem State.normPartial_kept (s : State) (c : Coll) : (State.normPartial s c).1.kept = s.kept := by
  unfold State.normPartial
  repeat' (first
    | (simp; done)
    | with_reducible rfl
    | assumption
    | split
    | (refine foldl_kept_of (fun _ _ => ?_) ?_)
    | (refine foldl_kept_fst_of (fun _ _ => ?_) ?_)
    | (refine aon_of_eq (by assumption) ?_)
    | simp)

@[simp] theorem State.segSource_kept (s : State) (c : Coll) (kind dest seg : Nat) : (State.segSource s c kind dest seg).1.kept = s.kept := by
  unfold State.segSource
  repeat' split
  all_goals simp

@[simp] theorem State.sendSegment_kept (s : State) (ref : CmdRef) (kind dest : Nat) : (State.sendSegment s ref kind dest).1.kept = s.kept := by
  unfold State.sendSegment
  repeat' (first
    | (simp; done)
    | with_reducible rfl
    | assumption
    | split
    | (refine foldl_kept_of (fun _ _ => ?_) ?_)
    | (refine foldl_kept_fst_of (fun _ _ => ?_) ?_)
    | (refine aon_of_eq (by assumption) ?_)
    | simp)

@[simp] theorem State.sendStream_kept (s : State) (ref : CmdRef) (kind dest fuel : Nat) : (State.sendStream s ref kind dest fuel).kept = s.kept := by
  induction fuel generalizing s with
  | zero => rfl
  | succ n ih =>
    unfold State.sendStream
    repeat' (first
      | (simp [ih]; done)
      | split
      | (refine (ih _).trans ?_)
      | (refine aon_of_eq (by assumption) ?_))

@[simp] theorem State.sendAll_kept (s : State) (ref : CmdRef) : (State.sendAll s ref).kept = s.kept := by
  unfold State.sendAll
  repeat' (first
    | (simp; done)
    | with_reducible rfl
    | assumption
    | split
    | (refine foldl_kept_of (fun _ _ => ?_) ?_))

@[simp] theorem State.putDst_kept (s : State) (c : Coll) (off : Nat) (bs : List Byte) : (State.putDst s c off bs).1.kept = s.kept := by
  unfold State.putDst
  repeat' (first
    | (simp; done)
    | with_reducible rfl
    | assumption
    | split
    | (refine foldl_kept_of (fun _ _ => ?_) ?_)
    | (refine foldl_kept_fst_of (fun _ _ => ?_) ?_)
    | (refine aon_of_eq (by assumption) ?_)
    | simp)

@[simp] theorem State.useFinal_kept (s : State) (c : Coll) (fr kind seg : Nat) : (State.useFinal s c fr kind seg).kept = s.kept := by
  unfold State.useFinal
  repeat' (first
    | (simp; done)
    | with_reducible rfl
    | assumption
    | split
    | (refine foldl_kept_of (fun _ _ => ?_) ?_)
    | (refine foldl_kept_fst_of (fun _ _ => ?_) ?_)
    | (refine aon_of_eq (by assumption) ?_)
    | simp)

@[simp] theorem State.takeOrder_kept (s : State) (key group seg : Nat) : (State.takeOrder s key group seg).1.kept = s.kept := by
  unfold State.takeOrder
  repeat' split
  all_goals simp

@[simp] theorem State.reduceSeg_kept (s : State) (c : Coll) (seg : Nat) : (State.reduceSeg s c seg).kept = s.kept := by
  unfold State.reduceSeg
  dsimp only
  repeat' split
  all_goals simp

@[simp] theorem State.compareSeg_kept (s : State) (c : Coll) (seg : Nat) : (State.compareSeg s c seg).kept = s.kept := by
  unfold State.compareSeg
  repeat' (first
    | (simp; done)
    | with_reducible rfl
    | assumption
    | split
    | (refine foldl_kept_of (fun _ _ => ?_) ?_)
    | (refine foldl_kept_fst_of (fun _ _ => ?_) ?_)
    | (refine aon_of_eq (by assumption) ?_)
    | simp)

@[simp] theorem State.useSegment_kept (s : State) (ref : CmdRef) (fr kind seg : Nat) : (State.useSegment s ref fr kind seg).kept = s.kept := by
  unfold State.useSegment
  repeat' split
  all_goals simp

@[simp] theorem State.useAll_kept (s : State) (ref : CmdRef) : (State.useAll s ref).kept = s.kept := by
  unfold State.useAll
  repeat' (first
    | (simp; done)
    | with_reducible rfl
    | assumption
    | split
    | (refine foldl_kept_of (fun _ _ => ?_) ?_))

@[simp] theorem State.grantRank_kept (fuel : Nat) (s : State) (ref : CmdRef) (r : Nat) : (s.grantRank fuel ref r).kept = s.kept := by
  induction fuel generalizing s with
  | zero => rfl
  | succ n ih =>
    unfold State.grantRank
    split
    · rfl
    · dsimp only
      split
      · rfl
      · simp [ih]

@[simp] theorem State.grantAll_kept (s : State) (ref : CmdRef) : (State.grantAll s ref).kept = s.kept := by
  unfold State.grantAll
  repeat' (first
    | (simp; done)
    | with_reducible rfl
    | assumption
    | split
    | (refine foldl_kept_of (fun _ _ => ?_) ?_)
    | (refine foldl_kept_fst_of (fun _ _ => ?_) ?_)
    | (refine aon_of_eq (by assumption) ?_)
    | simp)

@[simp] theorem State.modCarousel_kept (s : State) (ref : CmdRef) (f : Carousel → Carousel) : (State.modCarousel s ref f).kept = s.kept := by
  simp [State.modCarousel]

@[simp] theorem State.stageData_kept (s : State) (c : Coll) (k : Carousel) (off : Nat) (bs : List Byte) (status : Nat) :
    (State.stageData s c k off bs status).1.kept = s.kept := by
  unfold State.stageData
  repeat' (first
    | (simp; done)
    | with_reducible rfl
    | assumption
    | split
    | (refine foldl_kept_of (fun _ _ => ?_) ?_)
    | (refine foldl_kept_fst_of (fun _ _ => ?_) ?_)
    | (refine aon_of_eq (by assumption) ?_)
    | simp)

theorem State.moved_kept (s : State) (c : Coll) (n : Nat) (s1 : State) (e2 : s1.kept = s.kept) :
    (State.modCarousel s1 c.ref (fun k => { k with sent := k.sent + n })).kept = s.kept := by
  exact (State.modCarousel_kept ..).trans e2

theorem State.sentMove_kept (s : State) (c : Coll) (rank n a b d : Nat) (bytes : List Byte) (st : Nat) :
   (State.modCarousel (s.sendColl c rank 0 a b bytes st d) c.ref (fun k => { k with sent := k.sent + n })).kept = s.kept :=
  State.moved_kept s c n _ (State.sendColl_kept s c rank 0 a b bytes st d)

theorem State.stagedMove_kept (s : State) (c : Coll) (n : Nat) (r : State × Bool) (e : r.1.kept = s.kept) :
   (if r.2 then (r.1.modCarousel c.ref (fun k => { k with sent := k.sent + n }), true) else (r.1, false)).1.kept = s.kept := by
  by_cases hr : r.2 = true
  · rw [if_pos hr]
    exact State.moved_kept s c n _ e
  · rw [if_neg hr]
    exact e

theorem State.stageMove_kept (s : State) (c : Coll) (k : Carousel) (off : Nat) (bytes : List Byte) (st : Nat) :
   (s.stageData c k off bytes st).1.kept = s.kept := State.stageData_kept s c k off bytes st

@[simp] theorem State.placeMove_kept (s : State) (c : Coll) (k : Carousel) (rank off n : Nat) (bytes : List Byte) (st : Nat) :
    (s.placeMove c k rank off n bytes st).1.kept = s.kept := by
  unfold State.placeMove
  dsimp only
  split
  · refine State.stagedMove_kept s c n _ ?_
    exact State.stageMove_kept s c k off bytes st
  · exact State.sentMove_kept s c rank n _ _ _ bytes st

@[simp] theorem State.sendMove_kept (s : State) (c : Coll) (k : Carousel) : (s.sendMove c k).1.kept = s.kept := by
  unfold State.sendMove
  split
  · rfl
  · dsimp only
    split
    · exact State.readColl_kept ..
    · exact (State.cmdFault_kept ..).trans (State.readColl_kept ..)
    · exact State.readColl_kept ..
    · exact (State.placeMove_kept ..).trans (State.readColl_kept ..)

@[simp] theorem State.sendRoundEnd_kept (s : State) (c : Coll) (k : Carousel) : (State.sendRoundEnd s c k).kept = s.kept := by
  unfold State.sendRoundEnd
  repeat' (first
    | (simp; done)
    | with_reducible rfl
    | assumption
    | split
    | (refine foldl_kept_of (fun _ _ => ?_) ?_))

@[simp] theorem State.grantRound_kept (s : State) (c : Coll) (round : Nat) : (State.grantRound s c round).kept = s.kept := by
  unfold State.grantRound
  repeat' (first
    | (simp; done)
    | with_reducible rfl
    | assumption
    | split
    | (refine foldl_kept_of (fun _ _ => ?_) ?_))

@[simp] theorem State.unstage_kept (s : State) (c : Coll) (k : Carousel) : (State.unstage s c k).1.kept = s.kept := by
  unfold State.unstage
  repeat' (first
    | (simp; done)
    | with_reducible rfl
    | assumption
    | split
    | (refine foldl_kept_of (fun _ _ => ?_) ?_)
    | (refine foldl_kept_fst_of (fun _ _ => ?_) ?_)
    | (refine aon_of_eq (by assumption) ?_)
    | simp)

@[simp] theorem State.turnCarousel_kept (s : State) (ref : CmdRef) : (State.turnCarousel s ref).1.kept = s.kept := by
  unfold State.turnCarousel
  repeat' (first
    | (simp; done)
    | with_reducible rfl
    | assumption
    | split)

@[simp] theorem State.spin_kept (s : State) (ref : CmdRef) (fuel : Nat) : (State.spin s ref fuel).kept = s.kept := by
  induction fuel generalizing s with
  | zero => rfl
  | succ n ih =>
    unfold State.spin
    repeat' (first
      | (simp [ih]; done)
      | split
      | (refine (ih _).trans ?_)
      | (refine aon_of_eq (by assumption) ?_))

@[simp] theorem State.loadTable_kept (s : State) (ref : CmdRef) (c : Coll) : (State.loadTable s ref c).kept = s.kept := by
  unfold State.loadTable
  repeat' (first
    | (simp; done)
    | with_reducible rfl
    | assumption
    | split
    | (refine foldl_kept_of (fun _ _ => ?_) ?_)
    | (refine foldl_kept_fst_of (fun _ _ => ?_) ?_)
    | (refine aon_of_eq (by assumption) ?_)
    | simp)

@[simp] theorem State.wipe_kept (s : State) (c : Coll) : (State.wipe s c).1.kept = s.kept := by
  unfold State.wipe
  repeat' (first
    | (simp; done)
    | with_reducible rfl
    | assumption
    | split
    | (refine foldl_kept_of (fun _ _ => ?_) ?_)
    | (refine foldl_kept_fst_of (fun _ _ => ?_) ?_)
    | (refine aon_of_eq (by assumption) ?_)
    | simp)

@[simp] theorem State.wipeAll_kept (s : State) (ref : CmdRef) (fuel : Nat) : (State.wipeAll s ref fuel).kept = s.kept := by
  induction fuel generalizing s with
  | zero => rfl
  | succ n ih =>
    unfold State.wipeAll
    repeat' (first
      | (simp [ih]; done)
      | split
      | (refine (ih _).trans ?_)
      | (refine aon_of_eq (by assumption) ?_))

@[simp] theorem State.pumpOne_kept (s : State) (ref : CmdRef) : (s.pumpOne ref).kept = s.kept := by
  unfold State.pumpOne
  cases s.coll? ref with
  | none => rfl
  | some c =>
    dsimp only
    split
    · generalize hq : (if c.carousel.isNone && !c.ended then s.loadTable ref c else s) = s1
      have e : s1.kept = s.kept := by rw [← hq]; split <;> simp
      clear hq
      split <;> simp [e]
    · generalize hq : State.grantAll _ ref = s1
      have e : s1.kept = s.kept := by
        rw [← hq]
        simp only [State.sendAll_kept, State.useAll_kept, State.grantAll_kept]
      clear hq
      repeat' split
      all_goals simp [e]

@[simp] theorem State.pump_kept (s : State) (ref : CmdRef) : (State.pump s ref).kept = s.kept := by
  unfold State.pump
  dsimp only
  repeat' split
  all_goals simp

@[simp] theorem State.carouselIn_kept (s : State) (c : Coll) (p : Packet) : (State.carouselIn s c p).1.kept = s.kept := by
  unfold State.carouselIn
  repeat' split
  all_goals simp

@[simp] theorem State.segIn_kept (s : State) (c : Coll) (p : Packet) : (State.segIn s c p).1.kept = s.kept := by
  unfold State.segIn
  repeat' split
  all_goals simp

@[simp] theorem State.takeSeg_kept (s : State) (p : Packet) : (State.takeSeg s p).kept = s.kept := by
  unfold State.takeSeg
  repeat' (first
    | (simp; done)
    | with_reducible rfl
    | assumption
    | split
    | (refine foldl_kept_of (fun _ _ => ?_) ?_)
    | (refine foldl_kept_fst_of (fun _ _ => ?_) ?_)
    | (refine aon_of_eq (by assumption) ?_)
    | simp)

theorem execCollSeg_kept (s : State) {t : State} (h : execCollSeg s = .next t) : t.kept = s.kept := by
  unfold execCollSeg at h
  simp only [Host.Outcome.next.injEq] at h
  subst h
  first | simp | (split <;> simp)

@[simp] theorem State.readGroup_kept (s : State) (ref : CmdRef) (ctx va : Nat) : (State.readGroup s ref ctx va).1.kept = s.kept := by
  unfold State.readGroup
  repeat' (first
    | (simp; done)
    | with_reducible rfl
    | assumption
    | split
    | (refine foldl_kept_of (fun _ _ => ?_) ?_)
    | (refine foldl_kept_fst_of (fun _ _ => ?_) ?_)
    | (refine aon_of_eq (by assumption) ?_)
    | simp)

@[simp] theorem State.takeSeq_kept (s : State) (c : Coll) : (State.takeSeq s c).kept = s.kept := by
  simp [State.takeSeq]

@[simp] theorem State.openColl_kept (s : State) (ref : CmdRef) (c : Coll) : (State.openColl s ref c).kept = s.kept := by
  unfold State.openColl
  dsimp only
  repeat' split
  all_goals simp

@[simp] theorem State.collective_kept (s : State) (ref : CmdRef) (cmd : Cmd) : (State.collective s ref cmd).kept = s.kept := by
  unfold State.collective
  repeat' (first
    | (simp; done)
    | with_reducible rfl
    | assumption
    | split
    | (refine foldl_kept_of (fun _ _ => ?_) ?_)
    | (refine foldl_kept_fst_of (fun _ _ => ?_) ?_)
    | (refine aon_of_eq (by assumption) ?_)
    | simp)

@[simp] theorem State.collRow_kept (s : State) (ref : CmdRef) (op : Nat) : (State.collRow s ref op).kept = s.kept := by
  simp [State.collRow]

theorem execAllReduce_kept (ref : CmdRef) (s : State) {t : State} (h : execAllReduce ref s = .next t) : t.kept = s.kept := by
  unfold execAllReduce at h
  simp only [Host.Outcome.next.injEq] at h
  subst h
  simp

theorem execReduceScatter_kept (ref : CmdRef) (s : State) {t : State} (h : execReduceScatter ref s = .next t) : t.kept = s.kept := by
  unfold execReduceScatter at h
  simp only [Host.Outcome.next.injEq] at h
  subst h
  simp

theorem execAllGather_kept (ref : CmdRef) (s : State) {t : State} (h : execAllGather ref s = .next t) : t.kept = s.kept := by
  unfold execAllGather at h
  simp only [Host.Outcome.next.injEq] at h
  subst h
  simp

theorem execAllToAll_kept (ref : CmdRef) (s : State) {t : State} (h : execAllToAll ref s = .next t) : t.kept = s.kept := by
  unfold execAllToAll at h
  simp only [Host.Outcome.next.injEq] at h
  subst h
  simp

theorem execBroadcast_kept (ref : CmdRef) (s : State) {t : State} (h : execBroadcast ref s = .next t) : t.kept = s.kept := by
  unfold execBroadcast at h
  simp only [Host.Outcome.next.injEq] at h
  subst h
  simp

theorem execFusedNorm_kept (ref : CmdRef) (s : State) {t : State} (h : execFusedNorm ref s = .next t) : t.kept = s.kept := by
  unfold execFusedNorm at h
  simp only [Host.Outcome.next.injEq] at h
  subst h
  simp

theorem execCarousel_kept (ref : CmdRef) (s : State) {t : State} (h : execCarousel ref s = .next t) : t.kept = s.kept := by
  unfold execCarousel at h
  simp only [Host.Outcome.next.injEq] at h
  subst h
  simp

theorem execDigestCompare_kept (ref : CmdRef) (s : State) {t : State} (h : execDigestCompare ref s = .next t) : t.kept = s.kept := by
  unfold execDigestCompare at h
  simp only [Host.Outcome.next.injEq] at h
  subst h
  simp

@[simp] theorem State.progressTimeout_kept (s : State) (ref : CmdRef) (rank : Nat) : (State.progressTimeout s ref rank).kept = s.kept := by
  unfold State.progressTimeout
  dsimp only
  repeat' split
  all_goals simp

theorem execProgressTimeout_kept (ref : CmdRef) (rank : Nat) (s : State) {t : State} (h : execProgressTimeout ref rank s = .next t) :
    t.kept = s.kept := by
  unfold execProgressTimeout at h
  simp only [Host.Outcome.next.injEq] at h
  subst h
  simp

end Sys2Proof.Machine
end

