-- ==== Sys2Proof/Laws/AlwaysOnHostPort.lean ====
section
/-! SUPPORT. The always-on domain (State.kept) is kept by every operation and command of Machine: HostPort, Mesh, MxPath. -/

namespace Sys2Proof.Machine

@[simp] theorem State.bushelDone_kept (s : State) : (State.bushelDone s).kept = s.kept := by
  simp [State.bushelDone]

theorem execBushelRequest_kept (tent : TentId) (bank : BushelBankId) (s : State) {t : State} (h : execBushelRequest tent bank s = .next t) :
    t.kept = s.kept := by
  unfold execBushelRequest at h
  simp only [Host.Outcome.next.injEq] at h
  subst h
  repeat' (first
    | (simp; done)
    | with_reducible rfl
    | assumption
    | split
    | (refine foldl_kept_of (fun _ _ => ?_) ?_)
    | (refine foldl_kept_fst_of (fun _ _ => ?_) ?_)
    | (refine aon_of_eq (by assumption) ?_)
    | simp)

theorem execAtomicRequest_kept (site : AtomSite) (s : State) {t : State} (h : execAtomicRequest site s = .next t) : t.kept = s.kept := by
  unfold execAtomicRequest at h
  simp only [Host.Outcome.next.injEq] at h
  subst h
  first | simp | (split <;> simp)

theorem execRedAddRequest_kept (tent : TentId) (bank : BushelBankId) (s : State) {t : State} (h : execRedAddRequest tent bank s = .next t) :
    t.kept = s.kept := by
  unfold execRedAddRequest at h
  simp only [Host.Outcome.next.injEq] at h
  subst h
  simp

theorem execRedFoldRequest_kept (tent : TentId) (bank : BushelBankId) (s : State) {t : State} (h : execRedFoldRequest tent bank s = .next t) :
    t.kept = s.kept := by
  unfold execRedFoldRequest at h
  simp only [Host.Outcome.next.injEq] at h
  subst h
  simp

theorem execDramGrainReturn_kept (tent : TentId) (reg : Nat) (ecc : Ecc) (s : State) {t : State} (h : execDramGrainReturn tent reg ecc s = .next t) :
    t.kept = s.kept := by
  unfold execDramGrainReturn at h
  simp only [Host.Outcome.next.injEq] at h
  subst h
  simp

theorem execHostRead_kept (dpa : Nat) (want : HostWant) (tag : Nat) (s : State) {t : State} (h : execHostRead dpa want tag s = .next t) :
    t.kept = s.kept := by
  unfold execHostRead at h
  split at h
  · exact absurd h (by simp)
  · simp only [Host.Outcome.next.injEq] at h
    subst h
    split <;> simp

theorem execHostWrite_kept (dpa : Nat) (bytes : List Byte) (mask : List Bool) (keep : Bool)
    (s : State) {t : State} (h : execHostWrite dpa bytes mask keep s = .next t) : t.kept = s.kept := by
  unfold execHostWrite at h
  split at h
  · exact absurd h (by simp)
  · simp only [Host.Outcome.next.injEq] at h
    subst h
    split <;> simp

@[simp] theorem State.snoopDone_kept (s : State) (g : Nat) : (State.snoopDone s g).kept = s.kept := by
  unfold State.snoopDone
  dsimp only
  repeat' split
  all_goals simp

@[simp] theorem State.hostBack_kept (s : State) (e : FilterEnt) (bytes : List Byte) : (State.hostBack s e bytes).kept = s.kept := by
  unfold State.hostBack
  repeat' (first
    | (simp; done)
    | with_reducible rfl
    | assumption
    | split
    | (refine foldl_kept_of (fun _ _ => ?_) ?_)
    | (refine foldl_kept_fst_of (fun _ _ => ?_) ?_)
    | (refine aon_of_eq (by assumption) ?_)
    | simp)

@[simp] theorem State.bisnpAnswer_kept (s : State) (g : Nat) (dirty : Option (List Byte)) : (State.bisnpAnswer s g dirty).kept = s.kept := by
  unfold State.bisnpAnswer
  dsimp only
  repeat' split
  all_goals simp

theorem execBisnpResponse_kept (grain : Nat) (dirty : Option (List Byte)) (s : State) {t : State} (h : execBisnpResponse grain dirty s = .next t) :
    t.kept = s.kept := by
  unfold execBisnpResponse at h
  simp only [Host.Outcome.next.injEq] at h
  subst h
  simp

theorem execBisnpTimeout_kept (grain : Nat) (s : State) {t : State} (h : execBisnpTimeout grain s = .next t) : t.kept = s.kept := by
  unfold execBisnpTimeout at h
  simp only [Host.Outcome.next.injEq] at h
  subst h
  repeat' (first
    | (simp; done)
    | with_reducible rfl
    | assumption
    | split)

@[simp] theorem State.hostData_kept (s : State) (g : Nat) (bytes : List Byte) (poison : Bool) : (State.hostData s g bytes poison).kept = s.kept := by
  unfold State.hostData
  dsimp only
  repeat' split
  all_goals simp

@[simp] theorem State.hostWritten_kept (s : State) (g : Nat) : (State.hostWritten s g).kept = s.kept := by
  unfold State.hostWritten
  dsimp only
  repeat' split
  all_goals simp

theorem execCxlCacheCompletion_kept (done : CacheDone) (s : State) {t : State} (h : execCxlCacheCompletion done s = .next t) : t.kept = s.kept := by
  unfold execCxlCacheCompletion at h
  simp only [Host.Outcome.next.injEq] at h
  subst h
  first | simp | (split <;> simp)

theorem execHostSnoop_kept (grain : Nat) (s : State) {t : State} (h : execHostSnoop grain s = .next t) : t.kept = s.kept := by
  unfold execHostSnoop at h
  simp only [Host.Outcome.next.injEq] at h
  subst h
  first | simp | (split <;> simp)

@[simp] theorem State.meshFlit_kept (s : State) (link : Nat) (back : Bool) (c : MeshClass) (dest : Nat) (ok : Bool) :
    (State.meshFlit s link back c dest ok).kept = s.kept := by
  simp [State.meshFlit]

theorem execMeshFlit_kept (link : MeshHop) (ok : Bool) (s : State) {t : State} (h : execMeshFlit link ok s = .next t) : t.kept = s.kept := by
  unfold execMeshFlit at h
  simp only [Host.Outcome.next.injEq] at h
  subst h
  simp

theorem execMeshLinkFailure_kept (link : MeshLinkId) (s : State) {t : State} (h : execMeshLinkFailure link s = .next t) : t.kept = s.kept := by
  unfold execMeshLinkFailure at h
  simp only [Host.Outcome.next.injEq] at h
  subst h
  repeat' (first
    | (simp; done)
    | with_reducible rfl
    | assumption
    | split)

@[simp] theorem State.writeSlot_kept (s : State) (ring : Nat) : (State.writeSlot s ring).kept = s.kept := by
  unfold State.writeSlot
  dsimp only
  repeat' split
  all_goals simp

theorem execWeightSlotWrite_kept (ring : RingId) (s : State) {t : State} (h : execWeightSlotWrite ring s = .next t) : t.kept = s.kept := by
  unfold execWeightSlotWrite at h
  simp only [Host.Outcome.next.injEq] at h
  subst h
  simp

@[simp] theorem State.broadcast_kept (s : State) (ring : Nat) : (State.broadcast s ring).kept = s.kept := by
  unfold State.broadcast
  dsimp only
  repeat' split
  all_goals simp

theorem execLatchBroadcast_kept (ring : RingId) (s : State) {t : State} (h : execLatchBroadcast ring s = .next t) : t.kept = s.kept := by
  unfold execLatchBroadcast at h
  simp only [Host.Outcome.next.injEq] at h
  subst h
  simp

@[simp] theorem State.feedRow_kept (s : State) (ring b : Nat) : (State.feedRow s ring b).kept = s.kept := by
  unfold State.feedRow
  dsimp only
  repeat' split
  all_goals simp

theorem execFeederRowRead_kept (ring : RingId) (booth : BoothId) (s : State) {t : State} (h : execFeederRowRead ring booth s = .next t) :
    t.kept = s.kept := by
  unfold execFeederRowRead at h
  simp only [Host.Outcome.next.injEq] at h
  subst h
  simp

@[simp] theorem State.enterRow_kept (s : State) (ring b : Nat) : (State.enterRow s ring b).kept = s.kept := by
  unfold State.enterRow
  dsimp only
  repeat' split
  all_goals simp

theorem execArrayRowEnter_kept (ring : RingId) (booth : BoothId) (s : State) {t : State} (h : execArrayRowEnter ring booth s = .next t) :
    t.kept = s.kept := by
  unfold execArrayRowEnter at h
  simp only [Host.Outcome.next.injEq] at h
  subst h
  simp

@[simp] theorem State.accumulateRow_kept (s : State) (ring b : Nat) : (State.accumulateRow s ring b).kept = s.kept := by
  simp [State.accumulateRow]

theorem execAccumulatorRowWrite_kept (ring : RingId) (booth : BoothId) (s : State) {t : State} (h : execAccumulatorRowWrite ring booth s = .next t) :
    t.kept = s.kept := by
  unfold execAccumulatorRowWrite at h
  simp only [Host.Outcome.next.injEq] at h
  subst h
  simp

@[simp] theorem State.drainRead_kept (s : State) (ring b : Nat) : (State.drainRead s ring b).kept = s.kept := by
  unfold State.drainRead
  dsimp only
  repeat' split
  all_goals simp

theorem execDrainRowRead_kept (ring : RingId) (booth : BoothId) (s : State) {t : State} (h : execDrainRowRead ring booth s = .next t) :
    t.kept = s.kept := by
  unfold execDrainRowRead at h
  simp only [Host.Outcome.next.injEq] at h
  subst h
  simp

@[simp] theorem State.endDrain_kept (s : State) (d : MxDrnOp) : (State.endDrain s d).kept = s.kept := by
  unfold State.endDrain
  dsimp only
  repeat' split
  all_goals simp

@[simp] theorem State.drainWrite_kept (s : State) (ring b : Nat) : (State.drainWrite s ring b).kept = s.kept := by
  unfold State.drainWrite
  dsimp only
  repeat' split
  all_goals simp

theorem execDrainWrite_kept (ring : RingId) (booth : BoothId) (s : State) {t : State} (h : execDrainWrite ring booth s = .next t) :
    t.kept = s.kept := by
  unfold execDrainWrite at h
  simp only [Host.Outcome.next.injEq] at h
  subst h
  simp

@[simp] theorem State.putScratch_kept (s : State) (who : TroupeRef) (uid pend reg size : Nat) (sgn : Bool) (vals : List (Nat × List Byte)) :
    (State.putScratch s who uid pend reg size sgn vals).kept = s.kept := by
  unfold State.putScratch
  repeat' split
  all_goals simp

@[simp] theorem State.serveScratch_kept (s : State) (ring : Nat) (q : ScratchReq) : (State.serveScratch s ring q).kept = s.kept := by
  unfold State.serveScratch
  repeat' split
  all_goals simp

theorem Arb.one_kept (ring : Nat) (a : Arb) (q : ScratchReq) : (Arb.one ring a q).s.kept = a.s.kept := by
  unfold Arb.one
  dsimp only
  repeat' split
  all_goals simp

theorem Arb.vector_kept (ring : Nat) (a : Arb) (l : List ScratchReq) : (a.vector ring l).s.kept = a.s.kept := by
  unfold Arb.vector
  induction l generalizing a with
  | nil => rfl
  | cons q t ih => rw [List.foldl_cons, ih, Arb.one_kept]

theorem Arb.grant_kept (ring : Nat) (a : Arb) (p : PortClaim → Bool) : (a.grant ring p).s.kept = a.s.kept := by
  simp [Arb.grant]

@[simp] theorem State.arbitrate_kept (s : State) (ring : Nat) : (State.arbitrate s ring).kept = s.kept := by
  unfold State.arbitrate
  simp only [State.settleBarrier_kept, State.modRing_kept, Arb.grant_kept, Arb.vector_kept, State.setRing_kept]

theorem execScratchpadArbitration_kept (ring : RingId) (s : State) {t : State} (h : execScratchpadArbitration ring s = .next t) :
    t.kept = s.kept := by
  unfold execScratchpadArbitration at h
  simp only [Host.Outcome.next.injEq] at h
  subst h
  simp

end Sys2Proof.Machine
end

