-- ==== Sys2Proof/Laws/Issue.lean ====
section
/-!
SUPPORT. How an Alasha instruction issues: what the choice of a subset leaves, and the one state that an instruction with an effect on its
troupe alone answers.
-/

namespace Sys2Proof.Machine

/-! ### The troupe of a reference -/

@[simp] theorem State.ring_setRing_self (s : State) (r : Nat) (x : Ring) : (s.setRing r x).ring r = x := by
  simp [State.ring, State.setRing]

theorem State.ring_setRing_ne (s : State) {r j : Nat} (x : Ring) (h : j ≠ r) : (s.setRing r x).ring j = s.ring j := by
  simp [State.ring, State.setRing, Assoc.get_put_ne _ _ _ h]

@[simp] theorem State.ring_modRing_self (s : State) (r : Nat) (f : Ring → Ring) : (s.modRing r f).ring r = f (s.ring r) := by
  simp [State.modRing]

@[simp] theorem Ring.booth_setBooth_self (x : Ring) (b : Nat) (y : Booth) : (x.setBooth b y).booth b = y := by
  simp [Ring.booth, Ring.setBooth]

theorem Booth.find_setTroupe (l : List Troupe) (t x : Troupe) (h : l.find? (fun u => u.slot == t.slot) = some x) :
    (l.map (fun u => if u.slot = t.slot then t else u)).find? (fun u => u.slot == t.slot) = some t := by
  induction l with
  | nil => simp at h
  | cons a l ih =>
    by_cases ha : a.slot = t.slot
    · simp [ha]
    · have ha' : (a.slot == t.slot) = false := by simp [ha]
      simp only [List.find?_cons, ha'] at h
      simp [ha, ih h]

/-- A troupe that has been put back is the one that its reference names. -/
theorem State.troupe?_setTroupe (s : State) (who : TroupeRef) (t x : Troupe) (h : s.troupe? who = some x) :
    (s.setTroupe who t).troupe? who = some { t with slot := who.slot.val } := by
  simp only [State.troupe?, State.setTroupe, State.modBooth, State.ring_modRing_self, Ring.booth_setBooth_self, Booth.troupe?, Booth.setTroupe] at h ⊢
  exact Booth.find_setTroupe _ { t with slot := who.slot.val } x h

theorem State.troupe?_slot {s : State} {who : TroupeRef} {t : Troupe} (h : s.troupe? who = some t) : t.slot = who.slot.val := by
  have := List.find?_some h
  simpa using this

/-- Putting twice at one key. -/
@[simp] theorem Assoc.put_put {v : Type} (m : FMap v) (k : Nat) (x y : v) : Assoc.put (Assoc.put m k x) k y = Assoc.put m k y := by
  induction m with
  | nil => simp [Assoc.put]
  | cons p r ih =>
    obtain ⟨j, z⟩ := p
    simp only [Assoc.put]
    split
    · simp [Assoc.put]
    · split
      · simp [Assoc.put]
      · rename_i h1 h2
        simp [Assoc.put, h1, h2, ih]

/-- Two changes of one booth. -/
theorem State.modBooth_modBooth (s : State) (r b : Nat) (f g : Booth → Booth) :
    (s.modBooth r b f).modBooth r b g = s.modBooth r b (fun y => g (f y)) := by
  simp [State.modBooth, State.modRing, State.setRing, State.ring, Ring.setBooth, Ring.booth]

/-- Putting a troupe back twice is putting it back the second time. -/
theorem Booth.setTroupe_setTroupe (y : Booth) (t t' : Troupe) (h : t.slot = t'.slot) : (y.setTroupe t).setTroupe t' = y.setTroupe t' := by
  simp only [Booth.setTroupe, List.map_map]
  congr 2
  funext u
  simp only [Function.comp]
  split <;> simp_all

/-- Putting a troupe back twice is putting it back the second time. -/
theorem State.setTroupe_setTroupe (s : State) (who : TroupeRef) (t t' : Troupe) : (s.setTroupe who t).setTroupe who t' = s.setTroupe who t' := by
  simp only [State.setTroupe, State.modBooth_modBooth]
  congr 1
  funext y
  exact Booth.setTroupe_setTroupe y _ _ rfl

/-- The counts of slots read the troupe's slot, width, context and phase alone. -/
theorem State.takeSlots_congr (s : State) (who : TroupeRef) (t t' : Troupe) (n : Need) (cost : Nat) (h1 : t.slot = t'.slot)
    (h2 : t.width = t'.width) (h3 : t.ctx = t'.ctx) (h4 : t.phase = t'.phase) : s.takeSlots who t n cost = s.takeSlots who t' n cost := by
  simp only [State.takeSlots, Booth.cacheAfter, h1, h2, h3, h4]

theorem State.modCtx_modBooth (s : State) (r b : Nat) (f : Booth → Booth) (c : Nat) (g : Ctx → Ctx) :
    (s.modBooth r b f).modCtx c g = (s.modCtx c g).modBooth r b f := by
  simp only [State.modCtx, State.ctx?, State.modBooth_hub]
  split <;> rfl

/-- The counts of slots do not depend on the troupes of the booth. -/
theorem State.takeSlots_setTroupe (s : State) (who : TroupeRef) (t t' t2 : Troupe) (n : Need) (cost : Nat) :
    ((s.setTroupe who t).takeSlots who t' n cost).setTroupe who t2 = (s.takeSlots who t' n cost).setTroupe who t2 := by
  have h : ∀ x : State, (x.setTroupe who t).takeSlots who t' n cost = (x.takeSlots who t' n cost).setTroupe who t := by
    intro x
    unfold State.takeSlots State.setTroupe
    dsimp only
    rw [State.modBooth_modBooth, State.modCtx_modBooth, State.modCtx_modBooth]
    have e : ∀ (z : State) (k : Steelyard → Steelyard) (f : Booth → Booth), (z.modBooth who.ring.val who.booth.val f).modYard k =
        (z.modYard k).modBooth who.ring.val who.booth.val f := fun _ _ _ => rfl
    rw [e, e, State.modBooth_modBooth]
    rfl
  rw [h, State.setTroupe_setTroupe]

theorem State.troupe?_takeSlots (s : State) (who : TroupeRef) (t : Troupe) (n : Need) (cost : Nat) :
    (s.takeSlots who t n cost).troupe? who = s.troupe? who := by
  unfold State.takeSlots
  dsimp only
  rw [State.modCtx_modBooth]
  simp [State.troupe?, State.modYard, State.modBooth, State.modRing, State.setRing, State.ring, Ring.booth, Ring.setBooth, Booth.troupe?]

/-! ### The choice of a subset -/

theorem Troupe.pick_some {t t' : Troupe} {ready : Subset → Bool} {u : Subset} (h : Troupe.choose.pick ready t = (t', some u)) :
    t' = { t with running := some u.low, runCount := 0 } ∧ u ∈ t.subsets ∧ ready u = true := by
  have key : ∀ (l : List Subset) (b : Option Subset) (x : Subset),
      l.foldl (fun b u => match b with
        | none => some u
        | some x => if u.stamp < x.stamp ∨ (u.stamp = x.stamp ∧ u.low < x.low) then some u else some x) b = some x → x ∈ l ∨ b = some x := by
    intro l
    induction l with
    | nil => intro b x h; exact .inr h
    | cons a l ih =>
      intro b x h
      rw [List.foldl_cons] at h
      rcases ih _ _ h with h1 | h1
      · exact .inl (List.mem_cons_of_mem _ h1)
      · cases b with
        | none => simp at h1; exact .inl (by simp [h1])
        | some y =>
          dsimp only at h1
          split at h1
          · simp at h1; exact .inl (by simp [h1])
          · exact .inr h1
  unfold Troupe.choose.pick at h
  dsimp only at h
  split at h
  · rename_i x hx
    simp only [Prod.mk.injEq, Option.some.injEq] at h
    obtain ⟨rfl, rfl⟩ := h
    rcases key _ _ _ hx with h1 | h1
    · simp only [List.mem_filter] at h1
      exact ⟨rfl, h1.1, h1.2⟩
    · exact absurd h1 (by simp)
  · simp at h

/-- The chosen subset is one of the troupe's, ready, and running; the choice moves nothing but subsets and the run. -/
theorem Troupe.choose_some {t0 t : Troupe} {ready : Subset → Bool} {u : Subset} (h : t0.choose ready = (t, some u)) :
    u ∈ t.subsets ∧ ready u = true ∧ t.running = some u.low ∧
      t = { t0 with subsets := t.subsets, running := t.running, runCount := t.runCount } := by
  unfold Troupe.choose at h
  dsimp only at h
  split at h
  · rename_i x hx
    obtain ⟨low, hl, hf⟩ := Option.bind_eq_some_iff.mp hx
    split at h
    · rename_i hr
      simp only [Prod.mk.injEq, Option.some.injEq] at h
      obtain ⟨rfl, rfl⟩ := h
      simp only [Bool.and_eq_true, decide_eq_true_eq] at hr
      have hm : x ∈ (t0.merged ready).subsets := List.mem_of_find?_eq_some hf
      have hlow : x.low = low := by simpa using List.find?_some hf
      exact ⟨hm, hr.1, by rw [hl, hlow], rfl⟩
    · obtain ⟨h1, h2, h3⟩ := Troupe.pick_some h
      subst h1
      exact ⟨h2, h3, rfl, rfl⟩
  · obtain ⟨h1, h2, h3⟩ := Troupe.pick_some h
    subst h1
    exact ⟨h2, h3, rfl, rfl⟩

/-! ### Divergence -/

theorem lowestSubset_mem_aux (l : List Subset) (b : Option Subset) (x : Subset)
    (h : l.foldl (fun b u => match b with | none => some u | some x => if u.low < x.low then some u else some x) b = some x) :
    x ∈ l ∨ b = some x := by
  induction l generalizing b with
  | nil => exact .inr h
  | cons a l ih =>
    rw [List.foldl_cons] at h
    rcases ih _ h with h1 | h1
    · exact .inl (List.mem_cons_of_mem _ h1)
    · cases b with
      | none => simp at h1; exact .inl (by simp [h1])
      | some y =>
        dsimp only at h1
        split at h1
        · simp at h1; exact .inl (by simp [h1])
        · exact .inr h1

theorem lowestSubset_mem {l : List Subset} {x : Subset} (h : lowestSubset l = some x) : x ∈ l := by
  rcases lowestSubset_mem_aux l none x h with h | h
  · exact h
  · exact absurd h (by simp)

theorem lowestSubset_none {l : List Subset} (h : lowestSubset l = none) : l = [] := by
  have key : ∀ (l : List Subset) (y : Subset), l.foldl (fun b u =>
      match b with | none => some u | some x => if u.low < x.low then some u else some x) (some y) ≠ none := by
    intro l
    induction l with
    | nil => simp
    | cons a l ih =>
      intro y
      rw [List.foldl_cons]
      dsimp only
      split <;> exact ih _
  cases l with
  | nil => rfl
  | cons a l => exact absurd h (key l a)

/-- A troupe whose subset waits for nothing stays free of divergence when that subset moves on. -/
theorem Troupe.diverged?_advance {t : Troupe} {u : Subset} (hu : u ∈ t.subsets) (hw : u.wait = .none) (h : t.diverged? = none)
    (t' : Troupe) (pc : Nat) (hs : t'.subsets = t.subsets.map (fun x => if x.low = u.low then { u with pc } else x))
    (he : t'.exited = t.exited) : t'.diverged? = none := by
  have mem' : ∀ x ∈ t'.subsets, Subset.atMatrix x = true → x ∈ t.subsets := by
    intro x hx hm
    rw [hs] at hx
    obtain ⟨y, hy, rfl⟩ := List.mem_map.mp hx
    split at hm
    · simp [Subset.atMatrix, hw] at hm
    · rw [if_neg (by assumption)]
      exact hy
  have hu' : ({ u with pc } : Subset) ∈ t'.subsets := by
    rw [hs]
    exact List.mem_map.mpr ⟨u, hu, by simp⟩
  unfold Troupe.diverged? at h ⊢
  dsimp only at h ⊢
  generalize hA : lowestSubset (t.subsets.filter Subset.atMatrix) = A at h
  generalize hA' : lowestSubset (t'.subsets.filter Subset.atMatrix) = A'
  cases A' with
  | none => rfl
  | some a' =>
    have ha' := lowestSubset_mem hA'
    simp only [List.mem_filter] at ha'
    have hin := mem' a' ha'.1 ha'.2
    cases A with
    | none =>
      have := lowestSubset_none hA
      exact absurd (List.mem_filter.mpr ⟨hin, ha'.2⟩) (by simp [this])
    | some a =>
      dsimp only at h ⊢
      generalize hB : lowestSubset (t.subsets.filter (fun u => u.atMatrix && u.pc != a.pc)) = B at h
      cases B with
      | some b => simp at h
      | none =>
        have hB0 := lowestSubset_none hB
        have hpc : ∀ x ∈ t.subsets, x.atMatrix = true → x.pc = a.pc := by
          intro x hx hm
          by_contra hne
          have : x ∈ t.subsets.filter (fun u => u.atMatrix && u.pc != a.pc) := by simp [hx, hm, hne]
          simp [hB0] at this
        have e : t'.subsets.filter (fun u => u.atMatrix && u.pc != a'.pc) = [] := by
          rw [List.filter_eq_nil_iff]
          intro x hx
          by_cases hm : x.atMatrix = true
          · simp [hm, hpc x (mem' x hx hm) hm, hpc a' hin ha'.2]
          · simp [hm]
        rw [e, he]
        dsimp only [lowestSubset, List.foldl]
        dsimp only at h
        cases hex : t.exited with
        | cons p r => simp [hex] at h
        | nil =>
          simp only
          rw [if_neg]
          intro hall
          have := List.all_eq_true.mp hall _ hu'
          simp [Subset.atMatrix, Subset.atBarT, Subset.atBarR, hw] at this

/-! ### Issue -/

theorem AlOp.ready_wait {op : AlOp} {s : State} {who : TroupeRef} {t : Troupe} {u : Subset} (h : op.ready s who t u = true) :
    u.wait = .none := by
  simp only [AlOp.ready, Bool.and_eq_true, decide_eq_true_eq] at h
  exact h.1.1.1

theorem AlOp.ready_threads {op : AlOp} {s : State} {who : TroupeRef} {t : Troupe} {u : Subset} (h : op.ready s who t u = true) :
    u.threads ≠ [] := by
  simp only [AlOp.ready, Bool.and_eq_true, Bool.not_eq_true', List.isEmpty_eq_false_iff] at h
  exact h.1.1.2

theorem State.issue_go {s s1 : State} {who : TroupeRef} {op : AlOp} {t : Troupe} {u : Subset} (hn : (op.need t).reasons = [])
    (ht : op.test s who t u (participants t u op.guard) = (s1, .go)) :
    s.issue who t u op = (s1.setTroupe who t).perform who t u op (op.need t) (participants t u op.guard) := by
  unfold State.issue
  simp only [ht, hn, Verdict.reasons, List.append_nil, List.isEmpty_nil, Bool.not_true, Bool.false_eq_true, if_false]

/-- An instruction whose conditions hold and whose tests let it go issues: its slots are counted and its effect happens (R104). -/
theorem State.runOp_perform {s s1 : State} {who : TroupeRef} {op : AlOp} {t : Troupe} {u : Subset} (h : Issuing s who op t u)
    (hm : op.matrix = false) (ht : op.test s who t u (participants t u op.guard) = (s1, .go)) :
    s.runOp who op = (s1.setTroupe who t).perform who t u op (op.need t) (participants t u op.guard) := by
  obtain ⟨t0, h0, h1, h2⟩ := h.resident
  unfold State.runOp
  rw [h0]
  simp only [h1, hm, h2, Bool.not_true, Bool.false_eq_true, if_false]
  exact State.issue_go h.accepted ht

/-- An instruction that a reason of R104 applies to is refused with the smallest reason. -/
theorem State.runOp_refused {s s1 : State} {who : TroupeRef} {op : AlOp} {t t0 : Troupe} {u : Subset} {v : Verdict}
    (h0 : s.troupe? who = some t0) (h1 : s.mayIssue who t0 = true) (h2 : t0.choose (op.ready s who t0) = (t, some u))
    (hm : op.matrix = false) (ht : op.test s who t u (participants t u op.guard) = (s1, v))
    (hr : (op.need t).reasons ++ v.reasons ≠ []) :
    s.runOp who op = (s1.setTroupe who t).troupeFault who t 10
      (minD 0 ((op.need t).reasons ++ v.reasons)) u.pc 0 0 := by
  unfold State.runOp
  rw [h0]
  simp only [h1, hm, h2, Bool.not_true, Bool.false_eq_true, if_false]
  unfold State.issue
  dsimp only
  rw [ht]
  dsimp only
  rw [if_pos (by simp only [List.isEmpty_eq_false_iff.mpr hr, Bool.not_false])]

@[simp] theorem State.slotOf_setTroupe (s : State) (who : TroupeRef) (t : Troupe) : (s.setTroupe who t).slotOf who = s.slotOf who := by
  simp [State.setTroupe, State.modBooth, State.slotOf, Booth.setTroupe]

/-- What moving on changes: the subsets' PCs, the run, the results awaited. -/
theorem Troupe.advance_eq (t : Troupe) (u : Subset) (op : AlOp) (n : Need) (ps : List Nat) (slot : Nat) :
    t.advance u op n ps slot = { t with
      subsets := t.subsets.map (fun x => if x.low = u.low then { u with pc := (u.pc + 8 * op.words) % 2 ^ 57 } else x)
      runCount := t.runCount + 1, lastSlot := slot
      pending := if (op.awaits u n ps).1 ≠ [] ∧ (op.awaits u n ps).2 ≠ [] then
          t.pending ++ [⟨t.nextId, (op.awaits u n ps).1, (op.awaits u n ps).2, false⟩] else t.pending
      nextId := if (op.awaits u n ps).1 ≠ [] ∧ (op.awaits u n ps).2 ≠ [] then t.nextId + 1 else t.nextId } := by
  have add : ∀ (x : Troupe) (regs ths : List Nat), x.addPending regs ths false = { x with
      pending := if regs ≠ [] ∧ ths ≠ [] then x.pending ++ [⟨x.nextId, regs, ths, false⟩] else x.pending
      nextId := if regs ≠ [] ∧ ths ≠ [] then x.nextId + 1 else x.nextId } := by
    intro x regs ths
    unfold Troupe.addPending
    cases regs <;> cases ths <;> simp
  unfold Troupe.advance AlOp.awaits
  dsimp only
  split
  · rw [add]; rfl
  · split
    · rw [add]; rfl
    · simp [Troupe.setSubset]

/-- What an instruction that passed its tests does, from the state in which its troupe has been put back. -/
theorem State.perform_eq (s : State) (who : TroupeRef) (t : Troupe) (u : Subset) (op : AlOp) (n : Need) (ps : List Nat) :
    (s.setTroupe who t).perform who t u op n ps =
      (op.act ((s.setTroupe who t).issued who (t.advance u op n ps (s.slotOf who)) n ((s.setTroupe who t).issueSlots who t op n ps)) who
        (t.advance u op n ps (s.slotOf who)) u ps (s.slotOf who)).checkDiverged who := by
  unfold State.perform
  dsimp only
  have e : (((s.setTroupe who t).ring who.ring.val).booth who.booth.val).slots = s.slotOf who := State.slotOf_setTroupe s who t
  rw [e]
  rfl

/-- An instruction whose effect is on its troupe alone, and leaves it free of divergence, answers one state. -/
theorem State.runOp_troupe {s : State} {who : TroupeRef} {op : AlOp} {t : Troupe} {u : Subset} (h : Issuing s who op t u)
    (hm : op.matrix = false) (ht : op.test s who t u (participants t u op.guard) = (s, .go)) {x : Troupe}
    (ha : ∀ z : State, op.act z who (t.advance u op (op.need t) (participants t u op.guard) (s.slotOf who)) u (participants t u op.guard)
      (s.slotOf who) = z.setTroupe who x)
    (hd : x.diverged? = none) (h1 : x.slot = t.slot) (h2 : x.width = t.width) (h3 : x.ctx = t.ctx) (h4 : x.phase = t.phase) :
    s.runOp who op = s.issued who x (op.need t) (s.costOf who t op (participants t u op.guard)) := by
  obtain ⟨t0, h0, hl, hc⟩ := h.resident
  rw [State.runOp_perform h hm ht]
  unfold State.perform State.costOf
  dsimp only
  have e : (((s.setTroupe who t).ring who.ring.val).booth who.booth.val).slots = s.slotOf who := State.slotOf_setTroupe s who t
  rw [e, ha]
  rw [State.setTroupe_setTroupe, State.takeSlots_setTroupe]
  have hw : (t.advance u op (op.need t) (participants t u op.guard) (s.slotOf who)).slot = x.slot ∧
      (t.advance u op (op.need t) (participants t u op.guard) (s.slotOf who)).width = x.width ∧
      (t.advance u op (op.need t) (participants t u op.guard) (s.slotOf who)).ctx = x.ctx ∧
      (t.advance u op (op.need t) (participants t u op.guard) (s.slotOf who)).phase = x.phase := by
    rw [Troupe.advance_eq]
    exact ⟨h1.symm, h2.symm, h3.symm, h4.symm⟩
  rw [State.takeSlots_congr s who _ x _ _ hw.1 hw.2.1 hw.2.2.1 hw.2.2.2]
  unfold State.checkDiverged
  rw [State.troupe?_setTroupe _ _ _ t0 (by rw [State.troupe?_takeSlots, h0])]
  have hd2 : ({ x with slot := who.slot.val } : Troupe).diverged? = none := hd
  simp only [hd2]
  rfl

/-- The same when the effect leaves the subsets and the exits as they are. -/
theorem State.runOp_pure {s : State} {who : TroupeRef} {op : AlOp} {t : Troupe} {u : Subset} (h : Issuing s who op t u)
    (hm : op.matrix = false) (ht : op.test s who t u (participants t u op.guard) = (s, .go)) (f : Troupe → List Nat → Troupe)
    (ha : op.act = pureAct f) (hf : ∀ x ps, (f x ps).subsets = x.subsets ∧ (f x ps).exited = x.exited ∧ (f x ps).slot = x.slot ∧
      (f x ps).width = x.width ∧ (f x ps).ctx = x.ctx ∧ (f x ps).phase = x.phase) :
    s.runOp who op = s.issued who
      (f (t.advance u op (op.need t) (participants t u op.guard) (s.slotOf who)) (participants t u op.guard)) (op.need t)
      (s.costOf who t op (participants t u op.guard)) := by
  obtain ⟨t0, h0, hl, hc⟩ := h.resident
  obtain ⟨hu, hr, -, -⟩ := Troupe.choose_some hc
  obtain ⟨f1, f2, f3, f4, f5, f6⟩ := hf (t.advance u op (op.need t) (participants t u op.guard) (s.slotOf who)) (participants t u op.guard)
  rw [Troupe.advance_eq] at f1 f2 f3 f4 f5 f6 ⊢
  refine State.runOp_troupe h hm ht (fun z => ?_) ?_ f3 f4 f5 f6
  · rw [ha, Troupe.advance_eq]
    rfl
  · exact Troupe.diverged?_advance hu (AlOp.ready_wait hr) h.converged _ _ f1 f2

/-! ### Matrix instructions -/

theorem Troupe.enterWait_slot (t : Troupe) (low : Nat) (w : Wait) : (t.enterWait low w).slot = t.slot := by
  unfold Troupe.enterWait Troupe.setSubset
  split <;> rfl

/-- A troupe whose threads all wait at one matrix instruction is not diverged. -/
theorem Troupe.matrixReady?_diverged {t : Troupe} {u : Subset} (h : t.matrixReady? = some u) : t.diverged? = none := by
  unfold Troupe.matrixReady? at h
  split at h
  · simp at h
  · rename_i x rest hs
    split at h
    · rename_i hc
      simp only [Bool.and_eq_true, List.all_eq_true, beq_iff_eq] at hc
      have hall : ∀ y ∈ t.subsets, y.atMatrix = true ∧ y.pc = x.pc := by
        intro y hy
        rw [hs] at hy
        rcases List.mem_cons.mp hy with rfl | hy
        · exact ⟨hc.1.1, rfl⟩
        · exact hc.1.2 y hy
      unfold Troupe.diverged?
      split
      · rfl
      · rename_i a ha
        have ham := lowestSubset_mem ha
        simp only [List.mem_filter] at ham
        have e1 : t.subsets.filter (fun u => u.atMatrix && u.pc != a.pc) = [] := by
          rw [List.filter_eq_nil_iff]
          intro y hy
          simp [(hall y hy).2, (hall a ham.1).2]
        have e2 : t.subsets.filter (fun u => u.atBarT || u.atBarR) = [] := by
          rw [List.filter_eq_nil_iff]
          intro y hy
          have := (hall y hy).1
          unfold Subset.atMatrix at this
          unfold Subset.atBarT Subset.atBarR
          split at this
          · rename_i hw
            simp [hw]
          · simp at this
        have e3 : t.exited = [] := List.isEmpty_iff.mp hc.2
        rw [e1, e2, e3]
        simp [lowestSubset]
    · simp at h

/-- A matrix instruction whose conditions hold and whose tests let it go issues once for the troupe (R133). -/
theorem State.runOp_matrix {s s1 : State} {who : TroupeRef} {op : AlOp} {t : Troupe} {u : Subset} (h : MatrixIssuing s who op t u)
    (hm : op.matrix = true) (ht : op.test (s.setTroupe who t) who (t.asOne u) u (participants (t.asOne u) u op.guard) = (s1, .go)) :
    s.runOp who op = (s1.setTroupe who (t.asOne u)).perform who (t.asOne u) u op (op.need (t.asOne u)) (participants (t.asOne u) u op.guard) := by
  obtain ⟨t0, t1, u0, h0, h1, h2, h3⟩ := h.resident
  obtain ⟨hr1, hr2⟩ := h.ready
  have hslot : t.slot = who.slot.val := by
    rw [h3, Troupe.enterWait_slot, (Troupe.choose_some h2).2.2.2, State.troupe?_slot h0]
  have hres : (s.setTroupe who t).troupe? who = some t := by
    rw [State.troupe?_setTroupe _ _ _ _ h0, ← hslot]
  unfold State.runOp
  rw [h0]
  simp only [h1, hm, Bool.not_true, Bool.false_eq_true, if_false, if_true]
  unfold State.runMatrix
  rw [h2]
  dsimp only
  rw [← h3]
  have hd : (s.setTroupe who t).checkDiverged who = s.setTroupe who t := by
    unfold State.checkDiverged
    rw [hres]
    simp only [Troupe.matrixReady?_diverged h.gathered]
  rw [hd]
  unfold State.issueMatrix
  rw [hres]
  simp only [h.gathered, hr1, hr2, Bool.not_false, Bool.and_self, if_true]
  exact State.issue_go h.accepted ht

end Sys2Proof.Machine
end

