-- ==== Sys2Proof/Laws/Registers.lean ====
section
/-!
SUPPORT. What writing a register or a predicate of a troupe does to each register (R50, R73, R482).
-/

namespace Sys2Proof.Machine

/-- Writing one vector register of one thread (R73). -/
theorem Troupe.getV_putV (t : Troupe) (th n a m : Nat) (w : W32) (hm : m < 256) (hn : n < 255) :
    (t.putV th n w).getV a m = if a = th ∧ m = n then w else t.getV a m := by
  unfold Troupe.putV Troupe.getV
  rw [if_neg (by omega)]
  dsimp only
  by_cases h : a = th ∧ m = n
  · obtain ⟨rfl, rfl⟩ := h; simp
  · rw [if_neg h, Assoc.get_put_ne _ _ _ (by omega)]

/-- Writing one uniform register. -/
theorem Troupe.getU_putU (t : Troupe) (n m : Nat) (w : W32) (hn : n < 64) :
    (t.putU n w).getU m = if m = n then w else t.getU m := by
  unfold Troupe.putU Troupe.getU
  dsimp only
  rw [Nat.mod_eq_of_lt hn]
  by_cases h : m = n
  · subst h; simp
  · rw [if_neg h, Assoc.get_put_ne _ _ _ h]

/-- Writing k consecutive vector registers of one thread: each takes its 32-bit part of the value, every other register stays. -/
theorem Troupe.putWords_getV (t : Troupe) (th : Nat) (dst : Byte) (k w : Nat) (hd : dst ≠ 0xFF) (hk : dst.toNat + k ≤ 255) (a m : Nat)
    (hm : m < 256) : (t.putWords false th dst k w).getV a m =
      if a = th ∧ dst.toNat ≤ m ∧ m < dst.toNat + k then BitVec.ofNat 32 (w >>> (32 * (m - dst.toNat))) else t.getV a m := by
  unfold Troupe.putWords
  induction k with
  | zero => simp
  | succ k ih =>
    rw [List.range_succ, List.foldl_append, List.foldl_cons, List.foldl_nil]
    simp only [Bool.false_eq_true, if_false, if_neg hd]
    rw [Troupe.getV_putV _ _ _ _ _ _ hm (by omega)]
    have := ih (by omega)
    simp only [Bool.false_eq_true, if_false, if_neg hd] at this
    rw [this]
    by_cases h : a = th ∧ m = dst.toNat + k
    · obtain ⟨rfl, rfl⟩ := h
      rw [if_pos ⟨rfl, rfl⟩, if_pos ⟨rfl, by omega, by omega⟩]
      congr 3; omega
    · rw [if_neg h]
      by_cases h2 : a = th ∧ dst.toNat ≤ m ∧ m < dst.toNat + k
      · rw [if_pos h2, if_pos ⟨h2.1, h2.2.1, by omega⟩]
      · rw [if_neg h2, if_neg (by omega)]

/-- Writing k consecutive uniform registers. -/
theorem Troupe.putWords_getU (t : Troupe) (th : Nat) (dst : Byte) (k w : Nat) (hk : dst.toNat % 64 + k ≤ 64) (m : Nat) (hm : m < 64) :
    (t.putWords true th dst k w).getU m =
      if dst.toNat % 64 ≤ m ∧ m < dst.toNat % 64 + k then BitVec.ofNat 32 (w >>> (32 * (m - dst.toNat % 64))) else t.getU m := by
  unfold Troupe.putWords
  induction k with
  | zero => simp
  | succ k ih =>
    rw [List.range_succ, List.foldl_append, List.foldl_cons, List.foldl_nil]
    simp only [if_true]
    rw [Troupe.getU_putU _ _ _ _ (by omega)]
    have := ih (by omega)
    simp only [if_true] at this
    rw [this]
    by_cases h : m = dst.toNat % 64 + k
    · subst h
      rw [if_pos rfl, if_pos ⟨by omega, by omega⟩]
      congr 3; omega
    · rw [if_neg h]
      by_cases h2 : dst.toNat % 64 ≤ m ∧ m < dst.toNat % 64 + k
      · rw [if_pos h2, if_pos ⟨h2.1, by omega⟩]
      · rw [if_neg h2, if_neg (by omega)]

/-- Writing registers changes registers alone. -/
theorem Troupe.putWords_keep (t : Troupe) (b : Bool) (th : Nat) (dst : Byte) (k w : Nat) :
    t.putWords b th dst k w = { t with v := (t.putWords b th dst k w).v, u := (t.putWords b th dst k w).u } := by
  unfold Troupe.putWords
  generalize List.range k = l
  induction l generalizing t with
  | nil => rfl
  | cons a l ih =>
    rw [List.foldl_cons]
    dsimp only
    split
    · have := ih (t.putU (dst.toNat % 64 + a) (BitVec.ofNat 32 (w >>> (32 * a))))
      simp only [if_true, *] at this ⊢
      rw [this]; rfl
    · split
      · have := ih t
        simp only [Bool.false_eq_true, if_false, if_true, *] at this ⊢
        rw [this]
      · have := ih (t.putV th (dst.toNat + a) (BitVec.ofNat 32 (w >>> (32 * a))))
        simp only [Bool.false_eq_true, if_false, *] at this ⊢
        rw [this]
        unfold Troupe.putV; split <;> rfl

/-- Writing vector registers leaves the uniform ones. -/
theorem Troupe.putWords_u (t : Troupe) (th : Nat) (dst : Byte) (k w : Nat) : (t.putWords false th dst k w).u = t.u := by
  unfold Troupe.putWords
  generalize List.range k = l
  induction l generalizing t with
  | nil => rfl
  | cons a l ih =>
    rw [List.foldl_cons, ih]
    simp only [Bool.false_eq_true, if_false]
    split
    · rfl
    · unfold Troupe.putV; split <;> rfl

/-- Writing uniform registers leaves the vector ones. -/
theorem Troupe.putWords_v (t : Troupe) (th : Nat) (dst : Byte) (k w : Nat) : (t.putWords true th dst k w).v = t.v := by
  unfold Troupe.putWords
  generalize List.range k = l
  induction l generalizing t with
  | nil => rfl
  | cons a l ih =>
    rw [List.foldl_cons, ih]
    rfl

/-- A vector destination 0xFF discards the result (R73). -/
theorem Troupe.putWords_ff (t : Troupe) (th : Nat) (k w : Nat) : t.putWords false th 0xFF k w = t := by
  unfold Troupe.putWords
  generalize List.range k = l
  induction l with
  | nil => rfl
  | cons a l ih => rw [List.foldl_cons]; exact ih

/-- Writing a predicate of some threads. -/
theorem Troupe.getP_setPred (t : Troupe) (ps : List Nat) (n : Nat) (b : Bool) (th m : Nat) (hn : n < 8) (hm : m < 8) :
      (t.setPred ps n b).getP th m = if th ∈ ps ∧ m = n then b else t.getP th m := by
  unfold Troupe.setPred Troupe.getP
  dsimp only
  generalize t.p = p
  induction ps generalizing p with
  | nil => simp
  | cons a l ih =>
    rw [List.foldl_cons, ih]
    by_cases h1 : th ∈ l ∧ m = n
    · rw [if_pos h1, if_pos ⟨List.mem_cons_of_mem _ h1.1, h1.2⟩]
    · rw [if_neg h1]
      by_cases h2 : th = a
      · subst h2
        simp only [Assoc.get_put_self]
        by_cases h3 : m = n
        · subst h3
          cases b <;> simp [hm]
        · have : ¬ (th ∈ th :: l ∧ m = n) := fun h => h3 h.2
          rw [if_neg this]
          have : ∀ y : Byte, (y ||| 1#8 <<< n).getLsbD m = y.getLsbD m ∧ (y &&& ~~~(1#8 <<< n)).getLsbD m = y.getLsbD m := by
            intro y
            have key : ∀ n < 8, ∀ m < 8, m ≠ n → (1#8 <<< n).getLsbD m = false := by decide
            have e := key n hn m hm h3
            exact ⟨by rw [BitVec.getLsbD_or, e, Bool.or_false],
              by rw [BitVec.getLsbD_and, BitVec.getLsbD_not, e]; simp [hm]⟩
          cases b
          · simpa using (this _).2
          · simpa using (this _).1
      · rw [Assoc.get_put_ne _ _ _ h2]
        have : ¬ (th ∈ a :: l ∧ m = n) := by simp [h2]; simpa using h1
        rw [if_neg this]

end Sys2Proof.Machine
end

