-- ==== Sys2Proof/WellFormed.lean ====
section
/-!
DEFINITION. Which commands are well formed: lists have the length that the part delivers, and numbers lie in the range of what they name.
The machine is total and does not rely on it; it says which commands stand for something that can happen.
-/

namespace Sys2Proof

/-- The beats of one grain that have errors: at most 16, each with distinct symbols 0 to 9 (R208, R220). -/
def beatsWf (l : List (List Nat)) : Bool :=
  decide (l.length ≤ 16) && l.all (fun b => b.all (fun x => decide (x < 10)) && decide b.Nodup)

/-- What can come back with one stored slot or header (R220). -/
def Ecc.wf (e : Ecc) : Bool := beatsWf e.data && beatsWf e.tag && beatsWf e.header

/-- A flit carries at most 244 packet bytes (R267), and its 2,048 bits lie in at most two FEC codewords, of 5,140 data bits each (R261). -/
def Flit.wf (f : Flit) : Bool := decide (f.bytes.length ≤ 244) && decide (f.len.toNat ≤ 244) && decide (f.codewords.length ≤ 2)

/-- A message (R420): the payload has at most 1,024 bytes, and TAG has 32. -/
def Msg.wf (m : Msg) : Bool := decide (m.payload.length ≤ 1024) && m.tag.length == 32

/-- A sample holds one voltage and one current for each of the 15 rails (R385). -/
def RailSample.wf (x : RailSample) : Bool := x.mV.length == 15 && x.mA.length == 15

/-- A control period brings the junctions of 8 tents and the hub (R398, R471). -/
def PeriodSense.wf (x : PeriodSense) : Bool := x.junctionMilliC.length == 9

/-- An ageing measurement (R412): 16 oscillators and 8 monitors. -/
def AgeSense.wf (x : AgeSense) : Bool := x.fNow.length == 16 && x.slackPs.length == 8

/-- A training step that fails is one of the 7 of R236. -/
def TrainResult.wf (x : TrainResult) : Bool :=
  match x with
  | .trained _ _ => true
  | .failed n => decide (1 ≤ n) && decide (n ≤ 7)

/-- Data of the host is one grain of 64 B (R308). -/
def CacheDone.wf (x : CacheDone) : Bool :=
  match x with
  | .data _ bytes _ => bytes.length == 64
  | .written _ => true

/-- Well-formed commands. -/
def Instr.wf (i : Instr) : Bool :=
  match i with
  | .dramGrainReturn _ _ ecc => ecc.wf
  | .hostWrite _ bytes mask _ => bytes.length == 64 && mask.length == 64
  | .bisnpResponse _ dirty => match dirty with | some b => b.length == 64 | none => true
  | .cxlCacheCompletion done => done.wf
  | .dataFlit _ f => f.wf && f.ftype == 1
  | .idleFlit _ f => f.wf && f.ftype == 0
  | .retryReq _ f => f.wf && f.ftype == 2
  | .ident _ _ _ l => decide (l < 48)
  | .swingDrainEnd _ p => decide (p < 16)
  | .meterSample x => x.wf
  | .controlPeriod x => x.wf
  | .thermalTrip n _ => decide (n < 9)
  | .ageingMeasurement _ x => x.wf
  | .channelTrained _ x => x.wf
  | .progressTimeout _ r => decide (r < 4096)
  | .hello _ m | .proof _ m | .dictRead _ m | .dictWrite _ m | .dictClose _ m | .discover _ m | .dictMessage _ m | .capW _ m
  | .fracApply _ m | .learnReset _ m | .refSel _ m | .saveNow _ m | .route _ m | .excludeSet _ m | .excludeClear _ m | .echoTarget _ m
  | .linkEnable _ m | .reEnable _ m | .banksAtCapPeak _ m | .operatorKey _ m | .tenantKey _ m | .mr7Extend _ m | .quoteNonce _ m
  | .fwImage _ m | .manifest _ m | .restart _ m => m.wf
  | _ => true

end Sys2Proof
end

