-- ==== Sys2Proof/Tests/Slice0.lean ====
section
/-!
SUPPORT. The author's own tests: ill-formed commands that the well-formedness checks refuse; for each statement, states and operands that meet
its hypotheses; and a few commands on small states with results taken from the manual.
-/

set_option Elab.async false

namespace Sys2Proof.Tests

open Sys2Proof.Machine

/-! ### Well-formedness -/

/-- A command of each check, and one that the check refuses. -/
theorem test_wf_ecc :
    Ecc.wf { data := [[9, 0]] } = true ∧ Ecc.wf { data := [[10]] } = false ∧ Ecc.wf { tag := [[3, 3]] } = false ∧
    Ecc.wf { header := List.replicate 17 [] } = false := by decide

theorem test_wf_flit :
    Flit.wf { ftype := 1, seq := 0, ack := 0, len := 244, bytes := List.replicate 244 0 } = true ∧
    Flit.wf { ftype := 1, seq := 0, ack := 0, len := 244, bytes := List.replicate 245 0 } = false ∧
    Flit.wf { ftype := 1, seq := 0, ack := 0, len := 245 } = false ∧
    Flit.wf { ftype := 1, seq := 0, ack := 0, codewords := [(0, false), (1, false), (2, false)] } = false ∧
    Instr.wf (.dataFlit 0 { ftype := 1, seq := 0, ack := 0 }) = true ∧ Instr.wf (.dataFlit 0 { ftype := 0, seq := 0, ack := 0 }) = false ∧
    Instr.wf (.idleFlit 0 { ftype := 1, seq := 0, ack := 0 }) = false ∧ Instr.wf (.retryReq 0 { ftype := 1, seq := 0, ack := 0 }) = false := by
  decide +kernel

theorem test_wf_msg :
    Msg.wf { type := 1, cls := 0, tag := List.replicate 32 0 } = true ∧ Msg.wf { type := 1, cls := 0, tag := List.replicate 31 0 } = false ∧
    Msg.wf { type := 1, cls := 0, payload := List.replicate 1025 0, tag := List.replicate 32 0 } = false ∧
    Instr.wf (.hello .mailbox { type := 1, cls := 0 }) = false := by
  decide +kernel

theorem test_wf_samples :
    RailSample.wf { mV := List.replicate 15 0, mA := List.replicate 15 0 } = true ∧ RailSample.wf { mV := List.replicate 15 0, mA := [] } = false ∧
    RailSample.wf { mV := [], mA := List.replicate 15 0 } = false ∧
    PeriodSense.wf { junctionMilliC := List.replicate 9 0 } = true ∧ PeriodSense.wf { junctionMilliC := List.replicate 8 0 } = false := by decide

theorem test_wf_ageing :
    AgeSense.wf { fNow := List.replicate 16 0, slackPs := List.replicate 8 0 } = true ∧
    AgeSense.wf { fNow := List.replicate 15 0, slackPs := List.replicate 8 0 } = false ∧
    AgeSense.wf { fNow := List.replicate 16 0, slackPs := List.replicate 7 0 } = false := by decide

theorem test_wf_train : TrainResult.wf (.failed 7) = true ∧ TrainResult.wf (.failed 8) = false ∧ TrainResult.wf (.failed 0) = false := by decide

theorem test_wf_host :
    CacheDone.wf (.data 0 (List.replicate 64 0) false) = true ∧ CacheDone.wf (.data 0 (List.replicate 63 0) false) = false ∧
    Instr.wf (.hostWrite 0 (List.replicate 64 0) (List.replicate 64 true) false) = true ∧
    Instr.wf (.hostWrite 0 (List.replicate 63 0) (List.replicate 64 true) false) = false ∧
    Instr.wf (.hostWrite 0 (List.replicate 64 0) (List.replicate 63 true) false) = false ∧
    Instr.wf (.bisnpResponse 0 (some (List.replicate 63 0))) = false := by decide +kernel

theorem test_wf_numbers :
    Instr.wf (.ident 0 0 false 47) = true ∧ Instr.wf (.ident 0 0 false 48) = false ∧ Instr.wf (.swingDrainEnd 0 15) = true ∧
    Instr.wf (.swingDrainEnd 0 16) = false ∧ Instr.wf (.thermalTrip 8 0) = true ∧ Instr.wf (.thermalTrip 9 0) = false ∧
    Instr.wf (.progressTimeout ⟨0, 0⟩ 4095) = true ∧ Instr.wf (.progressTimeout ⟨0, 0⟩ 4096) = false := by decide

/-! ### Small states -/

/-- Troupe 0 of booth 0 of ring 0: 32 threads at PC 4096. -/
def troupe : Troupe :=
  { slot := 0, ctx := 0, cmd := ⟨0, 0⟩, group := 0, kernelId := 7, phase := 0, groupIndex := 0, index := 0, width := 32, regs := 64, accUnits := 4
    seed := 0, cleared := true, subsets := [{ threads := List.range 32, pc := 4096, stamp := 0 }] }

/-- It as one subset that runs. -/
def all : Subset := { threads := List.range 32, pc := 4096, stamp := 0 }

def who : TroupeRef := ⟨0, 0, 0⟩

/-- Its ring group, with 64 KiB of scratchpad. -/
def group : RingGroup := { id := 0, cmd := ⟨0, 0⟩, ctx := 0, index := 0, base := 0, size := 65536, cleared := true, live := 1, kernel := (4096, 7) }

/-- A Live context 0 with the troupe `t` resident, and what `f` adds to the ring. -/
def resident (t : Troupe) (f : Ring → Ring) : State :=
  { rings := [(0, f { ctx := some 0, groups := [group], booths := [(0, { troupes := [t] })] })]
    hub := { ctxs := [(0, { keySlot := 1, ptRoot := 0 })] } }

/-- The troupe after the choice of its only subset. -/
def chosen (t : Troupe) : Troupe := { t with running := some 0, runCount := 0 }

/-! ### Witnesses: the instructions of a troupe -/

/-- A subset of the small troupe is chosen and passes for one word of each form. -/
theorem witness_IntegerResults :
    Spec.intRow (.iadd who (.i { dst := 2, srcA := 1, imm := 5 })) = some (who, .i { dst := 2, srcA := 1, imm := 5 }) ∧
    Issuing (resident troupe id) who (opIadd (.i { dst := 2, srcA := 1, imm := 5 })) (chosen troupe) all ∧
    Issuing (resident troupe id) who (opImul (.r { dst := 2, srcA := 1, srcB := 3, sub := 1 })) (chosen troupe) all ∧
    Issuing (resident troupe id) who (opShl (.u { dst := 2, srcA := 1, imm := 5 })) (chosen troupe) all :=
  ⟨rfl, ⟨⟨troupe, rfl, rfl, rfl⟩, rfl, rfl⟩, ⟨⟨troupe, rfl, rfl, rfl⟩, rfl, rfl⟩, ⟨⟨troupe, rfl, rfl, rfl⟩, rfl, rfl⟩⟩

theorem witness_MovesAndPredicates :
    Issuing (resident troupe id) who (opMov (.i { dst := 2, srcA := 0xFF, imm := 5 })) (chosen troupe) all ∧
    Issuing (resident troupe id) who (opSel { dst := 2, srcA := 1, srcB := 3, srcC := 7 }) (chosen troupe) all ∧
    Issuing (resident troupe id) who (opShfl { dst := 2, srcA := 1, srcB := 3 }) (chosen troupe) all ∧
    Issuing (resident troupe id) who (opSetp { dst := 7, srcA := 1, srcB := 3, cond := 5 }) (chosen troupe) all ∧
    Issuing (resident troupe id) who (opVote { dst := 0, srcA := 7, sub := 1 }) (chosen troupe) all ∧
    Issuing (resident troupe id) who (opNfChk { dst := 7, srcA := 3, sub := 1 }) (chosen troupe) all :=
  ⟨⟨⟨troupe, rfl, rfl, rfl⟩, rfl, rfl⟩, ⟨⟨troupe, rfl, rfl, rfl⟩, rfl, rfl⟩, ⟨⟨troupe, rfl, rfl, rfl⟩, rfl, rfl⟩,
    ⟨⟨troupe, rfl, rfl, rfl⟩, rfl, rfl⟩, ⟨⟨troupe, rfl, rfl, rfl⟩, rfl, rfl⟩, ⟨⟨troupe, rfl, rfl, rfl⟩, rfl, rfl⟩⟩

theorem witness_FloatResults :
    Issuing (resident troupe id) who (opFadd (.r { dst := 2, srcA := 1, srcB := 3, type := 7 })) (chosen troupe) all ∧
    Issuing (resident troupe id) who (opTranscend 0x71 { dst := 2, srcA := 1, type := 4 }) (chosen troupe) all :=
  ⟨⟨⟨troupe, rfl, rfl, rfl⟩, rfl, rfl⟩, ⟨⟨troupe, rfl, rfl, rfl⟩, rfl, rfl⟩⟩

/-- The operand 3.0, its reciprocal's bracket, and one of the two results that lie about it. -/
theorem witness_FloatResults_numbers :
    decodeFmt 1 (0x40400000 : W32).toNat = .fin false 12582912 (-22) ∧ 1051372202 ∈ ulpCandidates false (fixRcp 12582912 (-22)) ∧
    ((fixRcp 12582912 (-22)).exact = true → False) := by
  decide +kernel

/-- One instruction that issues and one that is refused for a register at or above REGS_PER_THREAD (reason 3). -/
theorem witness_InstructionIssues :
    Issuing (resident troupe id) who (opIadd (.i { dst := 2, srcA := 1, imm := 5 })) (chosen troupe) all ∧
    (opIadd (.i { dst := 2, srcA := 1, imm := 5 })).test (resident troupe id) who (chosen troupe) all (List.range 32) =
      (resident troupe id, .go) ∧
    troupe.choose ((opIadd (.i { dst := 64, srcA := 1, imm := 5 })).ready (resident troupe id) who troupe) = (chosen troupe, some all) ∧
    ((opIadd (.i { dst := 64, srcA := 1, imm := 5 })).need (chosen troupe)).reasons = [3] :=
  ⟨⟨⟨troupe, rfl, rfl, rfl⟩, rfl, rfl⟩, rfl, rfl, rfl⟩

theorem witness_ControlFlow_split : (chosen troupe).subset? all.low = some all := rfl

theorem witness_ControlFlow_branches :
    Issuing (resident troupe id) who (opBra { imm := 0xFFFFFFF8 }) (chosen troupe) all ∧
    Issuing (resident troupe id) who (opCall { f := { dst := 2, imm := 64 } }) (chosen troupe) all ∧
    Issuing (resident troupe id) who (opRet { srcA := 2 }) (chosen troupe) all ∧ ((chosen troupe).srcPair false 31 2).toNat % 8 = 0 :=
  ⟨⟨⟨troupe, rfl, rfl, rfl⟩, rfl, rfl⟩, ⟨⟨troupe, rfl, rfl, rfl⟩, rfl, rfl⟩, ⟨⟨troupe, rfl, rfl, rfl⟩, rfl, rfl⟩, rfl⟩

theorem witness_ControlFlow_ends :
    Issuing (resident troupe id) who (opExit {}) (chosen troupe) all ∧ Issuing (resident troupe id) who (opBarT {}) (chosen troupe) all ∧
    Issuing (resident troupe id) who (opBarR { g := true }) (chosen troupe) all ∧ (∀ x ∈ (chosen troupe).subsets, x.atMatrix = false) :=
  ⟨⟨⟨troupe, rfl, rfl, rfl⟩, rfl, rfl⟩, ⟨⟨troupe, rfl, rfl, rfl⟩, rfl, rfl⟩, ⟨⟨troupe, rfl, rfl, rfl⟩, rfl, rfl⟩, by decide⟩

/-- The same with turnstile 0 of context 0 and its handle 0. -/
def turnstile : State :=
  { resident troupe id with hub := { (resident troupe id).hub with
      ctxs := [(0, { keySlot := 1, ptRoot := 0, handles := [(0, { remote := false, wait := true, signal := true, turn := 0 })] })]
      turns := [(0, { owner := 0, count := 3, mirror := none, vector := 0 })] } }

theorem witness_FenceAndTurnstiles :
    Issuing turnstile who (opFenceG {}) (chosen troupe) all ∧
    Issuing turnstile who (opTurnSig { handleU := 0, valImm := true, imm := 1 }) (chosen troupe) all ∧
    turnstile.canSignal 0 ((chosen troupe).getU 0) = true ∧
    Issuing turnstile who (opTurnWait { handleU := 0, valImm := true, imm := 4 }) (chosen troupe) all ∧
    turnstile.canWait 0 ((chosen troupe).getU 0) = true ∧ turnstile.waitEnd 0 0 3 = some false ∧ turnstile.waitEnd 0 0 4 = none :=
  ⟨⟨⟨troupe, rfl, rfl, rfl⟩, rfl, rfl⟩, ⟨⟨troupe, rfl, rfl, rfl⟩, rfl, rfl⟩, rfl, ⟨⟨troupe, rfl, rfl, rfl⟩, rfl, rfl⟩, rfl, rfl, rfl⟩

/-- The same with virtual addresses 0 to 1 GiB on device addresses, writable, under key slot 1. -/
def mapped (t : Troupe) : State := { resident t id with tents := [(0, { tlb := [⟨0, 0, 2 ^ 30, 0x0010000000000007⟩] })] }

def ldS : MemForm := { data := 4, base := 1, space := 0, size := 2 }
def ldG : MemForm := { data := 4, base := 2, space := 1, size := 2 }

theorem witness_LoadsAndStores :
    Issuing (resident troupe id) who (opLd ldS) (chosen troupe) all ∧ testScratch (resident troupe id) who (chosen troupe) ldS (List.range 32) = .go ∧
    Issuing (resident troupe id) who (opSt ldS) (chosen troupe) all ∧
    Issuing (mapped troupe) who (opLd ldG) (chosen troupe) all ∧
    testGlobal (mapped troupe) who (chosen troupe) ldG false (List.range 32) = (mapped troupe, .go) ∧
    Issuing (mapped troupe) who (opSt ldG) (chosen troupe) all ∧
    testGlobal (mapped troupe) who (chosen troupe) ldG true (List.range 32) = (mapped troupe, .go) :=
  ⟨⟨⟨troupe, rfl, rfl, rfl⟩, rfl, rfl⟩, by decide, ⟨⟨troupe, rfl, rfl, rfl⟩, rfl, rfl⟩, ⟨⟨troupe, rfl, rfl, rfl⟩, rfl, rfl⟩, by decide,
    ⟨⟨troupe, rfl, rfl, rfl⟩, rfl, rfl⟩, by decide⟩

/-- A line of L1: grain 5, at way 0 of its set. -/
def line : L1Line := { grain := 5, ctx := 0, key := 1, gen := 0, data := [], valid := BitVec.allOnes 64, used := 0 }

/-- A .L line of the same grain, bytes 0 to 31 of which are valid. -/
def lineL : L1Line := { line with loc := some ⟨0, 0⟩, valid := 0xFFFFFFFF }

theorem witness_LineOutcomes :
    ((resident troupe (fun r => { r with l1 := [(40, line)] })).ring 0).l1Find? 5 none = some (40, line) ∧ (0xFF &&& ~~~line.valid) = 0 ∧
    ((resident troupe (fun r => { r with l1 := [(40, line)] })).ring 0).l1Find? 6 none = none ∧
    ((resident troupe (fun r => { r with l1 := [(40, line)] })).ring 0).l1Find? 5 (some ⟨0, 0⟩) = none ∧
    ((resident troupe (fun r => { r with l1 := [(40, lineL)] })).ring 0).l1Find? 5 (some ⟨0, 0⟩) = some (40, lineL) ∧
    (0xFF &&& ~~~lineL.valid) = 0 ∧ (0xFF00000000 &&& ~~~lineL.valid) ≠ 0 := by decide

def atom (g : Bool) : AtomForm := { dst := 4, addr := 2, srcB := 6, global := g, type := 0 }

theorem witness_AtomicsQueue :
    Spec.atomRow (.atomAdd who (atom true)) = some (who, .add, atom true) ∧
    Issuing (resident troupe id) who (opAtom .add (atom false)) (chosen troupe) all ∧
    testAtom (resident troupe id) who (chosen troupe) (atom false) (List.range 32) = (resident troupe id, .go) ∧
    Issuing (mapped troupe) who (opAtom .cas { atom true with srcC := 8 }) (chosen troupe) all ∧
    testAtom (mapped troupe) who (chosen troupe) (atom true) (List.range 32) = (mapped troupe, .go) ∧
    Issuing (mapped troupe) who (opRedAdd { addr := 2, srcB := 6, fmt := 1 }) (chosen troupe) all ∧
    testRed (mapped troupe) who (chosen troupe) { addr := 2, srcB := 6, fmt := 1 } 4 (List.range 32) = (mapped troupe, .go) ∧
    Issuing (mapped troupe) who (opRedFold { addr := 2, fmt := 3 }) (chosen troupe) all :=
  ⟨rfl, ⟨⟨troupe, rfl, rfl, rfl⟩, rfl, rfl⟩, by decide, ⟨⟨troupe, rfl, rfl, rfl⟩, rfl, rfl⟩, by decide,
    ⟨⟨troupe, rfl, rfl, rfl⟩, rfl, rfl⟩, by decide, ⟨⟨troupe, rfl, rfl, rfl⟩, rfl, rfl⟩⟩

theorem witness_CombiningIsSequential :
    (3 : Nat) < 2 ^ (8 * atomWidth 0) ∧ ∀ x ∈ [0xFFFFFFFF, 7], x < 2 ^ (8 * atomWidth 0) := by decide

def cvt : CvtForm := { dst := 4, srcA := 2, srcFmt := 1, dstFmt := 3, rnd := 2, count := 1 }

theorem witness_Conversions :
    Issuing (resident troupe id) who (opCvt cvt) (chosen troupe) all ∧
    (resident troupe id).ctx? (chosen troupe).ctx = some { keySlot := 1, ptRoot := 0 } :=
  ⟨⟨⟨troupe, rfl, rfl, rfl⟩, rfl, rfl⟩, rfl⟩

/-- The small troupe with a DMA.Q of 256 B from device address 0 to scratchpad offset 64 in u0 to u7. -/
def dmaTroupe : Troupe := { troupe with u := [(2, 64), (3, 0x80000000), (4, 256), (6, 0xFFFFFFFF)] }

theorem witness_Requests :
    Issuing (resident dmaTroupe id) who (opDmaQ { srcA := 0, srcC := 3, usel := 4 }) (chosen dmaTroupe) all ∧
    (opDmaQ { srcA := 0, srcC := 3, usel := 4 }).test (resident dmaTroupe id) who (chosen dmaTroupe) all (List.range 32) =
      (resident dmaTroupe id, .go) ∧
    Issuing (resident troupe id) who (opAlloc { dst := 8, srcA := 2, srcC := 3, usel := 4, udst := true }) (chosen troupe) all ∧
    Issuing (resident troupe id) who (opFree { srcA := 2, srcC := 3, usel := 4 }) (chosen troupe) all ∧
    Issuing (resident troupe id) who (opStatW { srcA := 2, srcB := 1, fmt := 1, count := 1 }) (chosen troupe) all :=
  ⟨⟨⟨dmaTroupe, rfl, rfl, rfl⟩, rfl, rfl⟩, by decide, ⟨⟨troupe, rfl, rfl, rfl⟩, rfl, rfl⟩, ⟨⟨troupe, rfl, rfl, rfl⟩, rfl, rfl⟩,
    ⟨⟨troupe, rfl, rfl, rfl⟩, rfl, rfl⟩⟩

/-- An instruction whose GUARD is p1, false for every thread: it issues without a participant. -/
theorem witness_Requests_none :
    Spec.asks (.atomAdd who { atom true with guard := 9 }) = some who ∧
    Issuing (resident troupe id) who (opAtom .add { atom true with guard := 9 }) (chosen troupe) all ∧
    participants (chosen troupe) all (opAtom .add { atom true with guard := 9 }).guard = [] :=
  ⟨rfl, ⟨⟨troupe, rfl, rfl, rfl⟩, rfl, rfl⟩, rfl⟩

/-- The small troupe once its only subset has arrived at a matrix instruction. -/
def gathered : Troupe := (chosen troupe).enterWait 0 .matrix

/-- Ring 0 with a BF16 tile in slot 2. -/
def tiled : State :=
  resident troupe (fun r => { r with wslots := [(2, .tile { fmt := 3, transposed := false, bytes := [], scales := [], scale := 0 })] })

theorem witness_MatrixIssue :
    MatrixIssuing (resident troupe id) who (opMxCfg { afmt := 3, wfmt := 3, passes := 0, scale := 0 }) gathered all ∧
    MatrixIssuing (resident troupe id) who (opMxLdw { slot := 2 }) gathered all ∧
    (opMxLdw { slot := 2 }).test ((resident troupe id).setTroupe who gathered) who (gathered.asOne all) all all.threads =
      ((resident troupe id).setTroupe who gathered, .go) ∧
    MatrixIssuing tiled who (opMxRun { slot := 2, acc := 0, rows := 8 }) gathered all ∧
    (opMxRun { slot := 2, acc := 0, rows := 8 }).test (tiled.setTroupe who gathered) who (gathered.asOne all) all all.threads =
      (tiled.setTroupe who gathered, .go) ∧
    MatrixIssuing (resident troupe id) who (opMxDrn { dfmt := 1, acc := 0, rows := 8 }) gathered all ∧
    (opMxDrn { dfmt := 1, acc := 0, rows := 8 }).test ((resident troupe id).setTroupe who gathered) who (gathered.asOne all) all all.threads =
      ((resident troupe id).setTroupe who gathered, .go) :=
  ⟨⟨⟨troupe, chosen troupe, all, rfl, rfl, rfl, rfl⟩, rfl, ⟨rfl, rfl⟩, rfl⟩, ⟨⟨troupe, chosen troupe, all, rfl, rfl, rfl, rfl⟩, rfl, ⟨rfl, rfl⟩, rfl⟩,
    rfl, ⟨⟨troupe, chosen troupe, all, rfl, rfl, rfl, rfl⟩, rfl, ⟨rfl, rfl⟩, rfl⟩, rfl,
    ⟨⟨troupe, chosen troupe, all, rfl, rfl, rfl, rfl⟩, rfl, ⟨rfl, rfl⟩, rfl⟩, rfl⟩

/-! ### Witnesses: booths, the matrix path -/

/-- The islands of tent 0 Active. -/
def running (s : State) : State := { s with islands := [(0, { st := .active })] }

/-- PWR_BRAKE_N low: level 56. -/
def braked (s : State) : State := { s with inputs := { brake := { filtered := false, last := false } } }

theorem witness_BoothCycle :
    State.reset.ringClock 0 = false ∧ (running State.reset).ringClock 0 = true ∧ Spec.bubbleNow (running State.reset) 0 {} = false ∧
    Spec.bubbleNow (braked (running State.reset)) 0 { phase64 := 1 } = true ∧
    Spec.bubbleNow { running State.reset with yard := { droop := [0] } } 0 {} = true ∧ 0 ∉ State.reset.yard.droop := by decide

/-- The word of IADD v2, v1, 5 (R74, R85): OPCODE 0x21, GUARD 0, REUSE 0, DST 2, SRC_A 1, IMM32 5. -/
def iaddWord : W64 := 0x2100020100000005

/-- An ell whole in a frame of its home bushel, owned by a key slot at a generation, with bytes from its start and zeros behind
them; some of its grains poisoned. -/
def holding (e key gen : Nat) (bs : List Byte) (s : State) (bad : FMap Nat := []) : State :=
  let c : EllCopy := { ell := e, owner := key, gen, data := Mem.writeBytes [] 0 bs, present := 0xFFFF, bad }
  s.modTent (homeTent e) (fun t => { t with frames := Assoc.put t.frames (bushelSet e * 16 + e % 2) ⟨.ells [c], 0⟩ })

/-- The small troupe on a running island, with that word at its PC, in ell 4 of device memory. -/
def program (t : Troupe) : State := running (holding 4 1 1 (leBytes 8 iaddWord.toNat) (mapped t))

theorem witness_SlotChoice :
    (Spec.looks (program troupe) 0 0).2 = [(who, .one (chosen troupe) all (.iadd who (.i { dst := 2, srcA := 1, imm := 5 })))] ∧
    (program { troupe with passedOver := 256 }).ringClock 0 = true ∧
    Spec.bubbleNow (program { troupe with passedOver := 256 }) 0 (((program { troupe with passedOver := 256 }).ring 0).booth 0) = false ∧
    (resident { chosen troupe with runCount := 64 } id).troupe? who = some { chosen troupe with runCount := 64 } ∧
    (chosen troupe).running.bind (chosen troupe).subset? = some all := by decide

/-- A load of one word for thread 0 whose grain has come, and a write with one acknowledgement that has come. -/
def waiting : State :=
  resident { troupe with pending := [⟨0, [4], [0], true⟩] } (fun r => { r with
    loads := [(3, { who, ctx := 0, pend := 0, pc := 4096, reg := 4, size := 4, signed := false, dsts := [⟨0, 5, 8⟩], got := [(5, .data zeroGrain)]
                    l1 := [] })]
    writes := [(4, { who, uid := 0, ctx := 0, cmd := ⟨0, 0⟩, threads := [0], left := 1, acked := 1 })] })

theorem witness_WaitsEnd :
    (∃ t, waiting.troupe? who = some t ∧ ∃ p ∈ t.pending, p.id = 0) ∧
    (∃ o, Assoc.find? (waiting.ring 0).loads 3 = some o ∧ o.atom = false ∧ o.bad = none ∧ o.l1 = [] ∧ o.who = who ∧ o.pend = 0 ∧
      (∀ d ∈ o.dsts, Assoc.find? o.got d.grain = some (.data zeroGrain)) ∧ ∀ p ∈ o.got, p.2 = .data zeroGrain) ∧
    ∃ w, Assoc.find? (waiting.ring 0).writes 4 = some w ∧ w.acked ≠ 0 := by
  refine ⟨⟨_, rfl, ⟨0, [4], [0], true⟩, by decide, rfl⟩, ⟨_, rfl, rfl, rfl, rfl, rfl, rfl, by decide, by decide⟩, ⟨_, rfl, by decide⟩⟩

/-- A troupe and a group before their clears. -/
theorem witness_InitialTroupe :
    (resident { troupe with cleared := false } id).troupe? who = some { troupe with cleared := false } ∧
    (((resident troupe (fun r => { r with groups := [{ group with cleared := false }] })).ring 0).groupCleared troupe) = false ∧
    ((resident troupe (fun r => { r with groups := [{ group with cleared := false }] })).ring 0).groups.find? (fun g => !g.cleared) =
      some { group with cleared := false } ∧ ((resident troupe id).ring 0).scratch.wf = true := by decide

/-- A DISPATCH with its descriptor loaded, one argument word to come from virtual address 8,192. -/
def loading : List W64 := [0x0100000000000000, 0, 0x100000000, 0xFFFFFFFF, 0, 0, 0, 0, 4096, 8192, 0x0000040020000020, 0]

theorem witness_arguments :
    loading.length = 12 ∧ cmdLoaded loading = false ∧ (descOf loading).argVa = 8192 ∧ (descOf loading).argWords = 1 ∧
    (match ((holding 8 1 1 [7, 0, 0, 0] (mapped troupe)).readVa (.cmd ⟨3, 0⟩) 0 0 8192 4).2 with | .ok b => decide (b = [7, 0, 0, 0]) | _ => false) = true := by
  decide +kernel

/-- A DISPATCH of one ring group of one troupe of width 32 to ring 0, at its own row. -/
def dispatchSt : DispatchSt :=
  { desc := { va := 0, entry := 4096, argVa := 0, kernelId := 7, width := 32, regs := 32, troupes := 1, l1 := 1, scratch := 64, accUnits := 0
              argWords := 0, groupsMax := 0 }
    args := [], groups := 1, rings := [0], fixed := true, seed := 0 }

def dispatchCmd : Cmd := { ctx := some 0, words := [], order := 0, st := .running, dispatch := some dispatchSt }

/-- Ring 0 associated with context 0, holding no group, and the DISPATCH in progress. -/
def placing : State :=
  running { resident troupe (fun r => { r with groups := [], booths := [] }) with
    hub := { ctxs := [(0, { keySlot := 1, ptRoot := 0 })], cmds := [(0, dispatchCmd)] } }

theorem witness_PlacementAndClears :
    placing.cmd? ⟨0, 0⟩ = some dispatchCmd ∧ placing.ctxLive 0 = true ∧ placing.ringClock 0 = true ∧ placing.groupFor dispatchSt 0 = some 0 ∧
    (placing.ring 0).ctx = some 0 ∧ (placing.ring 0).groups = [] ∧ placing.indexClash 0 ⟨0, 0⟩ 0 (placing.ring 0) = false ∧
    ((placing.ring 0).scratchFit dispatchSt.desc.scratchBytes dispatchSt.desc.l1Units).isSome = true ∧
    dispatchSt.desc.spread ((List.range 4).map (fun b => ((placing.ring 0).booth b).room)) = some [0] ∧
    (∀ b ∈ placing.boundaries 0, dispatchCmd.accept ≤ b) ∧ (placing.ring 0).openTo 0 = true ∧
    (((resident { troupe with cleared := false } id).ring 0).booth 0).troupes.find? (fun t => !t.cleared) = some { troupe with cleared := false } := by
  decide

/-- The same DISPATCH under free placement; and a ring of another context, with and without a group on it. -/
def free : DispatchSt := { dispatchSt with fixed := false }
def foreign (g : List RingGroup) : State := running (resident troupe (fun r => { r with ctx := some 9, groups := g, booths := [] }))

theorem witness_PlacementAndClears_free :
    placing.groupFor free 0 = some 0 ∧ placing.replayRing 0 ⟨0, 0⟩ 0 0 = none ∧ ((foreign []).ring 0).openTo 0 = true ∧
    ((foreign [group]).ring 0).openTo 0 = false ∧ (((foreign []).passRing 0 0).2 = true) := by
  decide

/-- An atomic of two threads on one scratchpad word in the combiner, a STAT.W at the weighmaster. -/
def comb : CombOp :=
  { who, uid := 0, ctx := 0, cmd := ⟨0, 0⟩, kind := .atom .add 0, global := false, fetch := true, pc := 4096, load := 0, write := 1
    parts := [{ thread := 0, addr := 64, x := 1 }, { thread := 1, addr := 64, x := 2 }] }

def stat : StatReq := { who, ctx := 0, accept := 0, tag := 0, fmt := 1, vals := [0x3F800000] }

theorem witness_QueuesTake :
    ((resident troupe (fun r => { r with combiner := [comb] })).ring 0).combiner = [comb] ∧
    (∃ q ∈ comb.requests, q.parts = comb.parts) ∧
    (({ resident troupe id with tents := [(0, { statq := [stat] })] } : State).tent 0).statq = [stat] ∧
    (resident troupe id).ctx? stat.ctx = some { keySlot := 1, ptRoot := 0 } ∧
    ({ user := .weights, store := false, bytes := 256 } : PortClaim).bytes ≤ 512 - ({ rdUsed := 256 } : Ring).portUsed false ∧
    512 - ({ rdUsed := 300 } : Ring).portUsed false < ({ user := .weights, store := false, bytes := 256 } : PortClaim).bytes := by decide

/-- An MX.LDW of a BF16 tile, an MX.RUN of 8 rows over slot 2, a tile. -/
def ldw : Ldw := { seq := 0, who, uid := 0, ctx := 0, slot := 2, cfg := {}, transposed := false, addr := 0, scaleAddr := 0, pitch := 0 }
def run : MxRunOp :=
  { seq := 1, who, uid := 0, ctx := 0, phase := 0, cfg := {}, slot := 2, acc := 0, rows := 8, start := true, addr := 0, scaleAddr := 0, pitch := 0 }
def tile : Tile := { fmt := 3, transposed := false, bytes := [], scales := [], scale := 0 }

/-- The MX.RUN queued in booth 0, changed by `f`. -/
def feeding (f : Booth → Booth) : State :=
  resident troupe (fun r => { r with wslots := [(2, .tile tile)], booths := [(0, f { troupes := [troupe], mq := [.run run] })] })

/-- Ring 0 with the MX.RUN feeding, the port having served `n` bytes of reads and of writes in this a-cycle. -/
def busyPort (n : Nat) (s : State) : State := s.modRing 0 (fun r => { r with rdUsed := n, wrUsed := n })

/-- An MX.LDW that has its source but the last 256 B, and an MX.RUN of FP32 rows in two passes whose high half has been read. -/
def lateLdw : Ldw := { ldw with got := List.replicate ((ldw.ranges.map (·.2)).foldl (· + ·) 0 - 256) 0 }
def wide (half : Bool) : MxRunOp := { run with cfg := { afmt := 1, wfmt := 1, passes := 2 }, half }

theorem witness_MatrixFront :
    ((resident troupe (fun r => { r with ldq := [ldw] })).ring 0).ldwReady ldw = true ∧
    ((partOf ldw.got.length 256 ldw.ranges).map (·.2)).foldl (· + ·) 0 = 256 ∧ 256 < (ldw.ranges.map (·.2)).foldl (· + ·) 0 ∧
    lateLdw.got.length + 256 = (ldw.ranges.map (·.2)).foldl (· + ·) 0 ∧
    ((resident troupe (fun r => { r with ldq := [ldw] })).ring 0).portHas .weights false = false ∧
    ((resident troupe (fun r => { r with ldq := [ldw], granted := [{ user := .weights, store := false, bytes := 256 }] })).ring 0).portHas
      .weights false = true ∧
    run ∈ ((feeding id).ring 0).booths.flatMap (fun b => if b.2.freeBanks = [] then [] else ((feeding id).ring 0).latchWants b.2) ∧
    (((feeding id).noteLatches 0).ring 0).latchq = [1] ∧ Assoc.find? ((feeding id).ring 0).wslots run.slot = some (.tile tile) ∧
    ((((feeding id).ring 0).booth 0).runs.take 2).find? (fun o => decide (o.rowsRead < o.rows)) = some run ∧
    ((feeding id).ring 0).rowWaits run (run.rowRanges run.rowsRead) = false ∧ ((feeding id).ring 0).roomFor (.feeder 0) false 64 = true ∧
    ((busyPort 500 (feeding id)).ring 0).roomFor (.feeder 0) false 64 = false ∧ run.rowRanges 0 = [(0, 64)] ∧
    (wide true).rowRanges 0 = [(0, 128)] ∧ (wide true).half = true := by decide +kernel

/-- The MX.RUN latched in bank 0 with its row 0 in the row buffer, and a row in the array. -/
def entering : Booth → Booth := fun y => { y with
  mq := [.run { run with bank := some 0, rowsRead := 1 }], latches := [(0, (tile, 1))], feed := [{ seq := 1, row := 0, bytes := [], scales := [] }]
  pipe := [{ seq := 0, uid := 0, ctx := 0, accRow := 0, start := true, prods := [] }] }

theorem witness_ArrayRows :
    0 < (((feeding (fun y => { y with owed := 1 })).ring 0).booth 0).owed ∧ (((feeding entering).ring 0).booth 0).owed = 0 ∧
    (((feeding entering).ring 0).booth 0).runs = [{ run with bank := some 0, rowsRead := 1 }] ∧
    (((feeding entering).ring 0).booth 0).feed.find? (fun f => f.seq == 1 && f.row == 0) = some { seq := 1, row := 0, bytes := [], scales := [] } ∧
    Assoc.find? (((feeding entering).ring 0).booth 0).latches 0 = some (tile, 1) ∧
    (((feeding entering).ring 0).booth 0).unitUnread { run with bank := some 0, rowsRead := 1 } 0 = false ∧
    (((feeding entering).ring 0).booth 0).pipe ≠ [] := by decide

/-- An MX.DRN of 8 rows as FP32, its row 0 read and waiting to be written. -/
def drn : MxDrnOp :=
  { seq := 2, who, uid := 0, ctx := 0, cfg := {}, dfmt := 1, rnd := 0, acc := 0, rows := 8, toRegs := false, rowsum := false, dreg := 255
    scaleExp := 0, addr := 0, rowsumAddr := 0, pitch := 0, pc := 4096, count := 0, seed := 0, kernelId := 7, groupIndex := 0, index := 0
    rowsRead := 1 }

def draining : State := feeding (fun y => { y with mq := [.drn drn], drain := [{ seq := 2, row := 0, bytes := [], rowsum := none }] })

/-- The same MX.DRN before its first row is read. -/
def toDrain : Booth := ((feeding (fun y => { y with mq := [.drn { drn with rowsRead := 0 }] })).ring 0).booth 0

theorem witness_DrainRows :
    (((feeding (fun y => { y with drainHold := true })).ring 0).booth 0).drainHold = true ∧ ((draining.ring 0).booth 0).drainHold = false ∧
    ((draining.ring 0).booth 0).drain ≠ [] ∧ toDrain.drain = [] ∧ toDrain.drainHold = false ∧
    toDrain.drns.find? (fun d => decide (d.rowsRead < d.rows)) = some { drn with rowsRead := 0 } ∧
    toDrain.owner? drn.uid drn.ctx = some troupe ∧ toDrain.unitDone { drn with rowsRead := 0 } 0 = true ∧
    ((draining.ring 0).booth 0).drns.find? (fun d => d.seq == 2) = some drn ∧ drn.rowsWritten + 1 ≠ drn.rows ∧
    (draining.ring 0).drainWaits drn (drn.rowRanges 0) = false ∧ (draining.ring 0).roomFor (.drain 0) true 128 = true ∧
    ((busyPort 400 draining).ring 0).roomFor (.drain 0) true 128 = false ∧ ((drn.rowRanges 0).map (·.2)).foldl (· + ·) 0 = 128 := by decide

/-! ### Witnesses: memory -/

/-- Ell 0 in tent 0, its grain 5 held for key slot 1, generation 1. -/
def copy0 : EllCopy := { ell := 0, owner := 1, gen := 1, present := 0x20 }

/-- A request of ring 0 for that grain. -/
def req (k : ReqKind) : BReq := { ring := 0, ctx := 0, key := 1, gen := 1, ell := 0, grain := 5, kind := k }

/-- A request at the front of bank 0 of tent 0, with what `f` adds to the tent. -/
def asking (q : BReq) (f : Tent → Tent) : State := { resident troupe id with tents := [(0, f { banks := [(0, { queue := [q] })] })] }

/-- The ell in frame 0. -/
def held (t : Tent) : Tent := { t with frames := [(0, { kind := .ells [copy0], used := 0 })] }

/-- A miss register that waits for the ell. -/
def waits : MissReg := { ell := 0, copy := { copy0 with present := 0 }, bypass := false, order := 0, waiters := [req (.load 0 false .frame)] }

theorem witness_misses : Spec.misses (asking (req (.load 0 false .frame)) id) 0 (req (.load 0 false .frame)) := ⟨rfl, Or.inl rfl⟩

theorem witness_atFront :
    Spec.atFront (asking (req (.load 0 false .frame)) held) 0 0 (req (.load 0 false .frame)) ∧
    Spec.atFront (asking (req (.store 1 [(0, 7)] false)) held) 0 0 (req (.store 1 [(0, 7)] false)) ∧
    Spec.atFront (asking (req (.read (.slot 0 0))) held) 0 0 (req (.read (.slot 0 0))) :=
  have load : Spec.atFront (asking (req (.load 0 false .frame)) held) 0 0 (req (.load 0 false .frame)) := ⟨fun _ => rfl, rfl, rfl, rfl, rfl⟩
  have store : Spec.atFront (asking (req (.store 1 [(0, 7)] false)) held) 0 0 (req (.store 1 [(0, 7)] false)) :=
    ⟨fun _ => rfl, rfl, rfl, rfl, rfl⟩
  ⟨load, store, fun _ => rfl, rfl, rfl, rfl, rfl⟩

theorem witness_BankServesRequest :
    Spec.atFront (asking (req (.load 0 false .frame)) held) 0 0 (req (.load 0 false .frame)) ∧
    ((asking (req (.load 0 false .frame)) held).tent 0).copyOf? 0 = some copy0 ∧
    ((asking (req (.load 0 false .frame)) held).tent 0).frameOf? 0 = some 0 ∧ mapBit copy0.present 5 = true ∧ copy0.owned 1 1 = true ∧
    Spec.atFront (asking (req (.store 1 [(0, 7)] false)) held) 0 0 (req (.store 1 [(0, 7)] false)) ∧
    (req (.store 1 [(0, 7)] false)).kind.plain = true ∧ ((asking (req (.store 1 [(0, 7)] false)) held).tent 0).behind 0 0 = false ∧
    (∃ s1, (asking (req (.store 1 [(0, 7)] false)) held).prepare ((asking (req (.store 1 [(0, 7)] false)) held).performReq copy0
      (req (.store 1 [(0, 7)] false))).2 false = (s1, true)) ∧
    ((asking (req (.load 0 false .frame)) id).reserve 0 0).2.isSome = true ∧
    (((asking (req (.load 0 false .frame)) id).reserve 0 0).1.tent 0).freeReg? (req (.load 0 false .frame)) = some 0 ∧
    ((asking (req (.load 0 false .frame)) (fun t => { t with miss := [(0, waits)] })).tent 0).fetching 0 = true ∧
    ((asking (req (.load 0 false .frame)) (fun t => { t with miss := [(0, waits)] })).tent 0).pool (bankKey 0) = .room ∧
    ((asking (req (.load 0 false .frame)) id).tent 0).fetching 0 = false ∧
    Assoc.firstFree ((asking (req (.load 0 false .frame)) id).tent 0).miss 0 4096 = some 0 :=
  ⟨witness_atFront.1, by decide, by decide, by decide, by decide, witness_atFront.2.1, by decide, by decide, ⟨_, rfl⟩, by decide +kernel,
    by decide +kernel, by decide, by decide, by decide, rfl⟩

/-- 512 miss registers on the DRAM bank of ells 0 and 1, all of ell 1. -/
def full (t : Tent) : Tent := { t with miss := (List.range 512).map (fun n => (n, { waits with ell := 1, waiters := [] })) }

set_option maxRecDepth 20000 in
theorem witness_fullBank :
    ((asking (req (.load 0 false .frame)) full).tent 0).bankRegs (bankKey 0) = 512 ∧
    ((asking (req (.load 0 false .frame)) full).tent 0).fetching 0 = false := by decide

/-- A store of bytes, whole-grain or of one byte; a host ell, its request and its copy in frame 0. -/
def whole : List (Nat × Byte) := (List.range 64).map (fun i => (i, 9))
def hostReq (k : ReqKind) : BReq := { req k with ell := hostEll }
def hostHeld (t : Tent) : Tent := { t with frames := [(0, { kind := .ells [{ copy0 with ell := hostEll }], used := 0 })] }

theorem witness_stores :
    ((asking (req (.store 1 whole false)) id).headerCopy 0).owned 1 1 = false ∧ wholeGrain whole = true ∧
    ((asking (req (.store 1 whole false)) id).needHeader [] 0).2 = true ∧
    (((asking (req (.store 1 whole false)) id).needHeader [] 0).1.install ((asking (req (.store 1 whole false)) id).headerCopy 0)).2 = true ∧
    Assoc.find? ((asking (req (.store 1 whole false)) id).headerCopy 0).bad 5 = none ∧
    isHostEll hostEll = true ∧ ((asking (hostReq (.store 1 [(0, 7)] false)) id).tent 0).copyOf? hostEll = none ∧
    ((asking (hostReq (.store 1 [(0, 7)] false)) hostHeld).tent 0).copyOf? hostEll = some { copy0 with ell := hostEll } ∧
    ((asking (hostReq (.store 1 [(0, 7)] false)) hostHeld).tent 0).frameOf? hostEll = some 0 ∧
    Assoc.find? ({ copy0 with bad := [(5, 2)] } : EllCopy).bad 5 = some 2 := by decide +kernel

/-- Waiters of a miss register, and 32 registers of its DRAM bank with their read slot: the pool says wait, or refuse. -/
def crowd (n : Nat) (t : Tent) : Tent := { t with miss := [(0, { waits with waiters := List.replicate n (req (.load 0 false .frame)) })] }
def slotted (n : Nat) (t : Tent) : Tent :=
  { t with miss := (0, { waits with waiters := List.replicate n (req (.load 0 false .frame)), st := .issued }) ::
      (List.range 31).map (fun k => (k + 1, { waits with ell := 1, waiters := [], st := .issued })) }

theorem witness_pool (n : Nat) :
    ((asking (req (.load 0 false .frame)) (crowd n)).tent 0).waiters = n ∧
    ((asking (req (.load 0 false .frame)) (slotted n)).tent 0).waiters = n ∧
    ((asking (req (.load 0 false .frame)) (slotted 28672)).tent 0).bankSlots (bankKey 0) = 32 := by
  refine ⟨?_, ?_, by decide +kernel⟩
  · show 0 + (List.replicate n _).length = n
    rw [List.length_replicate, Nat.zero_add]
  · show List.foldl (· + ·) (0 + (List.replicate n _).length) (List.replicate 31 0) = n
    rw [List.length_replicate, Nat.zero_add]; rfl

/-- Refused requests, each with the place of its first arrival. -/
def again (n : Nat) : Refused := ⟨0, n, { req (.load 0 false .frame) with place := some n }⟩
def resends (l : List Nat) (f : Tent → Tent) : State := asking (req (.load 0 false .frame)) (fun t => f { t with refused := l.map again })

/-- A request behind an earlier one for its ell that waits in the overflow queue, or to be sent again. -/
theorem witness_behind :
    ((asking (req (.load 0 false .frame)) (fun t => { t with banks := [(0, { queue := [req (.load 0 false .frame)], overflow := [req .fold] })] })).tent 0).behind 0 0 =
      true ∧
    ((resends [3] id).tent 0).behind 0 0 = true ∧ (resends [3] id).nextReq? [] [req (.load 0 false .frame)] = some (req (.load 0 false .frame)) := by
  decide +kernel

theorem witness_resend :
    ((resends [3, 4] id).tent 0).refused.find? (fun r => r.num == 3) = some (again 3) ∧ homeTent (again 3).req.ell = 0 ∧
    (∀ x ∈ ((resends [3, 4] id).tent 0).refused, x.bank = (again 3).bank → (again 3).num ≤ x.num) ∧
    ((resends [3, 4] id).tent 0).refused.find? (fun r => r.num == 4) = some (again 4) ∧
    (∃ x ∈ ((resends [3, 4] id).tent 0).refused, x.bank = (again 4).bank ∧ x.num < (again 4).num) ∧
    ((resends [3] id).tent 0).bankRegs (bankKey 0) < 512 ∧ ((resends [3] full).tent 0).bankRegs (bankKey 0) = 512 ∧
    ((resends [3] full).tent 0).fetching 0 = false ∧ ((resends [3] full).tent 0).frameOf? 0 = none := by decide +kernel

/-- A write of ring 0 whose trap waits, with or without its last acknowledgement; an atomic that has been granted the port. -/
def trapping (acked : Nat) : State :=
  resident troupe (fun r => { r with writes := [(4, { who, uid := 0, ctx := 0, cmd := ⟨0, 0⟩, threads := [0], left := 1, acked, trap := some 9 })] })
def granted : State :=
  resident troupe (fun r => { r with satoms := [comb], granted := [⟨.atomic, false, 4, false⟩, ⟨.atomic, true, 4, false⟩] })

/-- Atomics at the front of bank 0 of tent 0, of device and of host memory, their ells held. -/
def atomAsked : State := asking (req (.atom { comb with global := true })) held
def hostAtomAsked : State := asking (hostReq (.atom comb)) hostHeld

theorem witness_AtomicPerformed :
    ((resident troupe (fun r => { r with satoms := [comb] })).ring 0).satoms = [comb] ∧
    ((resident troupe (fun r => { r with satoms := [comb] })).ring 0).portHas .atomic false = false ∧
    (granted.ring 0).satoms = [comb] ∧ (granted.ring 0).portHas .atomic false = true ∧ (granted.ring 0).portHas .atomic true = true ∧
    unrecorded .add 0 comb.fetch = false ∧
    (resident troupe id).forced ((resident troupe id).stepKey 0 ⟨0, 0⟩) (scratchRunKey 0 64) 0 = .go ∧
    (∀ x, (resident troupe id).ctx? 0 = some x → x.nfTrap = false) ∧
    (∃ w, Assoc.find? ((trapping 0).ring 0).writes 4 = some w ∧ w.trap = some 9 ∧ w.acked < w.left) ∧
    (∃ w, Assoc.find? ((trapping 1).ring 0).writes 4 = some w ∧ w.trap = some 9 ∧ w.left ≤ w.acked ∧ w.load = none) ∧
    Spec.atFront atomAsked 0 0 (req (.atom { comb with global := true })) ∧ (req (.atom { comb with global := true })).kind.atomic = true ∧
    copy0.owned 1 1 = true ∧ Assoc.find? copy0.bad 5 = none ∧ copy0.owned 2 1 = false :=
  have front : Spec.atFront atomAsked 0 0 (req (.atom { comb with global := true })) := ⟨fun _ => rfl, rfl, rfl, rfl, rfl⟩
  have early : ∃ w, Assoc.find? ((trapping 0).ring 0).writes 4 = some w ∧ w.trap = some 9 ∧ w.acked < w.left := ⟨_, rfl, rfl, by decide⟩
  have late : ∃ w, Assoc.find? ((trapping 1).ring 0).writes 4 = some w ∧ w.trap = some 9 ∧ w.left ≤ w.acked ∧ w.load = none :=
    ⟨_, rfl, rfl, by decide, rfl⟩
  ⟨rfl, by decide, rfl, by decide, by decide, by decide, by decide, fun x h => by cases h; rfl, early, late, front, rfl, by decide, by decide,
    by decide⟩

theorem witness_hostAtomic : Spec.atFront hostAtomAsked 0 0 (hostReq (.atom comb)) ∧
    (hostAtomAsked.tent 0).copyOf? hostEll = some { copy0 with ell := hostEll } ∧ isHostEll (hostReq (.atom comb)).ell = true :=
  ⟨⟨fun _ => rfl, rfl, rfl, rfl, rfl⟩, by decide, by decide⟩

/-- A RED.ADD of one FP32 value, and the reduction ell of ring 0 for ell 0, with FP32 accumulators. -/
def redAdd : CombOp := { comb with kind := .redAdd 1 false, global := true, parts := [{ thread := 0, addr := 320, x := 0x3F800000 }] }
def redFold : CombOp := { comb with kind := .redFold 15 0, global := true, fetch := false, parts := [{ thread := 0, addr := 0, x := 0 }] }
def redEll : RedEll := { ell := 0, ring := 0, ctx := 0, key := 1, gen := 1, w96 := false }
def reducing (w96 : Bool) (t : Tent) : Tent := { t with frames := [(0, { kind := .red { redEll with w96 }, used := 0 })] }

/-- A frame that a request is releasing already, and the image of ell 0 whole, in frame 1. -/
def releasing (t : Tent) : Tent := { t with frames := [(0, { kind := .red { redEll with st := .releasing }, used := 0 })] }
def image (w96 : Bool) (t : Tent) : Tent :=
  { t with frames := [(0, { kind := .red { redEll with w96 }, used := 0 }), (1, { kind := .ells [{ copy0 with present := 0xFFFF }], used := 0 })] }

/-- A RED.ADD whose fold waits before it; a request of a context that is lost. -/
def folding (t : Tent) : Tent := { reducing false t with refused := [⟨0, 0, req .fold⟩] }

theorem witness_redAdd :
    Spec.atFront (asking (req (.redAdd redAdd)) id) 0 0 (req (.redAdd redAdd)) ∧ (asking (req (.redAdd redAdd)) id).ctxLive 0 = true ∧
    (∃ s1, (asking (req (.redAdd redAdd)) (reducing false)).addRed (req (.redAdd redAdd)) redAdd 1 false = (s1, true)) ∧
    (∃ s1, (asking (req (.redAdd redAdd)) releasing).addRed (req (.redAdd redAdd)) redAdd 1 false = (s1, false) ∧
      (s1.tent 0).chosenHits 0 = []) ∧
    ((asking (req (.redAdd redAdd)) folding).tent 0).foldWaits 0 0 0 = true ∧
    ((asking (req (.redAdd redAdd)) id).tent 0).foldWaits 0 0 0 = false :=
  ⟨⟨fun _ => rfl, rfl, rfl, rfl, rfl⟩, rfl, ⟨_, rfl⟩, ⟨_, rfl, rfl⟩, by decide, by decide⟩

theorem witness_addRed :
    homeTent 0 = 0 ∧ bushelBank 0 = 0 ∧
    ((asking (req (.redAdd redAdd)) (reducing false)).tent 0).redOf? 0 0 = some (0, redEll) ∧ redEll.st = .pinned ∧
    ((asking (req (.redAdd redAdd)) (reducing true)).tent 0).redOf? 0 0 = some (0, { redEll with w96 := true }) ∧
    ((asking (req (.redAdd redAdd)) releasing).tent 0).redOf? 0 0 = some (0, { redEll with st := .releasing }) ∧
    redAdd.parts.map (fun p => addend 1 p.x) = [decodeFmt 1 0x3F800000] ∧
    ((asking (req (.redAdd redAdd)) id).tent 0).redOf? 0 0 = none ∧
    (((asking (req (.redAdd redAdd)) id).tent 0).redFrames (bushelSet 0)).length < 12 ∧
    ((asking (req (.redAdd redAdd)) id).tent 0).free? (bushelSet 0) = some 0 ∧
    ({ asking (req (.redAdd redAdd)) id with hub := {} } : State).ctxLive 0 = false ∧
    ({ asking (req (.redAdd redAdd)) id with hub := {} } : State).nextReq? [] [req (.redAdd redAdd)] = some (req (.redAdd redAdd)) ∧
    ({ asking (req (.redFold redFold)) id with hub := {} } : State).nextReq? [] [req (.redFold redFold)] = some (req (.redFold redFold)) := by
  decide +kernel

/-- A RED.FOLD to W96 at the front: its reduction ell pinned with W96 or FP32 accumulators, the image of ell 0 held or to be fetched. -/
def foldAsked (f : Tent → Tent) : State := asking (req (.redFold redFold)) f
def stored : State := { foldAsked (reducing true) with dram := [(0, { hdr := { owner := 1, gen := 1 } })] }
def wholeCopy : EllCopy := { copy0 with present := 0xFFFF }

/-- The RED.FOLD performed on the image: the frames it needs, and what it leaves. -/
def foldPrepared : State × Bool :=
  let s := (foldAsked (image true)).setRed 0 0 .releasing
  s.prepare (s.performReq wholeCopy (req (.redFold redFold))).2 false
def folded : State × EllCopy := foldPrepared.1.performReq wholeCopy (req (.redFold redFold))

theorem witness_redFold :
    Spec.atFront (foldAsked (image true)) 0 0 (req (.redFold redFold)) ∧ (foldAsked (image true)).ctxLive 0 = true ∧
    Spec.atFront stored 0 0 (req (.redFold redFold)) ∧ Spec.atFront (foldAsked (image false)) 0 0 (req (.redFold redFold)) ∧
    foldPrepared.2 = true ∧
    ((folded.1.putAfter wholeCopy folded.2 false).tent 0).redOf? 0 0 = none :=
  have pinned : Spec.atFront (foldAsked (image true)) 0 0 (req (.redFold redFold)) := ⟨fun _ => rfl, rfl, rfl, rfl, rfl⟩
  have there : Spec.atFront stored 0 0 (req (.redFold redFold)) := ⟨fun _ => rfl, rfl, rfl, rfl, rfl⟩
  have narrow : Spec.atFront (foldAsked (image false)) 0 0 (req (.redFold redFold)) := ⟨fun _ => rfl, rfl, rfl, rfl, rfl⟩
  ⟨pinned, rfl, there, narrow, by decide +kernel, by decide +kernel⟩

theorem witness_foldRed :
    ((foldAsked (image true)).tent 0).pinned? (req (.redFold redFold)) = some { redEll with w96 := true } ∧
    ((foldAsked (image false)).tent 0).pinned? (req (.redFold redFold)) = some redEll ∧
    ((foldAsked (image true)).tent 0).behind 0 0 = false ∧ ((foldAsked (image true)).tent 0).fetching 0 = false ∧
    (((foldAsked (image true)).setRed 0 0 .releasing).tent 0).frameOf? 0 = some 1 ∧
    (((foldAsked (image true)).setRed 0 0 .releasing).tent 0).copyOf? 0 = some wholeCopy ∧ wholeCopy.whole = true ∧ (1 : Nat) ≠ deviceKey ∧
    (stored.tent 0).pinned? (req (.redFold redFold)) = some { redEll with w96 := true } ∧ (stored.tent 0).copyOf? 0 = none ∧
    ((stored.setRed 0 0 .releasing).tent 0).copyOf? 0 = none ∧ (stored.headerCopy 0).owned 1 1 = true ∧
    (stored.tent 0).bankRegs (bankKey 0) < 512 ∧ (stored.tent 0).pool (bankKey 0) = .room ∧ Assoc.firstFree (stored.tent 0).miss 0 4096 = some 0 ∧
    ((foldAsked (releasing)).tent 0).redOf? 0 0 = some (0, { redEll with st := .releasing }) ∧
    ((foldAsked id).tent 0).redOf? 0 0 = none ∧ isHostEll wholeCopy.ell = false := by decide +kernel

/-- A copy whose grain 5 is dirty, whole or with that grain alone; one whose grain 5 is dead and none dirty; and a frame that holds it. -/
def dirtied : EllCopy := { wholeCopy with dirty := 0x20, data := [(320, 7)] }
def died : EllCopy := { wholeCopy with dead := 0x20 }
def framing (c : EllCopy) : State := { State.reset with tents := [(0, { frames := [(0, { kind := .ells [c], used := 0 })] })] }

theorem witness_ReadAfterWriteBack :
    State.reset.unsaved copy0 = false ∧ State.reset.unsaved died = true ∧ died.dirty = 0 ∧ State.reset.unsaved dirtied = true ∧ dirtied.dirty ≠ 0 ∧
    (State.reset.dramEll dirtied.ell).cipher.wf = true ∧ (State.reset.dramEll dirtied.ell).tags.wf = true ∧
    Assoc.find? dirtied.bad 5 = none ∧
    Assoc.find? ((framing dirtied).tent 0).frames 0 = some ⟨.ells [dirtied], 0⟩ ∧ (framing dirtied).lacks dirtied = false ∧
    [dirtied].find? (framing dirtied).unsaved = some dirtied ∧ ((framing dirtied).needHeader [0] 0).2 = true ∧
    (framing { copy0 with dirty := 0x20 }).lacks { copy0 with dirty := 0x20 } = true ∧
    (framing copy0).lacks copy0 = false ∧ (framing copy0).unsaved copy0 = false := by decide +kernel

/-- The header of a whole ell of zeros but for byte 320: one slot, grain 5 alone not zero (R216 to R218). -/
theorem test_storedHeader :
    (Spec.storedHeader dirtied).owner = 1 ∧ (Spec.storedHeader dirtied).gen = 1 ∧ (Spec.storedHeader dirtied).stored = 1 ∧
      (Spec.storedHeader dirtied).zero = 0xFFDF := by decide +kernel
/-- R198: an image of zeros to which W96 zeros are added is not poisoned and holds no non-finite value. -/
theorem test_redFold :
    ((asking (req (.redFold redFold)) (image true)).intoImage { copy0 with present := 0xFFFF } 1 1 (some { redEll with w96 := true }) true
      (some (15, 0))).2.2 = {} := by decide +kernel

/-- Ell 0 in DRAM, all of it stored, the miss register `m` on it, its DRAM bank with the read of that register queued. -/
def fetching (m : MissReg) : State :=
  { State.reset with
    tents := [(0, { miss := [(0, m)] })], chans := [(0, { reads := [(0, [0])] })]
    dram := [(0, { hdr := { owner := 1, gen := 1, stored := 16, zero := 0 } })] }

def hostWaits : MissReg := { waits with ell := hostEll, copy := { copy0 with ell := hostEll, present := 0 }, bypass := true }

theorem witness_FetchesOfElls :
    Assoc.find? ((fetching waits).tent 0).miss 0 = some waits ∧ waits.st = .waiting ∧ ((fetching waits).needHeader [] 0).2 = true ∧
    (∀ x ∈ ((fetching waits).tent 0).miss, x.2.st = .waiting → bankKey x.2.ell = bankKey waits.ell → waits.order ≤ x.2.order) ∧
    ((fetching waits).tent 0).bankSlots (bankKey 0) < 32 ∧ ((fetching waits).tent 0).chanSlots (placeOf 0).channel < 256 ∧
    ((((fetching waits).needHeader [] 0).1).tent 0).frameOf? 0 = none ∧ isHostEll waits.ell = false ∧
    (((fetching waits).needHeader [] 0).1.freeFrame 0 (bushelSet 0) []).2 = some 1 ∧
    ((fetching hostWaits).needHeader [] hostEll).2 = true ∧ isHostEll hostWaits.ell = true ∧ hostWaits.bypass = true ∧
    Assoc.get [] ((fetching { waits with st := .issued }).chan 0).reads 0 = [0] ∧
    0 ∈ (fetching { waits with st := .issued }).readyBanks 0 ∧ 0 ∉ ((fetching { waits with st := .issued }).chan 0).taken ∧
    (fetching waits).toFetch 0 waits = headerItem :: [5, 0, 1, 2, 3, 4, 6, 7, 8, 9, 10, 11, 12, 13, 14, 15] ∧
    waits.waiters.find? (fun q => decide (q.grain < 16) && !waits.copy.has q.grain) = some (req (.load 0 false .frame)) := by
  decide +kernel

/-- Registers with a slot, and with the last one or the header, to return; a channel that has just had its writes, with and without a read. -/
theorem witness_grainsReturn :
    (Assoc.find? ((fetching { waits with st := .returning [5, 0] }).tent 0).miss 0).map (·.st) = some (.returning [5, 0]) ∧
    (Assoc.find? ((fetching { waits with st := .returning [5] }).tent 0).miss 0).map (·.st) = some (.returning [5]) ∧
    (Assoc.find? ((fetching { waits with st := .returning [headerItem] }).tent 0).miss 0).map (·.st) = some (.returning [16]) ∧
    ({ fetching { waits with st := .issued } with chans := [(0, { reads := [(0, [0])], wrote := true })] } : State).readyBanks 0 = [0] ∧
    ({ State.reset with chans := [(0, { wrote := true, writes := [0] })] } : State).readyBanks 0 = [] := by decide +kernel

/-- A channel with 16 corrections at a position and 8 of a row. -/
def worn : State :=
  { State.reset with chans := [(0, { buckets := [(3, [9, 7])], rowCorr := [(⟨1, 0, 44⟩, [3, 5])], remapping := [⟨2, 0, 9⟩] })] }

theorem witness_rows : Spec.sparesOf (worn.chan 0) ⟨1, 0, 44⟩ < 64 ∧
    Spec.sparesOf { worn.chan 0 with remaps := (List.range 64).map (fun n => (⟨1, 0, n⟩, n)) } ⟨1, 0, 44⟩ = 64 ∧
    Assoc.find? ({ erasures := [(0, 3)] } : Chan).erasures 0 = some 3 := by decide

theorem witness_MemoryUpkeep :
    16 ≤ Spec.countOf (worn.chan 0) 0 0 3 ∧ Spec.countOf (worn.chan 0) 0 0 4 < 16 ∧ Assoc.find? (worn.chan 0).erasures 0 = none ∧
    8 ≤ Spec.rowCount (worn.chan 0) ⟨1, 0, 44⟩ ∧ ⟨1, 0, 44⟩ ∉ (worn.chan 0).remapping ∧ Spec.rowCount (worn.chan 0) ⟨1, 0, 45⟩ < 8 ∧
    ⟨2, 0, 9⟩ ∈ (worn.chan 0).remapping := by decide

/-! ### Witnesses: copies, commands -/

/-- A copy of 256 B from virtual address 0 to scratchpad. -/
def copyOp : CopyOp :=
  { ctx := 0, cmd := ⟨0, 0⟩, dmaq := false, phase := 0, src := .va 0, dst := .scratch 0 0 65536 0, len := 256, handle := 0xFFFFFFFF, inc := 0
    order := 4 }

/-- It waits at tent 0, and a DMA.Q waits on ring 0; it runs on engine 0. Ell 0 is held, its grain 0 poisoned or not. -/
def copying (d : List DmaReq) (q : List CopyOp) (e : FMap CopyOp) (bad : FMap Nat := []) : State :=
  holding 0 1 1 [] { mapped troupe with
    rings := [(0, { ctx := some 0, groups := [group], booths := [(0, { troupes := [troupe] })], dmaq := d })]
    tents := [(0, { tlb := [⟨0, 0, 2 ^ 30, 0x0010000000000007⟩], copyq := q, engines := e })] } bad

/-- Its engine has been granted the scratchpad port. -/
def copyGranted (e : FMap CopyOp) (bad : FMap Nat := []) : State :=
  (copying [] [] e bad).modRing 0 (fun r => { r with granted := [⟨.dma 0 0, true, 64, false⟩] })

def dmaReq : DmaReq :=
  { ctx := 0, cmd := ⟨0, 0⟩, base := 0, size := 65536, src := 0, dst := 0x8000000000000000, len := 64, handle := 0xFFFFFFFF, inc := 0, order := 3 }

theorem witness_CopyStart :
    (copying [] [copyOp] []).engine? 0 0 = none ∧ ((copying [] [copyOp] []).tent 0).copyq = [copyOp] ∧
    ((copying [dmaReq] [copyOp] []).ring 0).dmaq = [dmaReq] ∧ dmaReq.order < copyOp.order ∧
    (copying [] [] [(0, copyOp)]).engine? 0 0 = some copyOp ∧ copyOp.part 0 ∉ copyOp.failed ∧ copyOp.stepLen = 64 ∧
    ((copying [] [] [(0, copyOp)]).copyEmit 0 0 false).engine? 0 0 = some copyOp ∧
    ((copyGranted [(0, copyOp)]).copyPorts 0 0 copyOp true 64).2 = true ∧
    ((copying [] [] [(0, copyOp)]).copyPorts 0 0 copyOp true 64).2 = false := by decide +kernel

/-- Grains read and written: held, poisoned, without a translation; a part that has failed. -/
theorem witness_CopyEngines :
    ((copying [] [] [(0, copyOp)]).copyRead 0 copyOp 0 64).2 = .ok zeroGrain ∧
    (match (copying [] [] [(0, copyOp)]).homeRead (.copy 0 4) 1 1 0 with | (_, some (.ok b)) => decide (b = zeroGrain) | _ => false) = true ∧
    (match (copying [] [] [(0, copyOp)] [(0, 2)]).homeRead (.copy 0 4) 1 1 0 with | (_, some (.bad x)) => decide (x = 2) | _ => false) = true ∧
    copyOp.piece 0 = (0, 256) ∧ { copyOp with dst := .va 32 }.piece 0 = (0, 32) ∧ { copyOp with dst := .remote 2 0 0 }.piece 0 = (0, 256) ∧
    (copying [] [] [(0, { copyOp with dst := .va 0, buf := [(0, zeroGrain)] })]).engine? 0 0 =
      some { copyOp with dst := .va 0, buf := [(0, zeroGrain)] } ∧
    ((resident troupe id).translate 0 0 0 true).2 = .held ∧
    ((copying [] [] [(0, copyOp)] [(0, 2)]).copyRead 0 copyOp 0 64).2 = .integrity ∧
    ((copying [] [] [(0, copyOp)]).copyRead 0 { copyOp with src := .va (2 ^ 40) } 0 64).2 = .fault (2 ^ 40) ∧
    ({ copyOp with failed := [0] }.part 0 ∈ { copyOp with failed := [0] }.failed) ∧
    ((copying [] [] []).translate 0 0 0 false).2 = .ok ⟨false, 0, 1⟩ ∧
    (match (copying [] [] []).copyPlan 0 0 0 0 zeroGrain with | (_, .ok [(p, _)]) => decide (p = ⟨false, 0, 1⟩) | _ => false) = true ∧
    ((copying [] [] []).overlapFree copyOp 0 zeroGrain).2 = zeroGrain ∧
    (copying [] [] [(0, { copyOp with src := .remote 2 0 0 })]).engine? 0 0 = some { copyOp with src := .remote 2 0 0 } ∧
    (copying [] [] [(0, { copyOp with done := 256 })]).engine? 0 0 = some { copyOp with done := 256 } ∧
    ((copying [] [] [(0, { copyOp with done := 256 })]).copyEmit 0 0 false).engine? 0 0 = some { copyOp with done := 256 } ∧
    ((copying [] [] [(0, { copyOp with src := .remote 2 0 0 })]).copyEmit 0 0 false).engine? 0 0 = some { copyOp with src := .remote 2 0 0 } ∧
    (placing.cmd? copyOp.cmd).map (·.st) = some .running := by decide +kernel

/-- An ALLOC from a pool that the context does not have. -/
def allocating : State :=
  resident { troupe with pending := [⟨0, [264, 265, 323], [0], true⟩] } (fun r => { r with
    allocs := [(2, { who, ctx := 0, pend := 0, size := 65536, pool := 0, dst := 8, pdst := 3, threads := [0] })] })

theorem witness_allocation :
    (Assoc.find? (allocating.ring 0).allocs 2).map (fun a => (a.ctx, a.pool, a.pend)) = some (0, 0, 0) ∧
    allocating.allocate (.alloc 0 2) 0 0 65536 = (allocating, some none) ∧
    allocating.troupe? who = some { troupe with pending := [⟨0, [264, 265, 323], [0], true⟩] } := by decide

/-- Queue 3 of context 0, its ring of 64 slots in host memory at 4096, of which slot 0 has come. -/
def queue : Queue := { admin := true, ctx := 0, log2 := 6, ring := ⟨true, 4096⟩, cq := ⟨true, 8192⟩, shadow := none }

def queues (k : Queue) : State :=
  { (resident troupe id) with
    hub := { ctxs := [(0, { keySlot := 1, ptRoot := 0 })], queues := [(3, k)], answers := [⟨.slot 3 0, hostGrain + 64, .ok zeroGrain⟩]
             adm := { cfg := 0x106 } }
    boot := { queues := true, cfgSpace := true, memory := true } }

theorem witness_DoorbellsAndRegisters :
    (queues queue).queue? 4 = none ∧ (queues { queue with halted := true }).queue? 3 = some { queue with halted := true } ∧
    (queues queue).queue? 3 = some queue ∧ (queues queue).boot.queues = true ∧ (queues queue).boot.hostLink ≠ .ioOnly ∧
    (queues queue).haltDue 3 = false ∧ (queues { queue with admin := false }).haltDue 3 = false ∧
    (queues { queue with admin := false }).ctxLive 0 = true ∧ 64 < ((65 : W32) - queue.head).toNat ∧
      ((64 : W32) - queue.head).toNat ≤ 2 ^ queue.log2 ∧
    64 * 64 = queue.ring.addr + 64 * (queue.head.toNat % 2 ^ queue.log2) ∧
    (queues queue).hub.answer? (.slot 3 0) (hostGrain + 64) = some (.ok zeroGrain) ∧ zeroGrain.length = 64 ∧ (queues queue).cxlOn = true ∧
    (queues queue).hub.answer? (.slot 3 1) (hostGrain + 65) = none ∧ (queues queue).hub.hostReads = [] ∧ State.reset.boot.cfgSpace = false ∧
    (queues queue).hub.adm.cfg.getLsbD 8 = true ∧
    State.reset.hub.adm.cfg.getLsbD 8 = false ∧ (0x106 : W64).getLsbD 8 = true ∧ (0x106 : W64).toNat % 32 = 6 ∧
    (6 : W64).toNat % 32 = 6 ∧ (0 : W64).toNat % 32 = 0 := by decide

/-- Fetched commands: a NOP-like one of OPCODE 0, a COPY of 16 words. -/
def fetched (n : Nat) (w0 : W64) : FetchedCmd := { count := 0, words := w0 :: List.replicate (n - 1) 0 }

theorem witness_CommandsStart :
    (queues { queue with fetched := [fetched 8 0] }).queueOpen 3 = true ∧ (queues { queue with fetched := [fetched 8 0] }).startable 3 = true ∧
    (queues { queue with fetched := [fetched 8 0] }).hasTurn 3 = true ∧
    (queues { queue with fetched := [fetched 8 0] }).loadFetched 3 = queues { queue with fetched := [fetched 8 0] } ∧
    cmdSerial (fetched 8 0).words = false ∧ (queues queue).hub.cmds.length < 65536 ∧ (queues queue).boot.memory = true ∧
    (queues { queue with admin := false, fetched := [fetched 8 0] }).startable 3 = true ∧
    (queues queue).ctx? 0 = some { keySlot := 1, ptRoot := 0 } ∧ cmdLoaded (fetched 8 0).words = true ∧ (fetched 8 0).bad = none ∧
    (queues { queue with admin := false, fetched := [fetched 8 0] }).stepAllows 0 3 (fetched 8 0).words = true ∧
    (queues queue).hub.journal = [] ∧ (queues queue).hub.replays = [] ∧
    ((fun h : Hub => h.turnsAway 4 < h.turnsAway 3) { turn := 4 }) := by decide +kernel

/-- An entry of the MSI-X table, unmasked by a write while its vector is pending; a device memory that is lost. -/
theorem witness_moreRegisters :
    Assoc.get ({} : MsixEnt) ({ (queues queue).hub with msix := [(7, { masked := true })] } : Hub).msix 7 = { masked := true } ∧
    7 ∈ ({ (queues queue).hub with msixPending := [7] } : Hub).msixPending ∧ (0 : W64).getLsbD 0 = false ∧
    (({ State.reset with boot := { state := 2 } } : State).memoryLost = true) ∧ ((1 : W32) - queue.head).toNat = 1 := by decide

/-- One command of queue 3, count 0, accepted, of OPCODE `op` with `w` behind its first word, over the state `s`. -/
def word0 (op : Nat) : W64 := BitVec.ofNat 64 (op * 2 ^ 56)
def cmd (op : Nat) (w : List W64) : Cmd := { ctx := some 0, words := word0 op :: w, order := 0 }
def ref : CmdRef := ⟨3, 0⟩
def due (s : State) (c : Cmd) : State := { s with hub := { s.hub with cmds := [(cmdKey ref, c)] } }

/-- A finished command of a context, one whose record is performed, one whose signal is done, and an admin one. -/
theorem witness_CommandsComplete :
    (∀ c ∈ [{ cmd 5 [] with st := .finished }, { cmd 5 [] with st := .recording 0 }, { cmd 5 [] with st := .recording 1 }],
      (due (queues queue) c).cmd? ref = some c ∧ (due (queues queue) c).stepWrites ref = false) ∧
    (due (queues queue) { cmd 5 [] with st := .finished }).covered ref { cmd 5 [] with st := .finished } = true ∧
    (due (queues queue) { cmd 5 [] with st := .finished }).queue? 3 = some queue ∧ queue.cq.host = true := by decide

/-- A turnstile with a mirror in host memory, signalled by a command whose record is performed. -/
def mirrored : State :=
  due { turnstile with
    hub := { turnstile.hub with turns := [(0, { owner := 0, count := 3, mirror := some ⟨true, 64⟩, vector := 0 })] }
    boot := { cfgSpace := true, queues := true } }
    { cmd 5 [] with st := .recording 0, handle := 0, inc := 1 }

theorem witness_commandSignals :
    ∀ t, t = (mirrored.setCmd ref { cmd 5 [] with st := .recording 1, handle := 0, inc := 1 }).signalHandle 0 0 0 false 1 false (some ref) →
    t.cmd? ref = some { cmd 5 [] with st := .recording 1, handle := 0, inc := 1 } ∧ t.stepWrites ref = true ∧ mirrored.stepWrites ref = false := by
  intro t ht
  subst ht
  decide

/-- One without a mirror: the handle names it, and its signals are local. -/
theorem witness_commandCount :
    let s := due { turnstile with hub := { turnstile.hub with turns := [(0, { owner := 0, count := 3, mirror := none, vector := 0 })] } }
      { cmd 5 [] with st := .recording 0, handle := 0, inc := 1 }
    (s.handle? 0 0).map (fun e => (e.signal, e.remote, e.turn)) = some (true, false, 0) ∧ (Assoc.find? s.hub.turns 0).map (·.mirror) = some none ∧
    s.stepWrites ref = false := by decide

theorem witness_commandAdmin :
    (due State.reset { cmd 0x80 [] with ctx := none, st := .recording 0 }).cmd? ref = some { cmd 0x80 [] with ctx := none, st := .recording 0 } ∧
    cmdOp (cmd 0x80 []).words ≠ 0x84 ∧ cmdOp (cmd 0x80 []).words ≠ 0x82 := by decide

/-- An object that ALLOC made at virtual address 65,536. -/
def object : Obj := { runs := [(1, 1)], key := 1, ctx := 0, alloc := some (0, 65536), ownHandle := true }

def owning (c : Cmd) : State := due { mapped troupe with hub := { (mapped troupe).hub with objs := [(5, object)] } } c

theorem witness_ContextCommands :
    (∀ op ∈ [1, 2, 4, 5, 9, 10], Spec.dueIn (due (mapped troupe) (cmd op [])) ref op 0 (cmd op [])) ∧
    Spec.dueIn (due (mapped troupe) { cmd 1 [] with dispatch := some dispatchSt }) ref 1 0 { cmd 1 [] with dispatch := some dispatchSt } ∧
    bitN (cmdWord (cmd 2 [0, 0, 64, 8]).words 4) 3 = true ∧ bitN (cmdWord (cmd 2 [0, 0x4000000000000000, 64, 0]).words 2) 62 = true ∧
    (due (mapped troupe) (cmd 2 [0, 4096, 64, 0])).translate 0 0 4096 true = (due (mapped troupe) (cmd 2 [0, 4096, 64, 0]), .ok ⟨false, 4096, 1⟩) ∧
    (owning (cmd 10 [65536])).hub.objs.find? (fun o => o.2.ctx == 0 && o.2.ownHandle && (match o.2.alloc with
        | some (_, a) => a == cmdWord (cmd 10 [65536]).words 1 | none => false)) = some (5, object) ∧
    (due (mapped troupe) (cmd 10 [65536])).hub.objs = [] ∧
    (due (mapped troupe) (cmd 9 [65536, 0, 4096])).copyPlan 0 0 4096 0 (List.replicate 8 0) =
      (due (mapped troupe) (cmd 9 [65536, 0, 4096]), .ok [(⟨false, 4096, 1⟩, (List.range 8).map (·, 0))]) ∧
    (due (mapped troupe) (cmd 9 [65536, 0, 4096])).allocate (.cmd ref) 0 0 65536 = (due (mapped troupe) (cmd 9 [65536, 0, 4096]), some none) ∧
    Assoc.find? ({ keySlot := 1, ptRoot := 0 } : Ctx).pools 0 = none := by
  simp only [Spec.dueIn]
  decide

/-- A context with one tag, its tables at 0, 4,096 and 8,192, the ells of the first and the last of them held. -/
def tagged (c : Cmd) : State :=
  due { holding 0 1 1 [] (holding 8 1 1 [] (mapped troupe)) with hub := { ctxs := [(0, { keySlot := 1, ptRoot := 0, tagCount := 1, tagCfgVa := 0, tagRecVa := 4096, tagDecVa := 8192 })] } } c

set_option maxRecDepth 20000 in
theorem witness_StepCommands :
    (∀ op ∈ [6, 7, 8], Spec.dueIn (due (mapped troupe) (cmd op [])) ref op 0 (cmd op [])) ∧
    (∀ t ∈ (due (mapped troupe) (cmd 6 [3])).tents, t.2.miss = []) ∧
    ((due (mapped troupe) (cmd 8 [4096])).writeVa 0 0 4096
      (((due (mapped troupe) (cmd 8 [4096])).queryWords 0).flatMap (fun w => leBytes 8 w.toNat)) (.command ref)).2 = .ok [] ∧
    ({ due (mapped troupe) (cmd 7 []) with tents := [(0, { statq := [stat] })] } : State).stepQuiet 0 0 = false ∧
    ((due (mapped troupe) (cmd 7 [])).setCmd ref { cmd 7 [] with st := .running }).stepQuiet 0 0 = true ∧
    Spec.dueIn (tagged (cmd 7 [])) ref 7 0 (cmd 7 []) ∧ ((tagged (cmd 7 [])).ctx? 0).map (·.tagCount) = some 1 := by
  simp only [Spec.dueIn]
  decide

/-- A QUERY of a Lost context. -/
def lostQuery : State :=
  due { mapped troupe with hub := { ctxs := [(0, { keySlot := 1, ptRoot := 0, st := .lost, fault := some { code := 9, ctx := 0 } })] } }
    (cmd 8 [4096])

theorem witness_lostQuery :
    lostQuery.cmd? ref = some (cmd 8 [4096]) ∧ cmdOp (cmd 8 [4096]).words = 8 ∧ (lostQuery.ctx? 0).map (·.st) = some .lost ∧
    (lostQuery.writeVa 0 0 4096 ((lostQuery.queryWords 0).flatMap (fun w => leBytes 8 w.toNat)) (.command ref)).2 = .ok [] := by
  decide +kernel

/-- The command of `tagged` as it runs. -/
def ending : State := (tagged (cmd 7 [])).setCmd ref { cmd 7 [] with st := .running }

/-- Its tables planned and read, one after another. -/
def recPlan : State × CopyPut := ending.copyPlan 0 0 4096 0 (List.replicate 192 0)
def decPlan : State × CopyPut := recPlan.1.copyPlan 0 0 8192 0 (List.replicate 8 0)
def cfgRead : State × VaRead × List Nat := decPlan.1.peekVa (.cmd ref) 0 0 0 8

theorem witness_stepTables :
    (match recPlan.2 with | .ok l => decide (l.length = 3) | _ => false) = true ∧
    decPlan.2 = .ok [(⟨false, 8192, 1⟩, (List.range 8).map (·, 0))] ∧
    cfgRead.2.1 = .ok (List.replicate 8 0) ∧ (cfgRead.1.peekVa (.cmd ref) 0 0 8192 8).2.1 = .ok (List.replicate 8 0) ∧
    ending.stepQuiet 0 0 = true := by decide +kernel

/-! ### Witnesses: collectives -/

/-- An ALL_REDUCE of 64 FP32 elements by FP32 sums over a group described at virtual address 0. -/
def collCmd : Cmd := cmd 3 [4096, 65536, 0x0000004001100000, 0]

/-- Two members, ids 0 and 1, this device being rank 0. -/
def groupBytes : List Byte := leBytes 8 (2 * 2 ^ 32) ++ leBytes 8 0 ++ leBytes 4 0 ++ leBytes 4 1
def collecting (b : FMap Nat) (bs : List Byte) : State :=
  due (holding 0 1 1 bs (mapped troupe) b) collCmd

theorem witness_CollectivesStart :
    Spec.collRow (.allReduce ref) = some (ref, 0) ∧ Spec.collDue (collecting [] groupBytes) ref 0 0 collCmd ∧
    ((collecting [] groupBytes).readGroup ref 0 0).2 = .ok 0 0 [(0, false), (1, false)] ∧
    ((collecting [] []).readGroup ref 0 0).2 = .malformed ∧ ((collecting [(0, 2)] groupBytes).readGroup ref 0 0).2 = .integrity ∧
    ((due (holding 0 1 1 [] (resident troupe id)) collCmd).readGroup ref 0 0).2 = .fault 0 ∧ State.reset.net.ownId = 0 ∧
      State.reset.net.ownDom = false ∧
    (due (mapped troupe) { collCmd with st := .running }).cmd? ref = some { collCmd with st := .running } := by
  simp only [Spec.collDue, Spec.dueIn]
  decide +kernel

/-- The collective of that command at this member, its stream to rank 1 granted; rank 1 has sent its own contribution, one packet of 128 B. -/
def coll : Coll :=
  { ref, ctx := 0, words := collCmd.words, key := 0, members := [(0, false), (1, false)], my := 0, seq := 0, grantsIn := [(1, 4)] }

def contribution (k w : Nat) : Packet :=
  { op := 7, vc := 2, dstId := 0, srcId := 1, dstDom := false, srcDom := false, len := 128, addr := BitVec.ofNat 64 (2 ^ 36 + k * 2 ^ 34)
    aux := coll.auxWord + BitVec.ofNat 64 w, payload := List.replicate 128 0 }

def inCollective (c : Coll) (l : List Packet) : State := { collecting [] groupBytes with net := { colls := [c], delivered := l } }

/-- The collective with both contributions to segment 0 of the own shard. -/
def wholeColl : Coll := { coll with recv := [(packetKey 0 0 0 0, List.replicate 128 0), (packetKey 1 0 0 0, List.replicate 128 0)] }

theorem witness_CollectiveSteps :
    (inCollective coll []).coll? ref = some coll ∧ coll.streamLen 0 coll.my 1 = 128 ∧ coll.op = 0 ∧ coll.ended = false ∧
    Assoc.get 0 coll.sent (streamKey 1 0) + Assoc.get 0 coll.sent (streamKey 1 1) + Assoc.get 0 coll.sent (streamKey 1 3) <
      Assoc.get 0 coll.grantsIn 1 ∧
    ((holding 4 1 1 [] (inCollective coll [])).readColl coll (coll.src + coll.srcOff 1) 128).2 = .ok (List.replicate 128 0) 0 ∧
    (inCollective coll [contribution 0 0]).net.nextOf? 7 (fun _ => true) = some (contribution 0 0) ∧
    (inCollective coll [contribution 0 0]).collOf? (contribution 0 0) = some coll ∧ (contribution 0 0).aux = coll.auxWord ∧
    0 < coll.streamLen 0 1 coll.my ∧ (contribution 0 1).aux ≠ coll.auxWord ∧
    (inCollective { coll with seq := 9 } [contribution 2 0]).collOf? (contribution 2 0) = none ∧
    (∀ r < wholeColl.size, wholeColl.whole r 0 0 = true) ∧ wholeColl.esize = 4 ∧ wholeColl.my < wholeColl.size ∧ wholeColl.used = [] ∧
    coll.needs 1 = true ∧ coll.needs 0 = false ∧ coll.members[1]? = some (1, false) := by
  decide +kernel

/-- A norm whose descriptor is refused: its block can be written. A collective by tree; the carousel; one that has ended. -/
def normCmd : Cmd := { cmd 3 [4096, 0, 0x0000004051100000, 0] with cause := 10 }
def treed : Coll := { coll with words := word0 3 :: [4096, 65536, 0x0000004001120000, 0] }
def carousel : Coll := { coll with words := word0 3 :: [4096, 65536, 0x0000004061100000, 0] }

theorem witness_collEnds :
    isNorm normCmd.words = true ∧ Spec.dueIn (due (mapped troupe) normCmd) ref 3 0 normCmd ∧ Spec.field normCmd 3 31 28 = 5 ∧ normCmd.cause ≠ 0 ∧
    isNorm collCmd.words = false ∧ (((due (mapped troupe) normCmd).freeTake 16).1.writeVa 0 0 0 (List.replicate 32 0) (.command ref)).2 = .ok [] ∧
    carousel.op = 6 ∧ (inCollective carousel [{ contribution 0 0 with aux := carousel.auxWord }]).collOf?
      { contribution 0 0 with aux := carousel.auxWord } = some carousel ∧
    (inCollective { coll with ended := true } [contribution 0 0]).collOf? (contribution 0 0) = some { coll with ended := true } ∧
    ((holding 4 1 1 [] (inCollective { coll with grantsOut := [(0, 2)] } [])).segSource { coll with grantsOut := [(0, 2)] } 0 0 0).2 = .ok (List.replicate 128 0) 0 := by
  simp only [Spec.dueIn]
  decide +kernel

/-- Two members: the tree has one level, of one sum. -/
theorem witness_tree :
    treed.tree = true ∧ treed.arith = 1 ∧ treed.size = 2 ∧
    ∀ (add : FVal → FVal → FVal) (a b : FVal), ∃ level : Nat → List FVal, level 0 = [a, b] ∧
      (∀ k, Spec.treeLevel add (level k) (level (k + 1))) ∧ level 1 = [add a b] := by
  refine ⟨by decide, by decide, by decide, fun add a b => ⟨fun k => if k = 0 then [a, b] else [add a b], rfl, fun k => ?_, rfl⟩⟩
  cases k with
  | zero =>
    refine ⟨by simp, fun i h => ?_⟩
    have : i = 0 := by simpa using h
    subst this
    rfl
  | succ k =>
    refine ⟨by simp, fun i h => ?_⟩
    have : i = 0 := by simpa using h
    subst this
    rfl

/-! ### Witnesses: swings and journals, the admin commands -/

/-- A swing pair 2 of buffers at 0 and 65,536 of 65,536 B, and a complete step 7 in the journal. -/
def pair : SwingPair := { a := 0, b := 65536, len := 65536 }
def step7 : JrnStep := { ctx := 0, step := 7, seed := 0, tags := [], complete := true }
def swinging (p : SwingPair) (c : Cmd) : State :=
  due { mapped troupe with hub := { ctxs := [(0, { keySlot := 1, ptRoot := 0, swings := [(2, p)] })], journal := [step7] } } c

/-- SWING with OP in bits [63:60] and the pair in [59:56] of word 1. -/
def swing (op : Nat) (w : List W64) : Cmd := cmd 11 (BitVec.ofNat 64 (op * 2 ^ 60 + 2 * 2 ^ 56) :: w)

theorem witness_SwingsAndJournals :
    Spec.dueIn (swinging pair (swing 2 [])) ref 11 0 (swing 2 []) ∧ Spec.field (swing 2 []) 1 63 60 = 2 ∧
    Spec.field (swing 2 []) 1 59 56 = 2 ∧ ((swinging pair (swing 2 [])).swing? 0 2) = some pair ∧
    Spec.field (swing 0 [131072, 196608, 65536]) 1 63 60 = 0 ∧ copyAddrOk (cmdWord (swing 1 [0, 131072, 0]).words 3) = true ∧
    (swinging pair (swing 3 [4096, 0, 4096, 0, 0, 7])).hub.heldStep? 0 7 = some step7 ∧ step7.blocks = 1 ∧
    (∀ y ∈ (swinging pair (swing 1 [])).hub.cmds, y.2.ctx = some 0 → (swing 1 []).accept ≤ y.2.accept) ∧
    (∀ t ∈ (swinging { pair with drain := some ref, stage := 2 } { swing 1 [] with st := .running }).tents, t.2.copyq = [] ∧ t.2.engines = []) ∧
    (swinging { pair with drain := some ref, stage := 2 } { swing 1 [] with st := .running }).covered ref { swing 1 [] with st := .running } =
      true := by
  simp only [Spec.dueIn]
  decide +kernel

/-- The trailer of a drain whose copies are done can be written: no write to its ells is under way. -/
def trailing (stage : Nat) : State := swinging { pair with drain := some ref, stage } { swing 1 [0, 131072] with st := .running }

theorem witness_trailer :
    ((trailing 0).trailerReady 0 (cmdWord (swing 1 [0, 131072]).words 3) 65536 64).2 = some true ∧
    ((trailing 1).trailerReady 0 (cmdWord (swing 1 [0, 131072]).words 3) (65536 + 24) 8).2 = some true ∧
    (∀ t ∈ (swinging pair (swing 1 [])).tents, t.2.miss = []) := by decide +kernel

/-- FLIP finds the plan of its buffer; JOURNAL_EXPORT and DIGEST can write and read their ranges. -/
theorem witness_flipPlan :
    (match ((swinging pair (swing 1 [])).flipPlan 0 2 0 65536).2 with
      | .ok m => decide (m.length = 64) && !((swinging pair (swing 1 [])).flipPlan 0 2 0 65536).1.hub.drainClash 0 2 m &&
          (List.range 32).all (fun ch => decide (bitsOn m ch ≤ 16777216))
      | _ => false) = true := by
  decide +kernel

theorem witness_exports :
    (match ((swinging pair (swing 3 [])).copyPlan 0 0 4096 0 (List.replicate 4096 0)).2 with | .ok _ => true | _ => false) = true ∧
    (match ((swinging pair (cmd 12 [0, 64, 6, 4096])).copyPlan 0 0 4096 0 (List.replicate 32 0)).2 with | .ok _ => true | _ => false) =
      true := by
  decide +kernel

theorem witness_scan :
    ((holding 0 1 1 [] (swinging pair (cmd 12 [0, 64, 6, 4096]))).scanVa (.cmd ref) 0 0 64).2 = .ok (List.replicate 64 0) [] := by
  decide +kernel

/-- An image of one block at virtual address 0. -/
def imaged : State :=
  holding 0 1 1 (List.replicate 32 0 ++ leBytes 8 1) ([1, 2, 3].foldl (fun s e => holding e 1 1 [] s) (swinging pair (swing 4 [0, 0, 4096, 0, 0, 7])))

theorem witness_import :
    (match (imaged.peekVa (.cmd ref) 0 0 0 256).2.1 with | .ok head => decide (entryOf head 4 = 1) | _ => false) = true ∧
    (match ((imaged.peekVa (.cmd ref) 0 0 0 256).1.readVa (.cmd ref) 0 0 0 4096).2 with | .ok _ => true | _ => false) = true := by
  decide +kernel

/-- An admin command. -/
def admin (op : Nat) (w : List W64) : Cmd := { cmd op w with ctx := none }

/-- Context 0 torn down, its key slot 1 Live, and nothing of it left. -/
def tearing : State :=
  { State.reset with hub := { ctxs := [(0, { st := .tearing, keySlot := 1, ptRoot := 0 })], keySlots := [(1, { st := .live, gen := 1, ceiling := 9 })]
                              teardowns := [(ref, 0)] } }

/-- A context with one tag just created: its table lies in an ell that is held and another's. -/
def created : State :=
  (({ holding 0 9 9 [] (mapped troupe) with hub := {} } : State).setKeySlot 1 { st := .live, gen := 0, ceiling := 9 }).setCtx 0
    { keySlot := 1, ptRoot := 0, tagCount := 1, tagCfgVa := 0, seed := mix 1 }

theorem witness_create : (created.readVa (.cmd ref) 0 0 0 8).2 = .ok (List.replicate 8 0) ∧
  (newCtx (admin 0x80 [0, 0x0001000000000000]).words).tagCount = 1 := by
  decide +kernel

theorem witness_ContextsAndQueues :
    (∀ op ∈ [0x80, 0x81, 0x82, 0x83, 0x84, 0x85], Spec.dueAdmin (due (queues queue) (admin op [])) ref op (admin op [])) ∧
    (due (queues queue) (admin 0x80 [])).ctx? 0 ≠ none ∧ (due State.reset (admin 0x80 [])).ctx? 0 = none ∧
    ((due State.reset (admin 0x80 [])).hub.keySlot (newCtx (admin 0x80 []).words).keySlot).st = .free ∧
    (newCtx (admin 0x80 []).words).tagCount = 0 ∧ (due State.reset (admin 0x80 [])).hub.tagsUsed ≤ 8192 ∧
    ((due State.reset (admin 0x80 [])).hub.keySlot 0).gen < ((due State.reset (admin 0x80 [])).hub.keySlot 0).ceiling ∧
    ({ State.reset with hub := { slotGen := 5, slotCeil := 5 } } : State).hub.keySlot 0 = { gen := 5, ceiling := 5 } ∧
    (tearing.ctx? 0).map (·.st) = some .tearing ∧ tearing.ctxBusy 0 = false ∧ tearing.hub.filter = [] ∧
    tearing.hub.teardowns.filter (fun d => d.2 == 0) = [(ref, 0)] ∧
    (queues queue).queue? 3 = some queue ∧ queue.fetched = [] ∧
    ((due (queues queue) (admin 0x84 [0x0040000000000000])).setCmd ref { admin 0x84 [0x0040000000000000] with st := .running }).cmdsOf 4 = [] := by
  simp only [Spec.dueAdmin]
  decide +kernel

theorem witness_TurnstileCommands :
    (∀ op ∈ [0x86, 0x87, 0x88, 0x89], Spec.dueAdmin (due turnstile (admin op [])) ref op (admin op [])) ∧
    (turnstile.ctx? 0).isSome = true ∧ Assoc.find? turnstile.hub.turns 0 = some { owner := 0, count := 3, mirror := none, vector := 0 } ∧
    Assoc.find? turnstile.hub.turns 1 = none ∧ bitN (cmdWord (admin 0x88 [0, 1]).words 2) 0 = true ∧
    bitN (cmdWord (admin 0x88 [0, 0]).words 2) 0 = false := by
  simp only [Spec.dueAdmin]
  decide +kernel

/-- Object 5 with its last reference dropped, a pool, a window and a host window. -/
def objects (c : Cmd) : State :=
  due { mapped troupe with hub := {
      ctxs := [(0, { keySlot := 1, ptRoot := 0, pools := [(0, { base := 0, len := 2 ^ 30, free := [] })] })]
      objs := [(5, { runs := [(1, 1)], key := 1, ctx := 0, handles := 0, dropped := some 0 }), (6, { runs := [(2, 1)], key := 1, ctx := 0 })]
      windows := [(3, { ctx := 0, base := 0, len := 65536, read := true, write := true, atomic := true, source := none })]
      hostWindows := [(2, { base := 0, len := 2097152, key := 1, readOnly := false })] } } c

/-- The host holds a grain of host window 2. -/
def snooped : State := (objects (admin 0x91 [])).modHub (fun h => { h with filter := [⟨0, 1, 0, true⟩] })

theorem witness_ObjectsAndWindows :
    (∀ op ∈ [0x8A, 0x8B, 0x8C, 0x8D, 0x8E, 0x8F, 0x90, 0x91], Spec.dueAdmin (objects (admin op [])) ref op (admin op [])) ∧
    (Assoc.find? (objects (admin 0x8B [])).hub.objs 6).map (fun o => (o.handles, o.mappings, o.mapped)) = some (1, [], []) ∧
    (objects (admin 0x8B [])).ctxLive 0 = true ∧
    (Assoc.find? (objects (admin 0x8B [])).hub.objs 5).map (fun o => (o.dropped, o.count)) = some (some 0, 0) ∧
    (objects (admin 0x8B [])).retired { runs := [(1, 1)], key := 1, ctx := 0, handles := 0, dropped := some 0 } 0 = true ∧
    (due (mapped troupe) (cmd 2 [])).retired { runs := [(1, 1)], key := 1, ctx := 0, handles := 0, mapped := [0], dropped := some 3 } 3 = false ∧
    ((objects (admin 0x8C [])).ctx? 0).isSome = true ∧ Assoc.find? (objects (admin 0x8F [])).hub.windows 4 = none ∧
    ((objects (admin 0x8F [])).objsOver 0 131072 1).2 = some [6] ∧
    (objects (admin 0x91 [])).hub.hostWindowOk 4 { base := 2097152, len := 2097152, key := 1, readOnly := true } = true ∧
    (objects (admin 0x91 [])).hub.filter = [] ∧
      (snooped.hub.filter.filter (fun e => decide (0 ≤ 64 * e.grain) && decide (64 * e.grain < 2097152))) ≠ [] ∧
    snooped.hub.hostWindowOk 2 { base := 0, len := 4194304, key := 1, readOnly := false } = true ∧
    ((objects (admin 0x8C [])).ctx? 0).map (fun x => Assoc.find? x.pools 1) = some none ∧
      bitN (cmdWord (admin 0x91 [0x8000000000000004]).words 1) 63 = true := by
  simp only [Spec.dueAdmin]
  decide +kernel

/-- A context to be lost: queue 3 with one command fetched, a running COPY that waits for an engine, a running DISPATCH, a handle that signals,
a DMA.Q not started. -/
def losing (c : Cmd) : State :=
  due { copying [dmaReq] [] [] with hub := { turnstile.hub with
    queues := [(3, { queue with admin := false, fetched := [fetched 8 0] })] } } { c with st := .running }

theorem witness_ContextLoss :
    ((losing (cmd 1 [])).ctx? 0).map (·.st) = some .live ∧
    (losing (cmd 1 [])).queue? 3 = some { queue with admin := false, fetched := [fetched 8 0] } ∧
    [fetched 8 0].Pairwise (fun a b => a.count ≠ b.count) ∧ Assoc.sortedFrom 0 ((losing (cmd 1 [])).ring 0).booths = true ∧
    ((losing (cmd 1 [])).handle? 0 0).map (fun e => (e.signal, e.remote)) = some (true, false) ∧
    Assoc.sortedFrom 0 (losing (cmd 1 [])).hub.turns = true ∧ (∀ p ∈ (losing (cmd 1 [])).hub.turns, p.2.mirror = none) ∧
    (∀ x, (losing (cmd 1 [])).ctx? 0 = some x → ∀ h ∈ x.handles, h.2.remote = false) ∧
    Assoc.sortedFrom 0 (objects (cmd 1 [])).hub.windows = true ∧ Assoc.find? (objects (cmd 1 [])).hub.objs 6 ≠ none := by
  refine ⟨by decide, by decide, by decide, by decide, by decide, by decide, by decide, fun x h => ?_, by decide, by decide⟩
  cases h
  decide

/-- The same without rings and without queues of the context. -/
theorem witness_lossSteps :
    let s : State := { due turnstile { cmd 2 [] with st := .running } with rings := [], tents := [(0, { copyq := [{ copyOp with cmd := ref }] })] }
    s.rings = [] ∧ s.hub.queues = [] ∧ Assoc.sortedFrom 0 s.hub.cmds = true ∧ (∀ p ∈ s.hub.cmds, cmdKey (refOfKey p.1) = p.1) ∧
    s.cmd? ref = some { cmd 2 [] with st := .running } ∧ (∃ p ∈ s.tents, ∃ o ∈ p.2.copyq, o.ctx = 0 ∧ o.swing = none ∧ o.cmd = ref) := by decide

/-! ### Witnesses: the host port -/

/-- Configuration space answers; host window 0 over the first 2 MiB under key slot 1, window 1 read-only above it. -/
def hosted : State :=
  { mapped troupe with boot := { State.reset.boot with cfgSpace := true }
                       hub := { ctxs := [(0, { keySlot := 1, ptRoot := 0 })]
                                hostWindows := [(0, { base := 0, len := 2097152, key := 1, readOnly := false }),
                                                (1, { base := 2097152, len := 2097152, key := 1, readOnly := true })] } }

def bytes64 : List (Nat × Byte) := (List.range 64).map (fun i => (i, 1))

/-- The host holds grain 0 exclusively, and a snoop for it is out. -/
def snooping : State := hosted.modHub (fun h => { h with filter := [⟨0, 1, 0, true⟩], snoops := [⟨0, true⟩] })

theorem witness_HostAccesses :
    hosted.cxlOn = true ∧ hosted.hub.hostReqs = [] ∧ State.reset.cxlOn = false ∧
    hosted.hub.hostWindow? 4194304 = none ∧ hosted.hub.hostWindow? 4194303 = some { base := 2097152, len := 2097152, key := 1, readOnly := true } ∧
    hosted.hub.hostWindow? 2097151 = some { base := 0, len := 2097152, key := 1, readOnly := false } ∧
    hosted.hub.entry? 32767 = none ∧ hosted.hub.filter.length < 1048576 ∧
    (∀ w ∈ hosted.hub.hostWindows, 4194304 < w.2.base ∨ w.2.base + w.2.len ≤ 4194304) ∧
    hosted.hub.filter.length + hosted.filterComing < 1048576 ∧ wholeGrain bytes64 = true ∧ wholeGrain [(0, 1)] = false ∧
    Assoc.find? snooping.hub.drainMap 0 = none ∧ snooping.hub.backPending 0 = false ∧
    (hosted.putBack 1 0 0 bytes64).2 = true ∧ (Assoc.find? hosted.hub.hostWindows 1).map (·.readOnly) = some true ∧
    ((hosted.modTent 0 (fun t => { t with miss := [(0, waits)] })).tent 0).fetching 0 = true ∧
    isHostEll (agentReq 1 0 0 (.write .host bytes64)).ell = false ∧ hosted.memoryFailed = false ∧
    snooping.hub.snoops.find? (fun x => x.grain == 0) = some ⟨0, true⟩ ∧ snooping.hub.entry? 0 = some ⟨0, 1, 0, true⟩ ∧
    (snooping.putBack 1 0 0 bytes64).2 = true ∧
    (snooping.modHub (fun h => { h with hostWrites := [⟨0, bytes64, .host, some (1, 0)⟩] })).hub.backPending 0 = true ∧
    hosted.hub.snoops.all (fun x => x.grain != 0) = true ∧
    snooping.hub.hostWindow? 0 = some { base := 0, len := 2097152, key := 1, readOnly := false } ∧ (∃ x ∈ snooping.hub.snoops, x.grain = 0 / 64) ∧
    2048 < Config.dpaLimit := by
  decide +kernel

/-- A full filter in which grain 5 is listed and grain 0 is not. -/
def filterFull : State := hosted.modHub (fun h => { h with filter := List.replicate 1048576 ⟨5, 1, 0, false⟩ })

theorem witness_filterFull :
    filterFull.hub.entry? 0 = none ∧ filterFull.hub.filter = ⟨5, 1, 0, false⟩ :: List.replicate 1048575 ⟨5, 1, 0, false⟩ ∧
    1048576 ≤ filterFull.hub.filter.length := by
  refine ⟨?_, List.replicate_succ, ?_⟩
  · simp [-List.reduceReplicate, filterFull, hosted, State.modHub, Hub.entry?]
  · simp [-List.reduceReplicate, filterFull, hosted, State.modHub]

/-- An access behind an earlier one, a read of a poisoned grain, host grains awaited and written. -/
theorem witness_hostWaits :
    (∃ x ∈ (hosted.modHub (fun h => { h with hostReqs := [.read 64 .shared 0] })).hub.hostReqs, x.grain = 127 / 64) ∧
    (∀ r ∈ [⟨hostGrain + 3, none⟩, ⟨hostGrain + 3, some (.slot 3 0)⟩], (hosted.modHub (fun h => { h with hostReads := [r] })).hub.hostReads.find?
      (fun x => x.grain == hostGrain + 3) = some r) ∧
    (hosted.modHub (fun h => { h with hostWrites := [⟨hostGrain + 3, bytes64, .none, none⟩] })).hub.hostWrites.find?
      (fun w => w.grain == hostGrain + 3 && w.own.isNone) = some ⟨hostGrain + 3, bytes64, .none, none⟩ ∧
    hosted.hub.hostWrites.find? (fun w => w.grain == hostGrain + 3 && w.own.isNone) = none ∧ hosted.hub.hostReads = [] := by
  decide

theorem witness_SnoopTimeout :
    (∃ x ∈ snooping.hub.snoops, x.grain = 0) ∧ (∀ x ∈ snooping.hub.snoops, x.grain ≠ 1) ∧ snooping.hub.ctxs.length = 1 := by decide

/-! ### Witnesses: links -/

/-- An Up link 2 as `f` leaves it, with full credits. -/
def upLink : Link := { st := .up, credits := [(0, 64), (1, 64), (2, 64), (3, 64)] }
def linked (k : Link) : State := { State.reset with net := { links := [(2, k)] } }

/-- Packets: a WRITE of 3 bytes, a READ, an ECHO to this device, a response. -/
def packetW : Packet := { op := 1, vc := 0, dstId := 7, srcId := 0, dstDom := false, srcDom := false, len := 3, payload := [1, 2, 3] }
def packetR : Packet := { op := 0, vc := 0, dstId := 7, srcId := 0, dstDom := false, srcDom := false, len := 4096 }
def packetAck : Packet := { op := 5, vc := 1, dstId := 7, srcId := 0, dstDom := false, srcDom := false }
def packetIdent : Packet := { op := 8, vc := 3, dstId := 7, srcId := 0, dstDom := false, srcDom := false, addr := 1 }

theorem witness_FlitsOnLinks_send :
    (linked {}).net.links = [(2, {})] ∧ (Assoc.get {} (linked {}).net.links 3).st ≠ .up ∧
    (∀ k ∈ [upLink, { upLink with retryDue := true }, { upLink with resend := [{ ftype := 1, seq := 1, ack := 0 }] },
        { upLink with sending := [{ ftype := 1, seq := 0, ack := 0 }] }, { upLink with outq := [(1, [packetAck])] },
        { upLink with outq := [(3, [packetIdent])] }, { upLink with outq := [(0, [packetW])] }],
      (Assoc.get {} (linked k).net.links 2) = k ∧ k.st = .up ∧ k.retry.length < 512) ∧
    (List.replicate 512 ({ ftype := 1, seq := 1, ack := 0 } : Flit)).length = 512 ∧
    ({ upLink with outq := [(1, [packetAck])] } : Link).ready? 3 = none ∧ flitCount packetAck ≤ Assoc.get 0 upLink.credits 1 ∧
    flitCount packetIdent ≤ Assoc.get 0 upLink.credits 3 ∧ flitCount packetW ≤ Assoc.get 0 upLink.credits 0 ∧ flitsOf packetW ≠ [] ∧
    ({ upLink with outq := [(0, [packetW])] } : Link).ready? 0 = some packetW ∧ flitCount packetW = 1 ∧
    ({ upLink with outq := [(0, [packetW])] } : Link).ready? 2 = none ∧ (∀ vc ∈ [0, 1, 2, 3], upLink.ready? vc = none) ∧
    (upLink.drrNext = 0 ∨ upLink.drrNext = 2) := by
  decide +kernel

/-- A flit with the CRC of its content. -/
def good (f : Flit) : Flit := { f with crc := flitCrc f }

/-- Flits received: by a link that has nothing unacknowledged, and by one that does; in order, behind, ahead; packets begun, ended, malformed. -/
theorem witness_FlitsOnLinks_receive :
    upLink.rxLast + 1 = 0 ∧ upLink.retryDue = false ∧ upLink.rxBad = false ∧ ((1 : BitVec 12) ≠ upLink.rxLast + 1) ∧
    2048 ≤ (upLink.rxLast - (1 : BitVec 12)).toNat ∧ (upLink.rxLast - (0xFF0 : BitVec 12)).toNat < 2048 ∧
    (∀ t ∈ [0, 1, 2, 3], (good { ftype := t, seq := 0, ack := 0 }).crc = flitCrc (good { ftype := t, seq := 0, ack := 0 })) ∧
    ({ good { ftype := 0, seq := 0, ack := 0 } with crc := 0 } : Flit).crc ≠ flitCrc { good { ftype := 0, seq := 0, ack := 0 } with crc := 0 } ∧
    (∃ c ∈ ({ ftype := 0, seq := 0, ack := 0, codewords := [(16, true)] } : Flit).codewords, 15 < c.1) ∧
    packetOf (packetBytes packetW) = some packetW ∧ packetOf (List.replicate 31 0) = none ∧
    packetW.srcDom = (linked upLink).net.ownDom ∧ (Assoc.get {} (linked upLink).net.links 2).crossDomain = false ∧
    (linked upLink).hop packetW = .undeliverable false ∧ (linked upLink).hop { packetW with dstId := 0 } = .deliver ∧
    (State.hop { linked upLink with net := { links := [(2, upLink)], routes := [(7, 0x81000002)] } } packetW) = .out 2 ∧
    (State.hop { linked upLink with net := { links := [(2, upLink)], excluded := [0] } } packetW) = .drop ∧
    (linked { upLink with crossDomain := true }).dictVal 0x5000 5 0 = 0 := by
  decide +kernel

theorem witness_PacketsInFlits :
    (∀ p ∈ [packetW, packetR, packetAck, packetIdent], vcOfOp p.op.toNat = some p.vc.toNat ∧ p.len.toNat ≤ 4096 ∧
      p.payload.length = (if p.op = 0 then 0 else p.len.toNat)) ∧
    (flitsOf { packetW with len := 4096, payload := List.replicate 4096 0 }).length = 17 := by
  decide +kernel

/-- Training: every channel trained, link 2 in each state; the neighbour is device 7. -/
def trainedLink (k : Link) : State := { linked k with chans := (List.range 32).map (fun c => (c, { train := .trained })) }

/-- A mesh with the retries of link 11, forth and back. -/
def meshed : State := { State.reset with net := { meshRetries := [(22, 17), (23, 16)] } }

theorem witness_LinksAndMesh :
    (trainedLink {}).chansSettled = true ∧ (linked {}).chansSettled = false ∧ (Assoc.get {} (trainedLink {}).net.links 2).enabled = true ∧
    (∀ n ∈ [1, 2, 3, 4, 5], (Assoc.get {} (linked { st := .training n, attempts := 2 }).net.links 2).st = .training n) ∧
    (linked {}).net.ownId = 0 ∧ (Assoc.get {} (linked upLink).net.links 2).st = .up ∧ upLink.retryCount < 16 ∧
    (Assoc.get [] (Assoc.get {} (linked { upLink with inq := [(0, [packetW])] }).net.links 2).inq 0) = [packetW] ∧
    (linked upLink).hop packetW = .undeliverable false ∧
    (State.hop { linked upLink with net := { links := [(2, { upLink with outq := [(0, List.replicate 64 packetW)] })], routes := [(7, 0x81000002)] } }
      packetW) = .out 2 ∧
    ((Assoc.get [] ({ upLink with outq := [(0, List.replicate 64 packetW)] } : Link).outq 0).map flitCount).sum = 64 ∧
    meshEnds 0 = (0, 1) ∧ meshNext 0 3 = 1 ∧ meshed.net.meshHeld 1 .request = 0 ∧
    Assoc.get 0 meshed.net.meshRetries 22 = 17 ∧ (∀ b < 2, Assoc.get 0 State.reset.net.meshRetries (2 * 11 + b) < 17) := by
  decide +kernel

/-! ### Witnesses: requests of other devices, and responses -/

/-- Window 0 of context 0 over 64 KiB at virtual address 65,536, for every device. -/
def window : Window := { ctx := 0, base := 65536, len := 65536, read := true, write := true, atomic := true, source := none }
def serving (w : Window) (l : List Packet) : State :=
  holding 64 1 1 [] { mapped troupe with
    hub := { ctxs := [(0, { keySlot := 1, ptRoot := 0 })], windows := [(0, w)], keySlots := [(1, { st := .live, gen := 1, ceiling := 9 })]
             turns := [(4, { owner := 0, count := 3, mirror := none, vector := 0, exports := [none] })] }
    net := { delivered := l } }

/-- Requests of device 7 to this device, 0. -/
def request (op : BitVec 4) (len : Nat) (payload : List Byte) : Packet :=
  { op, vc := 0, dstId := 0, srcId := 7, dstDom := false, srcDom := false, len := BitVec.ofNat 13 len, payload }
/-- An ATOMIC that adds 5 as INT32. -/
def atomic5 : Packet := { request 2 4 (leBytes 4 5) with aux := 0 }

theorem witness_RequestsServed_choice :
    ({ delivered := [request 0 8 []] } : Net).nextOf? 0 (fun _ => true) = some (request 0 8 []) ∧
    ({ delivered := [request 1 1 [9], request 0 8 []] } : Net).nextOf? 0 (fun _ => true) = none ∧
    State.reset.net.nextOf? 3 (fun _ => true) = none ∧
    (match (serving window []).windowOf (request 0 0 []) 0 (·.read) with | .error e => decide (e = 10) | .ok _ => false) = true ∧
    Assoc.find? (serving window []).hub.windows ({ request 0 8 [] with sel := 1 }).sel.toNat = none ∧
    ({ window with source := some 6 }).source ≠ some (request 0 8 []).srcId.val ∧ (serving window []).ctxLive window.ctx = true ∧
    (match (serving window []).windowOf { request 0 8 [] with addr := 65528 } 8 (·.read) with
      | .ok x => decide (x = (window, 131064)) | .error _ => false) = true ∧
    window.len < ({ request 0 8 [] with addr := 65529 }).addr.toNat % 2 ^ 40 + 8 := by
  decide +kernel

theorem witness_RequestsServed_serve :
    ((serving window [request 0 8 []]).scanVa (.link false 7 0) 0 65536 8).2 = .ok (List.replicate 8 0) [] ∧
    (match ((serving window [request 1 1 [9]]).copyPlan 0 0 65536 0 [9]).2 with
      | .ok l => decide (l = [(⟨false, 65536, 1⟩, [(0, 9)])]) | _ => false) = true ∧
    (serving window [atomic5]).net.nextOf? 2 (fun _ => true) = some atomic5 ∧
    atomOpOf (atomic5.aux.toNat / 2 ^ 61) = some .add ∧ atomEntriesOf .add (atomWidth 0) atomic5.payload = some [(5, 0)] ∧
    ((serving window []).translate 0 0 65536 true).2 = .ok ⟨false, 65536, 1⟩ ∧
    (let q := agentReq 1 1 1024 (.modify 0 0 (2 ^ 63) .add 0 0 [(5, 0)]); q.kind = .modify 0 0 (2 ^ 63) .add 0 0 [(5, 0)] ∧ q.ell = 64) ∧
    (match (serving window []).windowOf { request 1 1 [9] with sel := 0 } 1 (·.write) with | .ok x => decide (x = (window, 65536)) | .error _ => false) =
      true ∧
    Assoc.find? (serving window []).hub.turns ({ request 3 0 [] with sel := 4 }).sel.toNat =
      some { owner := 0, count := 3, mirror := none, vector := 0, exports := [none] } ∧
    Assoc.find? (serving window []).hub.turns 5 = none ∧
    ({ delivered := [{ packetIdent with addr := 2 }] } : Net).nextOf? 8 (fun p => p.addr.toNat % 256 == 2) =
      some { packetIdent with addr := 2 } := by
  decide +kernel

/-- An outstanding request of engine 0 of tent 0, and its responses. -/
def remoteCopy : CopyOp := { ctx := 0, cmd := ref, dmaq := false, phase := 0, src := .va 0, dst := .va 65536, len := 64, handle := 0xFFFFFFFF, inc := 0
                             order := 0, outstanding := 1 }
def requesting (w : ReqWho) (l : List Packet) : State :=
  { due (mapped troupe) (cmd 5 []) with tents := [(0, { engines := [(0, remoteCopy)] })],
                                        net := { delivered := l, outstanding := [(9, { dev := 7, who := w })], echoTag := some 4 } }
def reply (op : BitVec 4) (status : W16) : Packet :=
  { op, vc := 1, dstId := 0, srcId := 7, dstDom := false, srcDom := false, tag := 9, status }

theorem witness_ResponsesTaken :
    (∀ op ∈ [(4 : BitVec 4), 5, 6], (requesting (.copyWrite 0 0 0 64) [reply op 0]).net.nextOf? op.toNat (fun _ => true) = some (reply op 0)) ∧
    Assoc.find? (requesting (.copyWrite 0 0 0 64) []).net.outstanding (reply 5 0).tag.toNat = some { dev := 7, who := .copyWrite 0 0 0 64 } ∧
    Assoc.find? State.reset.net.outstanding 9 = none ∧ answersKind (.copyWrite 0 0 0 64) 5 = true ∧ answersKind (.copyWrite 0 0 0 64) 4 = false ∧
    (requesting (.copyWrite 0 0 0 64) []).engine? 0 0 = some remoteCopy ∧ (requesting (.copyWrite 0 0 0 64) []).engine? 0 1 = none ∧
    (requesting (.command ref) []).cmd? ref = some (cmd 5 []) ∧ (cmd 5 []).cause = 0 ∧
    (requesting (.copyWrite 0 0 0 64) []).net.echoTag = some 4 ∧ ({ reply 5 0 with tag := 4 }).tag = 4 ∧
    (((requesting (.copyWrite 0 0 0 64) []).takeOutcome (.copyWrite 0 0 0 64) 1 []).2 = true) ∧
    ({ delivered := [{ packetIdent with addr := 3 }] } : Net).nextOf? 8 (fun p => p.addr.toNat % 256 == 3) =
      some { packetIdent with addr := 3 } := by
  decide +kernel

/-! ### Witnesses: power, voltages, pins -/

/-- The steelyard as `f` leaves it. -/
def yard (f : Steelyard → Steelyard) : State := State.reset.modYard f

theorem witness_PowerPeriods :
    State.reset.dictVal 0x2001 1 0 = 0 ∧ ({ State.reset with dict := { State.reset.dict with vals := [(0x2001 * 256 + 1, 1)] } } : State).dictVal
      0x2001 1 0 ≠ 0 ∧
    (yard (fun y => { y with ivHolders := [3], ivPeriods := 1 })).yard.ivPeriods ≠ 0 ∧
    (∀ t ∈ List.range 8, (State.reset.island t).st = .gated) ∧ State.reset.trip.latched = false ∧
    2 ∈ ({ State.reset with trip := { State.reset.trip with hot := [2] } } : State).trip.hot ∧
    ({ State.reset with dict := { State.reset.dict with vals := [(0x2300 * 256 + 2, 8)] } } : State).dictVal 0x2300 2 0 = 8 := by
  decide

/-- A junction at 100 °C, one at 95 °C and one below: the three cases of a floor, at the default throttle of 100 °C. -/
theorem witness_ThermalFloors :
    realOf (State.reset.dictVal 0xA001 1 0x42C80000) = 100 ∧ (100 : Rat) ≤ ((100000 : Int) : Rat) / 1000 ∧
    (100 : Rat) - 5 ≤ ((95000 : Int) : Rat) / 1000 ∧ ((94999 : Int) : Rat) / 1000 < (100 : Rat) - 5 ∧
    ({ junctionMilliC := [100000, 95000, 94999] } : PeriodSense).junctionMilliC[2]? = some 94999 := by
  decide +kernel

/-- A log in device memory or in host memory that can be reached; an interval whose first period found METER_OK. -/
theorem witness_energyLog :
    ({ State.reset with boot := { State.reset.boot with state := 2 } } : State).logReachable false = true ∧
    ({ State.reset with boot := { State.reset.boot with state := 2, cfgSpace := true } } : State).logReachable true = true ∧
    State.reset.logReachable true = false ∧ (yard (fun y => { y with meterStart := true })).yard.meterStart = true ∧
    (∀ t ∈ List.range 8, (State.reset.island t).fenced = false) := by decide

/-- Firmware runs; tent 0 as `i`. -/
def tented (i : Island) : State := { State.reset with islands := [(0, i)], boot := { State.reset.boot with state := 2 }, periods := 9 }

/-- A DISPATCH with every ring allowed that waits in a queue of context 0. -/
def dispatching (i : Island) : State :=
  { tented i with hub := { ctxs := [(0, { keySlot := 1, ptRoot := 0 })]
                           queues := [(3, { queue with admin := false, fetched := [fetched 8 (word0 1)] })] } }

theorem witness_TentsAndPins :
    (tented { stepping := true }).island 0 = { stepping := true } ∧
    (tented { mv := 700, goal := 705 }).island 0 = { mv := 700, goal := 705 } ∧
    (tented { st := .active, idleSince := some 0 }).islandQuiet 0 = true ∧ (tented {}).dictVal 0x3100 1 100 = 100 ∧
    100 ≤ 10 * ((tented {}).periods + 1 - 0) ∧ ¬(100 < 10 * ((tented {}).periods + 1 - 0)) ∧
    100 < 10 * (({ tented {} with periods := 10 } : State).periods + 1 - 0) ∧
    (tented { st := .stopped, idleSince := some 0 }).dictVal 0x3100 2 5 = 5 ∧
    100 * 5 < ({ tented {} with periods := 500 } : State).periods + 1 - 0 ∧ ({ tented {} with periods := 499 } : State).periods + 1 - 0 ≤ 100 * 5 ∧
    (tented {}).boot.state = 2 ∧ ((tented { measured := some 0 }).periods < 0 + 24 * 3600 * 100000) ∧
    (tented { measured := some 0 }).hub.queues = [] ∧ (tented { measured := some 0 }).hub.cmds = [] ∧
    cmdOp (fetched 8 (word0 1)).words = 1 ∧ (∃ r ∈ allowedRings (fetched 8 (word0 1)).words, tentOfRing r = 0) ∧
    (dispatching { measured := some 0 }).hub.queues ≠ [] ∧ (tented { vTest := 700 }).boot.state = 2 ∧
    ({ State.reset with clocks := { State.reset.clocks with active := 1 } } : State).clocks.active ≠ 0 ∧
    ({ State.reset with clocks := { State.reset.clocks with active := 1, refLost := true } } : State).clocks.refLost = true ∧
    ({ filtered := true, last := false, run := 7, due := false } : InputFilter).run = 7 ∧
    (State.reset.inputs.pin .brake).due = false := by
  decide

/-- Sets of the NV store: one bank, the other, both in either order, neither newer. -/
def dictBank (q : W32) : NvBank := nvBank 3 q (.dict [] 0)

theorem witness_StartAndLoss :
    State.reset.boot.rails = false ∧ State.reset.trip.latched = false ∧ State.reset.nvContent? 3 = none ∧
    ({ State.reset with nv := [(3, { bank0 := dictBank 4 })] } : State).nvContent? 3 = some (.dict [] 0) ∧
    (dictBank 4).holds 3 = true ∧ ({} : NvBank).holds 3 = false ∧ ({ bank0 := dictBank 4 } : NvSet).chosen? 3 = some (dictBank 4) ∧
    ((4 : W16) &&& 0x7FFF#16 ≠ 0) ∧ ((0x8000 : W16) &&& 0x7FFF#16 = 0) ∧
    (let a := dictBank 0xFFFFFFFF; let b := dictBank 0; 1 ≤ (b.seq - a.seq).toNat ∧ (b.seq - a.seq).toNat ≤ 2 ^ 31 - 1) ∧
    (let a := dictBank 0; let b := dictBank 0x80000000; 2 ^ 31 ≤ (b.seq - a.seq).toNat) ∧
    (NvContent.dict [] 0).image.length + 32 ≤ nvBankSize 3 ∧ (({} : NvSet).save 3 (.dict [] 0)).chosen? 3 = some (dictBank 1) ∧
    ((fun b : NvBank => some b.seq) (dictBank 4) = some 4) ∧ State.reset.dict.unsaved = false ∧ Assoc.find? State.reset.nvSaving 3 = none ∧
    Assoc.find? ({ State.reset with nvSaving := [(3, .dict [] 0)] } : State).nvSaving 3 = some (.dict [] 0) ∧
    (match romVerify {} {} with | .recovery _ _ => true | _ => false) = true ∧
    (tented {}).boot.state = 2 ∧ ((tented {}).chan 0).train = .untrained ∧
    Assoc.sortedFrom 0 [(3, 5), (4, 0)] = true ∧
    ({ State.reset with nv := [(7, { bank0 := nvBank 7 1 (.ceilings 5 [(3, 9)]) })] } : State).nvContent? 7 = some (.ceilings 5 [(3, 9)]) ∧
    ({ State.reset with nv := [(6, { bank0 := nvBank 6 1 (.memory [(0, { serial := some 5 })]) })] } : State).nvContent? 6 =
      some (.memory [(0, { serial := some 5 })]) := by
  decide +kernel

/-- A state before START_FROM_ROM in which the images have been lost: the ROM goes to recovery. -/
theorem witness_startFromRom :
    ({ State.reset with boot := { State.reset.boot with rails := true }, inputs := { State.reset.inputs with
      sysReset := { State.reset.inputs.sysReset with filtered := true } } } : State).boot.state = 0 ∧ State.reset.clocks.refLost = false := by
  decide

/-! ### Witnesses: the object dictionary -/

/-- Firmware runs and configuration space answers; session 1 of class 2 (vendor) is open from address 5, with a key of zeros. -/
def session : Session := { cls := 2, ctx := 0, via := .net 5 47230, clientNonce := [], deviceNonce := [], lastUse := 0, opened := true, key := List.replicate 32 0 }
def portal (d : Dict) : State :=
  { State.reset with boot := { State.reset.boot with state := 2, loaded := true, rails := true, cfgSpace := true, mailbox := true }
                     inputs := { State.reset.inputs with sysReset := { State.reset.inputs.sysReset with filtered := true } }, dict := d }
def opened : State := portal { State.reset.dict with sessions := [(1, session)] }

/-- The same with an identity. -/
def provided : State := { opened with boot := { opened.boot with identity := some { kPuf := 0, ds := List.replicate 32 0, priv := List.replicate 32 1, pub := [] } } }

/-- Messages: of a type, to an entry. -/
def message (type : Byte) (cls : Byte) (ix : W16) (sub : Byte) (dtype : Byte) (payload : List Byte) : Msg :=
  { type, cls, index := ix, sub, dtype, length := BitVec.ofNat 16 payload.length, payload, tag := List.replicate 32 0 }

theorem witness_seal : (provided.boot.identity.map (fun i => (i.ds.length, i.priv.length))) = some (32, 32) ∧
    (List.replicate 12 (0 : Byte)).length = 12 := by decide

theorem witness_ControlMessages :
    State.reset.reaches (.net 5 47230) = false ∧ opened.reaches (.net 5 47230) = true ∧ opened.reaches (.net 5 47231) = false ∧
      opened.reaches .mailbox = true ∧ opened.portMode = .full ∧
    (portal { State.reset.dict with ignored := [5] }).dict.ignored.contains 5 = true ∧
    (opened.dict.sessions.filter (fun p => p.2.opened)).length < 8 ∧ Assoc.find? opened.dict.sessions 1 = some session ∧
    Assoc.find? opened.dict.sessions 2 = none ∧ opened.secret? 2 0 = none ∧
    provided.secret? 2 0 ≠ none ∧
    ({ opened with boot := { opened.boot with state := 3 } } : State).portMode = .recovery ∧
    ({ opened with inputs := State.reset.inputs } : State).portMode = .always ∧
    dictRows 0x0001 = [] ∧ (dictEntry 0x2000 1).map (fun e => (e.dtype, e.access)) = some (0x07, .rw) ∧ typeSize 0x07 = some 4 ∧
    alwaysServed 0x1000 = true ∧ alwaysServed 0x4200 = false ∧ session.lastUse + 6000000 ≤ ({ opened with periods := 6000000 } : State).periods ∧
    session.lastResp = none ∧ opened.dict.duplicate = false := by
  decide +kernel

/-- A request by the mailbox with SESSION 0 in class 0, where the default lets it act as the operator, is admitted and passes its checks. -/
theorem witness_DictionaryWrites :
    provided.admitReq .mailbox (message 6 0 0x2000 1 0x07 [0, 0, 0, 0x45]) = (provided, some ⟨0, 0, none, []⟩) ∧
    (provided.checkMsg (message 6 0 0x2000 1 0x07 [0, 0, 0, 0x45]) ⟨0, 0, none, []⟩ true).2.isSome = true ∧
    realBad 0x45000000 = false ∧ realBad 0x7FC00000 = true ∧ ((List.range 8).map (fun t => provided.dictVal 0x2001 (2 + t) 32)).sum = 256 ∧
    provided.linkUp (provided.dictVal 0x3000 2 0) = false ∧ Assoc.find? provided.nvSaving 3 = none ∧
    provided.boot.identity ≠ none ∧ provided.boot.log.length < 256 ∧ provided.boot.manifest = none ∧ manifestOk [] = false ∧
    dictRangeBad 0x3100 1 100 = false ∧ provided.trip.latched = false := by
  decide +kernel

theorem witness_EveryCommandCompletes :
    Spec.nowhere (.hostRead Config.dpaLimit .shared 0) ∧ ¬Spec.nowhere (.hostRead (Config.dpaLimit - 1) .shared 0) ∧
    Spec.alwaysOnRow (.hostRead 0 .shared 0) = false ∧ Spec.alwaysOnRow .powerLoss = true := by
  refine ⟨?_, ?_, rfl, rfl⟩ <;> simp [Spec.nowhere, Config.dpaLimit]

/-- The trip is latched, clocks are stopped, and a sample of the board inputs waits. -/
def tripped : State :=
  { State.reset with trip := { State.reset.trip with latched := true }, clocks := { State.reset.clocks with stopped := true }
                     pending := [.inputSample { sysReset := true, perst := false, brake := true, alert := true }] }

theorem witness_AlwaysOnStaysSound :
    tripped.aon.Sound ∧ (∃ t, step tripped = .next t) ∧ tripped.trip.latched = true ∧ tripped.pending.head? ≠ some .powerLoss := by
  refine ⟨⟨fun _ => ⟨Nat.zero_le _, Nat.zero_le _, Nat.zero_le _⟩, fun _ => ⟨Nat.le_refl 0, Nat.le_refl 0⟩, by decide, fun _ => ?_, ?_, fun _ => rfl,
    by decide⟩, ⟨_, rfl⟩, rfl, by decide⟩
  · simp [tripped, State.aon, State.reset, Assoc.get, Assoc.find?, Island.sound]
  · simp [tripped, State.aon, State.reset, InputFilter.sound]

/-- At reset nothing is listed, and a step of a state whose memories are canonical. -/
theorem witness_MemoriesStayCanonical :
    State.reset.memSound ∧ (∃ t, step State.reset = .next t) ∧ (∃ t, step tripped = .next t) := 
  ⟨⟨fun _ h => (nomatch h), fun _ h => (nomatch h), rfl⟩, ⟨_, rfl⟩, ⟨_, rfl⟩⟩

/-! ### Results of the manual's worked examples -/

/-- ATOM.ADD of v30 to the word at v20, v21 + 8, by the threads whose p2 is false (the example of R106); IADD v2, v1, 5. -/
theorem test_decode :
    decodeAlasha 0xA090FF141EFF4402 0 who = some (.atomAdd who
      { guard := 0b10010, dst := 0xFF, addr := 20, srcB := 30, srcC := 0xFF, global := true, type := 4, offset := 2 }) ∧
    decodeAlasha 0x2100020100000005 0 who = some (.iadd who (.i { dst := 2, srcA := 1, imm := 5 })) := by
  decide

/-- The decode of DPA 0x012_3456_7C00 under R212, and its bushel set. -/
theorem test_place :
    placeOf (0x01234567C00 / 1024) = { tent := 7, channel := 31, rank := 0, bank := 10, row := 2330, k := 3, l := 9544371 } ∧
    bushelSet (0x01234567C00 / 1024) = 4441 := by
  decide

/-- Scratchpad bank cycles of 32 reads of 4 B at a stride of 64, 68 and 80 B (R168). -/
theorem test_bankCycles :
    ([64, 68, 80].map (fun d => bankCycles ((List.range 32).map (fun i => (d * i, 4))))) = [4, 2, 1] := by
  decide +kernel

/-- FP32 sums round to nearest even: 2^24 + 1 is 2^24 (R57). -/
theorem test_fp32Add :
    roundFmt 1 (FVal.add (decodeFmt 1 0x4B800000) (decodeFmt 1 0x3F800000)) = 0x4B800000 ∧
    roundFmt 1 (FVal.add (decodeFmt 1 0xCB800000) (decodeFmt 1 0x3F800000)) = 0xCB7FFFFF := by
  decide +kernel

/-- The drain of an element to BF16 at SCALE_EXP −3: to nearest even, toward zero, and by v above and below 0x4000_0000 (R154, R157). -/
theorem test_drainBf16 :
    (let x := FVal.scale (-3) (AccEl.decode (0x90 * 2 ^ 96 + 0x000181800000000000000000)).val
     (convertFmt 3 .nearest x).enc = 0x3FC1 ∧ (convertFmt 3 .zero x).enc = 0x3FC0 ∧ (convertFmt 3 (.stochastic 0x40000000) x).enc = 0x3FC1 ∧
      (convertFmt 3 (.stochastic 0x3FFFFFFF) x).enc = 0x3FC0) := by
  decide +kernel

/-- Ten grains whose BF16 exponent fields lie from 0x76 to 0x7B, with zeros among them: FORM 1 and 8 slots (R218). -/
theorem test_compress :
    let c := compress ((List.range 10).flatMap (fun g => [(64 * g, 0x81), (64 * g + 1, 0x3C), (64 * g + 3, 0x3B), (64 * g + 6, 0x80),
      (64 * g + 7, 0x3D)]))
    c.form = 1 ∧ c.stored = 8 ∧ c.zero = 0xFC00 := by
  decide +kernel

/-- The decision for tag 167: E5M2 with k = 19 and 900 values below (R250). -/
theorem test_decide :
    TagEnt.decide { samples := 1048576, zero := 48576, absmax := 0x3D180000, hist := [(16, 990700), (17, 8400), (31, 900)] } ⟨328, 0, 0⟩ 5 12 (-5)
      false = { fmt := 6, k := 19, outcome := 0, eref := -5, under := 900 } := by
  decide +kernel

/-- All tents active at one level and one power in µW, 400 W beside them, a cap of 1,700 W. -/
def capped (l p : Nat) : State :=
  { State.reset.modYard (fun y => { y with
      capW := 0x44D48000, effective := 1700, capLevel := (List.range 8).map (·, l), level := (List.range 8).map (·, l)
      sums := List.replicate 8 p ++ [400000000, 0, 0, 0, 0, 0, 0], samples := 1 }) with
    islands := (List.range 8).map (·, { st := .active }) }

/-- The level after a control period of it. -/
def nextLevel (l p : Nat) : Nat :=
  match exec (.controlPeriod { junctionMilliC := List.replicate 9 50000 }) (capped l p) with
  | .next s => Assoc.get 99 s.yard.level 3
  | _ => 99

/-- The first three periods after a cap is lowered to 1,700 W: 13 to 25 to 24, and no change (R393). -/
theorem test_controlPeriod : nextLevel 13 199328125 = 25 ∧ nextLevel 25 159015625 = 24 ∧ nextLevel 24 162375000 = 24 := by
  decide +kernel

/-- Oscillators 1.8 % slow and a slack of 22 ps at V_TEST 742: 18,000 ppm, 11 mV, 778 mV, AGED (R412 to R414). -/
theorem test_ageing :
    driftOf (List.replicate 16 1000) (List.replicate 16 982) = 18000 ∧ marginNeed 18000 22 = 11 ∧
    targetMv 742 11 = 778 ∧ ageStateOf 742 11 = 1 := by
  decide +kernel

/-- Five samples of the brake low and one high leave its level; eight low change it (R469). -/
theorem test_brake :
    let f : InputFilter := State.reset.inputs.brake
    let low (n : Nat) (f : InputFilter) : InputFilter := (List.range n).foldl (fun f _ => f.sample false) f
    (low 5 f).due = false ∧ (((low 5 f).sample true).run = 0) ∧ (low 7 ((low 5 f).sample true)).due = false ∧
      (low 8 ((low 5 f).sample true)).due = true := by
  decide

/-- The ROUTE entry of links 12 and 13 for device 1,030, one that names link 52, and its place (R276, R438). -/
theorem test_route :
    routeBad 0x8300034C = false ∧ routeBad 0x81000034 = true ∧
    (match exec (.route .mailbox (message 6 0 0x5108 7 0x03 [0x4C, 0x03, 0x00, 0x83])) provided with
      | .next s => Assoc.get 0 s.net.routes 1030 | _ => 0) = 0x8300034C := by
  decide +kernel

end Sys2Proof.Tests
end

section
/-!
PROOFS. BISNP_TIMEOUT (R356): what a device-fatal fault does, and the two cases of the step.
-/

namespace Sys2Proof.Machine

/-- The step is its meaning. -/
theorem exec_bisnpTimeout (grain : Nat) (s : State) : exec (.bisnpTimeout grain) s = execBisnpTimeout grain s := rfl

/-- What a device-fatal fault records and signals, before the contexts stop (R28, R356). -/
def State.recordFatal (s : State) (cause : Nat) (detail : W64) : State :=
  { s with
    resil := { s.resil with fatalCount := s.resil.fatalCount + 1, fatalCause := BitVec.ofNat 32 cause, fatalDetail := detail, viral := true }
    dict := { s.dict with unsaved := true }, out := s.out ++ [.viral] }

/-- A device-fatal fault records and signals, then stops every context that there was when it struck. -/
theorem State.deviceFatal_eq (s : State) (cause : Nat) (detail : W64) :
    s.deviceFatal cause detail =
      (s.hub.ctxs.map (·.1)).foldl (fun u c => u.loseCtx c none none false) (s.recordFatal cause detail) := rfl

/-- A snoop of the grain outstanding: the time-out is device-fatal. -/
theorem exec_bisnpTimeout_of_outstanding {grain : Nat} {s : State} (h : ∃ x ∈ s.hub.snoops, x.grain = grain) :
    exec (.bisnpTimeout grain) s = .next (s.deviceFatal 2 (BitVec.ofNat 64 (64 * grain))) := by
  have hany : s.hub.snoops.any (fun x => x.grain == grain) = true := by simpa using h
  rw [exec_bisnpTimeout, execBisnpTimeout, if_pos hany]

/-- No snoop of the grain outstanding: the time-out changes nothing. -/
theorem exec_bisnpTimeout_of_not_outstanding {grain : Nat} {s : State} (h : ∀ x ∈ s.hub.snoops, x.grain ≠ grain) :
    exec (.bisnpTimeout grain) s = .next s := by
  have hnone : ¬ s.hub.snoops.any (fun x => x.grain == grain) = true := by simpa using h
  rw [exec_bisnpTimeout, execBisnpTimeout, if_neg hnone]

/-- Settles O45: by whether a snoop of the grain is outstanding; the fault's record is `recordFatal` with cause 2 and the grain's address. -/
theorem snoopTimeout : Obligations.SnoopTimeout := by
  unfold Obligations.SnoopTimeout
  refine ⟨fun grain s hout t ht => ?_, fun grain s hnone => exec_bisnpTimeout_of_not_outstanding hnone⟩
  have hrecord : s.recordFatal 2 (BitVec.ofNat 64 (64 * grain)) = t := ht.symm
  rw [exec_bisnpTimeout_of_outstanding hout, State.deviceFatal_eq, hrecord]

end Sys2Proof.Machine
end

section
/-!
PROOFS. The thermal floors (R398): the law's table of floors, and that nothing later in the control period touches it.
-/

namespace Sys2Proof.Machine

/-! ### The floor of one tent -/

/-- At or above the throttle. -/
theorem thermalAfter_of_hot {old : Nat} {junction throttle : Rat} (h : throttle ≤ junction) :
    thermalAfter old junction throttle = min (old + 4) 56 := if_pos h

/-- More than 5 °C below the throttle. -/
theorem thermalAfter_of_cool {old : Nat} {junction throttle : Rat} (h : junction < throttle - 5) :
    thermalAfter old junction throttle = old - 1 := by
  have hbelow : ¬ throttle ≤ junction := by linarith
  rw [thermalAfter, if_neg hbelow, if_pos h]

/-- Below the throttle by 5 °C at most. -/
theorem thermalAfter_of_between {old : Nat} {junction throttle : Rat} (hlow : throttle - 5 ≤ junction) (hhigh : junction < throttle) :
    thermalAfter old junction throttle = old := by
  rw [thermalAfter, if_neg (not_le.mpr hhigh), if_neg (not_lt.mpr hlow)]

/-! ### The table of floors that the law leaves -/

/-- A value for each of the eight tents, read at one of them. -/
theorem Spec.get_perTent (f : Nat → Nat) {t : Nat} (h : t < 8) : Assoc.get 0 (Spec.perTent f) t = f t := by
  interval_cases t <;> rfl

/-- The floors after the control law, from the junctions and the throttle of the state before it. -/
theorem State.controlLaw_thermal (s : State) (power : List Rat) (junction : List Int) :
    (s.controlLaw power junction).yard.thermal = Spec.perTent (fun t =>
      thermalAfter (Assoc.get 0 s.yard.thermal t) ((junction.getD t 0 : Rat) / 1000) (realOf (s.dictVal 0xA001 1 0x42C80000))) := rfl

/-! ### What the rest of the period keeps -/

/-- The floors are part of the always-on domain. -/
theorem State.thermal_of_kept {s u : State} (h : s.kept = u.kept) : s.yard.thermal = u.yard.thermal :=
  congrArg (fun k => k.1.thermal) h

@[simp] theorem State.logRecord_kept (s : State) (r : List W64) : (s.logRecord r).kept = s.kept := by
  unfold State.logRecord
  dsimp only
  split
  · rfl
  · split <;> simp

@[simp] theorem State.closeInterval_kept (s : State) : s.closeInterval.kept = s.kept := by
  unfold State.closeInterval
  split
  · rfl
  · simp [Steelyard.addTotals, foldl_kept State.logRecord State.logRecord_kept]

@[simp] theorem State.addPeriod_kept (s : State) : s.addPeriod.kept = s.kept := by
  unfold State.addPeriod
  simp [apply_ite State.kept]

/-- Cutting the power of an island leaves the steelyard as it is. -/
@[simp] theorem State.gate_yard (s : State) (t : Nat) : (s.gate t).yard = s.yard := rfl

/-- Idleness is noted in the islands and the rings; the steelyard stays as it is. -/
@[simp] theorem State.noteIdle_yard (s : State) : s.noteIdle.yard = s.yard := by
  unfold State.noteIdle
  refine List.foldlRecOn (motive := fun u : State => u.yard = s.yard) _ _ rfl fun u hu t _ => ?_
  simp only [apply_ite State.yard, State.gate_yard, State.modIsland_yard, ite_self, hu]

/-! ### The control period -/

/-- The junction temperatures that a control period works with: what was sensed, or the last value of a sensor that sent none. -/
def State.junctionsOf (s : State) (x : PeriodSense) : List Int :=
  (List.range 9).map (fun i => (x.junctionMilliC[i]?).getD (s.yard.junction.getD i 0))

/-- A tent whose sensor sent a value. -/
theorem State.getD_junctionsOf {s : State} {x : PeriodSense} {t : Nat} {m : Int} (ht : t < 8) (hm : x.junctionMilliC[t]? = some m) :
    (s.junctionsOf x).getD t 0 = m := by
  have hrange : t < 9 := by omega
  simp [State.junctionsOf, List.getD, hrange, hm]

/-- The floors at the end of a control period are those of its law. -/
theorem State.controlPeriod_thermal (s : State) (x : PeriodSense) :
    (s.controlPeriod x).yard.thermal = (s.controlLaw s.yard.meanPower (s.junctionsOf x)).yard.thermal := by
  simp only [State.controlPeriod, State.modYard_yard, State.noteIdle_yard]
  rw [State.thermal_of_kept (State.addPeriod_kept _)]
  rfl

/-- The floor of a tent whose junction was sensed, after a control period. -/
theorem State.get_controlPeriod_thermal {s : State} {x : PeriodSense} {t : Nat} {m : Int} (ht : t < 8)
    (hm : x.junctionMilliC[t]? = some m) :
    Assoc.get 0 (s.controlPeriod x).yard.thermal t =
      thermalAfter (Assoc.get 0 s.yard.thermal t) ((m : Rat) / 1000) (realOf (s.dictVal 0xA001 1 0x42C80000)) := by
  rw [State.controlPeriod_thermal, State.controlLaw_thermal, Spec.get_perTent _ ht, State.getD_junctionsOf ht hm]

/-- Settles O52: the period leaves the floors of its law, and each range of the junction is one branch of `thermalAfter`. -/
theorem thermalFloors : Obligations.ThermalFloors := by
  unfold Obligations.ThermalFloors
  intro x s
  refine ⟨s.controlPeriod x, rfl, fun t m ht hm throttle hthrottle => ?_⟩
  rw [State.get_controlPeriod_thermal ht hm, ← hthrottle]
  exact ⟨thermalAfter_of_hot, thermalAfter_of_cool, thermalAfter_of_between⟩

end Sys2Proof.Machine
end
